-- ==== Sys2Proof/Word.lean ====
section
/-! DEFINITION. The word types of the part (R6, R7, R161) and the sparse maps its state is made of: lists of
(key, value) pairs in rising key order. -/

namespace Sys2Proof

/-- One byte. -/
abbrev Byte := BitVec 8
/-- A vector-register word or an instruction word (R6, R186). -/
abbrev Word := BitVec 32
/-- A uniform-register word, a pointer or a pod time (R8, R93, R330). -/
abbrev DWord := BitVec 64
/-- A pod address: bits [59:0] of a pointer (R5, R8). -/
abbrev VAddr := BitVec 60
/-- The 64 bytes of a line; byte 0 in bits [7:0] (R2, R6). -/
abbrev Line := BitVec 512

/-- A sparse map from keys to values: a list of pairs, kept in rising key order. -/
abbrev SMap (α : Type) := List (Nat × α)

namespace SMap

/-- The value at key `k`, if one is listed. -/
def find? {α : Type} (m : SMap α) (k : Nat) : Option α :=
  match m with
  | [] => none
  | (k', v) :: t => if k' = k then some v else SMap.find? t k

/-- The value at key `k`, or `d`. -/
def getD {α : Type} (m : SMap α) (k : Nat) (d : α) : α :=
  match SMap.find? m k with
  | some v => v
  | none => d

/-- Put `v` at key `k`, in place of what stood there. -/
def put {α : Type} (m : SMap α) (k : Nat) (v : α) : SMap α :=
  match m with
  | [] => [(k, v)]
  | (k', v') :: t =>
    if k < k' then (k, v) :: (k', v') :: t
    else if k = k' then (k, v) :: t
    else (k', v') :: SMap.put t k v

/-- Take every pair at key `k` away. -/
def del {α : Type} (m : SMap α) (k : Nat) : SMap α := m.filter fun c => c.1 != k

/-- Put `v` at `k` in a map whose unlisted keys read as `d`: a value equal to `d` is not listed. -/
def store {α : Type} [DecidableEq α] (m : SMap α) (d : α) (k : Nat) (v : α) : SMap α :=
  if v = d then SMap.del m k else SMap.put m k v

/-- Every value changed by `f`. -/
def mapVals {α : Type} (m : SMap α) (f : Nat → α → α) : SMap α := m.map fun c => (c.1, f c.1 c.2)

end SMap

end Sys2Proof
end

