-- ==== Sys2Proof/Syntax.lean ====
section
/-! DEFINITION. The syntax: the fields of every instruction word as the spec's formats lay them out (R188, R193), the prefix
(R190), the messages the part's own agents exchange, and Instr, one constructor for each row of the opcode table: the 218
instruction words and the 147 events. -/

namespace Sys2Proof

/-! ## Instruction words -/

/-- A prefix word's fields (R190). -/
structure Pfx where
  pm : BitVec 7
  n : Bool
  z : Bool
  rm : BitVec 3
  vc : BitVec 7
  x : BitVec 5
  deriving DecidableEq, Repr

/-- What stands beside the fields of a prefixable lane-set word: its B bit (R186) and its prefix, if it has one (R190). -/
structure Mod where
  b : Bool
  pfx : Option Pfx
  deriving DecidableEq, Repr

/-- Format LR with the type or sub-operation S as a field (R188). -/
structure LR where
  s : BitVec 2
  d : BitVec 7
  a : BitVec 7
  b : BitVec 7
  h : Bool
  deriving DecidableEq, Repr

/-- Format LR with S fixed by the mnemonic (R188, R194). -/
structure R3 where
  d : BitVec 7
  a : BitVec 7
  b : BitVec 7
  h : Bool
  deriving DecidableEq, Repr

/-- Format LU with the type S as a field (R188). -/
structure LU where
  s : BitVec 2
  d : BitVec 7
  a : BitVec 7
  h : Bool
  deriving DecidableEq, Repr

/-- Format LU with S and fn fixed by the mnemonic. -/
structure R2 where
  d : BitVec 7
  a : BitVec 7
  h : Bool
  deriving DecidableEq, Repr

/-- Format LC: pd, va, vb, H (R188). -/
structure LC where
  p : BitVec 7
  a : BitVec 7
  b : BitVec 7
  h : Bool
  deriving DecidableEq, Repr

/-- Format LG with the type S as a field (R188, R268). -/
structure LGF where
  s : BitVec 2
  d : BitVec 7
  a : BitVec 7
  g : BitVec 6
  deriving DecidableEq, Repr

/-- Format LG with S and op fixed by the mnemonic (R276). -/
structure LG where
  d : BitVec 7
  a : BitVec 7
  g : BitVec 6
  deriving DecidableEq, Repr

/-- `fcvt`: vd, va, conversion code, H (R272). -/
structure LCvt where
  d : BitVec 7
  a : BitVec 7
  c : BitVec 7
  h : Bool
  deriving DecidableEq, Repr

/-- Format LQ: fmt, vd, va, gt (R273). -/
structure LQ where
  f : BitVec 2
  d : BitVec 7
  a : BitVec 7
  g : BitVec 6
  deriving DecidableEq, Repr

/-- Format LK: vd, imm16 (R279). -/
structure LK where
  d : BitVec 7
  i : BitVec 16
  deriving DecidableEq, Repr

/-- Format LP: pd, pa, pb (R280). -/
structure LP where
  d : BitVec 7
  a : BitVec 7
  b : BitVec 7
  deriving DecidableEq, Repr

/-- Format LP with one predicate source (R280). -/
structure LP2 where
  d : BitVec 7
  a : BitVec 7
  deriving DecidableEq, Repr

/-- `jop` with a coefficient number k (R261). -/
structure LJk where
  d : BitVec 7
  a : BitVec 7
  k : BitVec 3
  h : Bool
  deriving DecidableEq, Repr

/-- Format LM: `ld` (R285). -/
structure LM where
  k : BitVec 4
  s : BitVec 3
  d : BitVec 7
  n : BitVec 6
  i : BitVec 4
  deriving DecidableEq, Repr

/-- Format LST: `st` (R286). -/
structure LST where
  s : BitVec 3
  v : BitVec 7
  n : BitVec 6
  i : BitVec 8
  deriving DecidableEq, Repr

/-- Format LAT: `atom` (R287). -/
structure LAT where
  o : BitVec 4
  d : BitVec 7
  n : BitVec 6
  deriving DecidableEq, Repr

/-- Format LS: `sld` and `sst`; `r` is vd or vs (R290, R291). -/
structure LS where
  s : BitVec 3
  r : BitVec 7
  a : BitVec 7
  i : BitVec 7
  deriving DecidableEq, Repr

/-- Format LAT: `satom` (R292). -/
structure LSA where
  o : BitVec 4
  d : BitVec 7
  a : BitVec 7
  deriving DecidableEq, Repr

/-- Format LXT: vd, va, gm (R302). -/
structure LXT where
  d : BitVec 7
  a : BitVec 7
  g : BitVec 6
  deriving DecidableEq, Repr

/-- Format LX: `mma`; `m` holds mode bits [4:1] (R317). -/
structure LX where
  d : BitVec 9
  a : BitVec 5
  b : BitVec 5
  m : BitVec 4
  deriving DecidableEq, Repr

/-- Format LACC: strip, v, col (R324). -/
structure LACC where
  s : BitVec 9
  v : BitVec 7
  c : BitVec 7
  deriving DecidableEq, Repr

/-- Format GR with three registers (R193). -/
structure GR where
  d : BitVec 6
  a : BitVec 6
  b : BitVec 6
  deriving DecidableEq, Repr

/-- Format GR with the gb field zero (R193). -/
structure GR2 where
  d : BitVec 6
  a : BitVec 6
  deriving DecidableEq, Repr

/-- Format GI (R193, R333). -/
structure GI where
  d : BitVec 6
  a : BitVec 6
  i : BitVec 12
  deriving DecidableEq, Repr

/-- `gshi`: kind and amount (R333). -/
structure GSh where
  d : BitVec 6
  a : BitVec 6
  k : BitVec 2
  s : BitVec 6
  deriving DecidableEq, Repr

/-- Format GK (R334). -/
structure GK where
  d : BitVec 6
  h : BitVec 2
  i : BitVec 16
  deriving DecidableEq, Repr

/-- Format GM with K (R336). -/
structure GMK where
  k : BitVec 4
  s : BitVec 2
  r : BitVec 6
  a : BitVec 6
  i : BitVec 6
  deriving DecidableEq, Repr

/-- Format GM with K zero; `r` is gd or gs (R336, R338). -/
structure GM where
  s : BitVec 2
  r : BitVec 6
  a : BitVec 6
  i : BitVec 6
  deriving DecidableEq, Repr

/-- `gatom`: op and order in fn (R337). -/
structure GAt where
  d : BitVec 6
  a : BitVec 6
  b : BitVec 6
  o : BitVec 4
  p : BitVec 2
  deriving DecidableEq, Repr

/-- Format GBC (R339). -/
structure GBC where
  a : BitVec 6
  o : BitVec 18
  deriving DecidableEq, Repr

/-- `bart` and `bars`: three registers and the swap flag (R347, R348). -/
structure GBar where
  d : BitVec 6
  a : BitVec 6
  b : BitVec 6
  w : Bool
  deriving DecidableEq, Repr

/-- Format GQ: `qpush` (R351). -/
structure GQ where
  q : BitVec 4
  a : BitVec 6
  b : BitVec 6
  m : Bool
  deriving DecidableEq, Repr

/-- Format GT: `tld` and `tst` (R350). -/
structure GT where
  t : BitVec 4
  a : BitVec 6
  deriving DecidableEq, Repr

/-! ## What the part's agents say to one another -/

/-- A thread: its team's context identifier, its group's `grpid` and its index in the group (R137, R159). -/
structure ThreadRef where
  ctx : Nat
  grp : Nat
  idx : Nat
  deriving DecidableEq, Repr

/-- The kind of a global access (R29, R43). -/
inductive Acc where
  | load
  | fetch
  | store
  | atomic (op : BitVec 4)
  deriving DecidableEq, Repr

/-- On whose behalf a request is made, and so where its replies go. -/
inductive Client where
  /-- One thread's `ld`, `st` or `atom`. -/
  | thread (t : ThreadRef)
  /-- The threads `ts` of one group's `gld`, `gst` or `gatom`. -/
  | group (ctx grp : Nat) (ts : List Nat)
  /-- The instruction fetch of a core for the run that would start at thread `t` (R143). -/
  | fetch (core : Nat) (t : ThreadRef)
  /-- The lane store of thread `t`'s lane (R55). -/
  | lane (t : ThreadRef)
  /-- The stash in bank `bank` of cluster `cluster`, for thread `t` (R65). -/
  | stash (cluster bank : Nat) (t : ThreadRef)
  /-- The home checks of `bmop stash` by the threads `ts` of a group (R64). -/
  | stashSet (ctx grp : Nat) (ts : List Nat)
  /-- An engine command (R113). -/
  | engine (id : Nat)
  /-- A buffer write of queue pair `qp` of function `fn` (R400). -/
  | net (fn qp : Nat)
  /-- An access of the dispatcher, the fault-queue unit or Bezel, by its number (R119). -/
  | agent (id : Nat)
  deriving DecidableEq, Repr

/-- A global request (R44, R119). -/
structure Req where
  id : Nat
  client : Client
  acc : Acc
  va : VAddr
  kidx : BitVec 4
  gkid : BitVec 16
  dom : BitVec 12
  part : Nat
  /-- The dispatcher's own right: no key or domain check limits it (R54, R157). -/
  own : Bool
  /-- The pointer was in host form (R10, R31). -/
  reloc : Bool
  dev : Nat
  die : Nat
  core : Nat
  ctx : BitVec 32
  pc : DWord
  /-- Address of the instruction after it. -/
  next : DWord
  /-- Bytes accessed. -/
  size : Nat
  /-- A store's bytes, or an atomic's operand. -/
  data : BitVec 512
  /-- The expected value of `cas` and `cas64`. -/
  cmp : DWord
  /-- The release tag the store or atomic sets at its line (R104). -/
  tag : DWord
  /-- First destination register of a load or atomic. -/
  dst : Nat
  /-- The load's size code (R285). -/
  szc : BitVec 3
  /-- The lookahead K of a load (R149). -/
  look : Nat
  /-- Order and scope (R96). -/
  order : BitVec 2
  scope : BitVec 3
  /-- It asks for ownership of the line: a store, an atomic, or a writable stash's fill (R65, R123). -/
  excl : Bool
  /-- The requester's slice or stash holds the line in S or O (R123). -/
  upg : Bool
  /-- From an agent of no cluster or a collective: it goes to the home through no slice (R119). -/
  direct : Bool
  /-- The bytes of a lane-store line that its write-back carries: bit i for byte i (R55). -/
  mask : BitVec 64
  deriving DecidableEq, Repr

/-- The outcome of a translation check as the requester hears it (R148, R35). -/
inductive Verdict where
  | pass
  /-- Cancelled; the home's cause of R29. -/
  | cancelled (cause : BitVec 8)
  /-- The region is invalid or closing (R17). -/
  | region
  /-- A negative reply: the home holds the request under a token (R30, R363). -/
  | held
  deriving DecidableEq, Repr

/-- What travels with a line's ownership or data: R121, R125. -/
structure LineInfo where
  data : Line
  lmax : Nat
  wl : Nat
  tag : DWord
  /-- The memory at the home does not have the data. -/
  dirty : Bool
  deriving DecidableEq, Repr

/-- A grant of a line by its home (R125): data, floors, W, tag, lease class and page key; `dirty`: the memory at the home does not have
the data. -/
structure Grant where
  data : Line
  fd : Nat
  fr : Nat
  wl : Nat
  tag : DWord
  lc : BitVec 2
  gkid : BitVec 16
  dirty : Bool
  deriving DecidableEq, Repr

/-- A snooped owner's answer (R129). -/
inductive SnoopResp where
  | data (i : LineInfo)
  | inFlight
  deriving DecidableEq, Repr

/-- The outcome of a fill of a line (R65, R143). -/
inductive FillRes where
  | filled (g : Grant) (lend : Nat)
  | region
  | denied (cause : BitVec 8)
  /-- A negative reply: the home holds the request under a token (R30, R67, R363). -/
  | held
  deriving DecidableEq, Repr

/-- A near unit that a recall's drop message reaches (R127). -/
inductive NearUnit where
  | pairCache (pair : Nat)
  | icache (core : Nat)
  | stash (cluster bank : Nat)
  deriving DecidableEq, Repr

/-- A write on its way into a bank: of which thread or engine command, where, and its bytes (R102, R111). -/
structure BankWrite where
  id : Nat
  by_ : Option ThreadRef
  engine : Option Nat
  cluster : Nat
  bank : Nat
  off : Nat
  size : Nat
  data : BitVec 512
  /-- A remote store: the target team and slot; it lands in the slot's bank when it retires (R88, R89). -/
  shadow : Option (Nat × Nat)
  deriving DecidableEq, Repr

/-- The areas of the image whose lines the register cache holds (R154, R158). -/
inductive RcArea where
  | vector
  | uniform
  | thread
  | engine
  deriving DecidableEq, Repr

/-- A line of the register cache. A vector line is register `reg` of 16 consecutive threads from index `blk` × 16; of the other areas it
is line `reg` of the group's record, in the thread area the record of thread `reg`, with `blk` 0 (R154, R158). -/
structure RcTag where
  area : RcArea
  ctx : Nat
  grp : Nat
  reg : Nat
  blk : Nat
  deriving DecidableEq, Repr

/-- Messages of other devices that a fabric flit carries (R394, R395). -/
inductive Remote where
  /-- A request of an agent of another device to one of this device's homes. -/
  | request (home : Nat) (r : Req)
  /-- The verdict on one of this device's requests. -/
  | verdict (r : Req) (v : Verdict)
  /-- A line in state L for one of this device's slices (R124). -/
  | lease (r : Req) (g : Grant) (lend : Nat)
  /-- The reply to a store performed at a home of another device. -/
  | accepted (r : Req) (w : Nat) (tag : DWord)
  /-- The reply to an atomic performed at a home of another device. -/
  | result (r : Req) (old : BitVec 128) (w : Nat) (tag : DWord)
  /-- A retry reply (R30). -/
  | retry (r : Req)
  /-- Ownership of a line for a stash of this device (R124). -/
  | grant (r : Req) (g : Grant)
  /-- A snoop forwarded to a stash of die `die` of this device that owns a line (R122, R124). -/
  | snoop (home die : Nat) (va : VAddr) (excl : Bool) (part : Nat)
  /-- The answer of a stash on die `die` of device `dev` to a snoop of one of this device's homes. -/
  | snoopResp (home dev die : Nat) (va : VAddr) (resp : SnoopResp) (part : Nat)
  /-- A write-back of a line by a stash on die `die` of device `dev` to one of this device's homes. -/
  | writeBack (home dev die : Nat) (va : VAddr) (i : LineInfo) (part : Nat)
  /-- A fault record for a queue of this device (R31). -/
  | record (part : Nat) (rec : BitVec 512)
  /-- A replay or cancel write for a token of one of this device's homes (R33). -/
  | replayTo (home part token : Nat) (cancel : Bool)
  /-- The sender's next key epoch (R396). -/
  | keyUpdate (epoch : BitVec 32)
  /-- A request that a token of one of this device's homes holds is withdrawn by its device, whose context departs (R36, R372). -/
  | withdraw (home : Nat) (r : Req)
  /-- A request of this device has left its held set (R36). -/
  | withdrawn (r : Req)
  deriving DecidableEq, Repr

/-- A fabric flit: its header fields, the messages whose mesh flits it carries, and, for one received, what its CRC and its tag showed
(R395). -/
structure FabricFlit where
  crcOk : Bool
  tagOk : Bool
  seq : BitVec 16
  ack : BitVec 16
  ptag : BitVec 6
  vc : BitVec 2
  /-- Mesh flits carried. -/
  count : BitVec 3
  src : BitVec 8
  dest : BitVec 8
  msgs : List Remote
  deriving DecidableEq, Repr

/-- What collective commands of the pod are matched by (R359). -/
structure CollTag where
  dom : BitVec 12
  tag : Word
  list : List Nat
  deriving DecidableEq, Repr

/-- A collective command that a device of the pod has posted (R358, R359): what must agree, and its operand. -/
structure Peer where
  dev : Nat
  op : BitVec 2
  bf16 : Bool
  count : Nat
  ndev : Nat
  /-- The source elements; this device's own are not read from here. -/
  vals : List (BitVec 32)
  deriving DecidableEq, Repr

/-- A stash bank that a slice asks (R67). -/
structure StashAt where
  cluster : Nat
  bank : Nat
  deriving DecidableEq, Repr

/-- A bridge flit: its CRC is right, and how many mesh flits it brings on which virtual channel (R133). -/
structure BridgeFlit where
  crcOk : Bool
  vc : BitVec 2
  count : Nat
  deriving DecidableEq, Repr

/-- Why the part meets a fatal error (R409). -/
inductive FatalCause where
  | directory
  | pageTable
  | bezel
  | podTime
  | watchdog
  deriving DecidableEq, Repr

/-- A unit that can be power-gated (R380). -/
inductive PowerUnit where
  | core (n : Nat)
  | cluster (n : Nat)
  | slice (die n : Nat)
  deriving DecidableEq, Repr

/-- Where a fault of storage stands, for the patrol scrub (R407). -/
inductive ScrubPlace where
  | hbm (dpa : Nat)
  | sram (unit : PowerUnit)
  deriving DecidableEq, Repr

/-- One firmware image as Bezel's boot meets it (R401). -/
structure FwImage where
  /-- Measurement register it extends. -/
  reg : Nat
  digest : BitVec 512
  sigOk : Bool
  version : Nat
  deriving DecidableEq, Repr

/-- A happening that an agent of the part has caused or the outside has asked for and that has yet to happen: the events of
`Instr`, in a type of their own, so that the state can hold them. -/
inductive Event where
  /-- RUN_START (R143) -/
  | runStart (core : Nat)
  /-- ICACHE_FILL (R143) -/
  | icacheFill (r : Req) (res : FillRes)
  /-- BOUND_STALL_EXPIRY (R144) -/
  | boundStallExpiry (core rid : Nat)
  /-- REGISTER_CACHE_FILL (R154) -/
  | registerCacheFill (core : Nat) (t : RcTag)
  /-- LANE_STORE_FILL (R55) -/
  | laneStoreFill (r : Req) (data : Line)
  /-- VERDICT_ARRIVAL (R148) -/
  | verdictArrival (r : Req) (v : Verdict)
  /-- LOAD_DATA_ARRIVAL (R149) -/
  | loadDataArrival (r : Req) (g : Grant) (lend ver : Nat)
  /-- STORE_REPLY (R101) -/
  | storeReply (r : Req) (w : Nat)
  /-- ATOMIC_RESULT_ARRIVAL (R149) -/
  | atomicResultArrival (r : Req) (old : BitVec 128) (w : Nat) (tag : DWord)
  /-- RELEASE_CONDITIONS_MET (R103) -/
  | releaseConditionsMet (t : ThreadRef)
  /-- ACQUIRE_WAIT_END (R105) -/
  | acquireWaitEnd (t : ThreadRef)
  /-- RETRY_REISSUE (R30) -/
  | retryReissue (r : Req)
  /-- SLICE_REQUEST (R119) -/
  | sliceRequest (r : Req)
  /-- SLICE_RENEWAL (R57) -/
  | sliceRenewal (r : Req) (ver : Nat)
  /-- HOME_REQUEST (R29) -/
  | homeRequest (home : Nat) (r : Req)
  /-- HOME_READ_SHARED (R123) -/
  | homeReadShared (home : Nat) (r : Req)
  /-- HOME_READ_EXCLUSIVE (R123) -/
  | homeReadExclusive (home : Nat) (r : Req)
  /-- HOME_UPGRADE (R128) -/
  | homeUpgrade (home : Nat) (r : Req)
  /-- HOME_DIRECT_REQUEST (R119) -/
  | homeDirectRequest (home : Nat) (r : Req)
  /-- INVALIDATION (R128) -/
  | invalidation (home die : Nat) (va : VAddr)
  /-- INVALIDATION_ACK (R125) -/
  | invalidationAck (home die : Nat) (va : VAddr) (lmax : Nat)
  /-- FORWARDED_SNOOP (R123) -/
  | forwardedSnoop (home die : Nat) (va : VAddr) (excl : Bool)
  /-- SNOOP_RESPONSE (R129) -/
  | snoopResponse (home die : Nat) (va : VAddr) (resp : SnoopResp)
  /-- WRITE_BACK (R122) -/
  | writeBack (home die : Nat) (va : VAddr) (i : LineInfo)
  /-- WRITE_BACK_ACK (R129) -/
  | writeBackAck (die : Nat) (va : VAddr)
  /-- CLEAN_DROP_NOTICE (R125) -/
  | cleanDropNotice (home die : Nat) (va : VAddr) (lmax : Nat)
  /-- OWNERSHIP_GRANT (R125) -/
  | ownershipGrant (r : Req) (g : Grant)
  /-- REMOTE_LEASE_GRANT (R124) -/
  | remoteLeaseGrant (home : Nat) (r : Req)
  /-- RECALL_DROP (R127) -/
  | recallDrop (unit : NearUnit) (va : VAddr)
  /-- STASH_FILL (R65) -/
  | stashFill (r : Req) (res : FillRes)
  /-- STASH_UPGRADE_GRANT (R66) -/
  | stashUpgradeGrant (r : Req) (g : Grant)
  /-- STASH_SNOOP (R67) -/
  | stashSnoop (home part : Nat) (stash : StashAt) (va : VAddr) (excl : Bool)
  /-- BANK_WRITE_RETIRE (R111) -/
  | bankWriteRetire (w : BankWrite)
  /-- BANK_ZERO_DONE (R76) -/
  | bankZeroDone (cluster bank : Nat)
  /-- GIVE_DRAIN_DONE (R81) -/
  | giveDrainDone (cluster give : Nat)
  /-- SLEEP_EXPIRY (R300) -/
  | sleepExpiry (t : ThreadRef)
  /-- SFX_RESULT_ARRIVAL (R305) -/
  | sfxResultArrival (t : ThreadRef) (level serial : Nat)
  /-- MMA_OCTET_DONE (R317) -/
  | mmaOctetDone (core op q : Nat)
  /-- MMA_COMPLETE (R318) -/
  | mmaComplete (core op : Nat)
  /-- QMX_ARM_MARK (R326) -/
  | qmxArmMark (ctx grp : Nat) (w0 w1 : DWord)
  /-- QMX_REPORT_FLAGS (R325) -/
  | qmxReportFlags (ctx grp : Nat)
  /-- MARK_POST (R326) -/
  | markPost (ctx grp mark : Nat)
  /-- COPY_PLAIN (R355) -/
  | copyPlain (id : Nat)
  /-- COPY_STRIDED (R355) -/
  | copyStrided (id : Nat)
  /-- COPY_TAGGED_PACK (R355) -/
  | copyTaggedPack (id : Nat)
  /-- COPY_TAGGED_UNPACK (R355) -/
  | copyTaggedUnpack (id : Nat)
  /-- COPY_STRIP_DRAIN (R355) -/
  | copyStripDrain (id : Nat)
  /-- GATHER (R357) -/
  | gather (id : Nat)
  /-- REDUCE_SCATTER (R359) -/
  | reduceScatter (id : Nat)
  /-- ALL_GATHER (R359) -/
  | allGather (id : Nat)
  /-- ALL_REDUCE (R359) -/
  | allReduce (id : Nat)
  /-- COLLECTIVE_MATCH (R359) -/
  | collectiveMatch (id : Nat) (tag : CollTag) (peers : List Peer)
  /-- COPY_WRITE_RETIRE (R356) -/
  | copyWriteRetire (id : Nat)
  /-- ENGINE_COMMAND_COMPLETE (R353) -/
  | engineCommandComplete (id : Nat)
  /-- TABLE_UPDATE_DISTRIBUTION (R18) -/
  | tableUpdateDistribution (v : DWord)
  /-- TABLE_UPDATE_SET_LIST (R15) -/
  | tableUpdateSetList (v : DWord)
  /-- TABLE_UPDATE_APERTURE (R11) -/
  | tableUpdateAperture (v : DWord)
  /-- A die's copy of a table takes an accepted value (R16): a part of TABLE_UPDATE_DONE. -/
  | tableCopy (die : Nat)
  /-- TABLE_UPDATE_DONE (R15) -/
  | tableUpdateDone
  /-- REGION_CLOSE_RECALL_DONE (R18) -/
  | regionCloseRecallDone (region : Nat)
  /-- INSTALL (R24) -/
  | install (home : Nat) (vpn : BitVec 44)
  /-- REMOVE (R24) -/
  | remove (home : Nat) (vpn : BitVec 44)
  /-- MOVE (R27) -/
  | move (home : Nat) (vpn : BitVec 44)
  /-- RECALL (R24) -/
  | recallPage (home : Nat) (vpn : BitVec 44)
  /-- HOME_RECALL_DONE (R25) -/
  | homeRecallDone (home : Nat)
  /-- MOVE_DRAIN_DONE (R27) -/
  | moveDrainDone (home : Nat)
  /-- MOVE_COPY_DONE (R27) -/
  | moveCopyDone (home : Nat)
  /-- FAULT_RECORD_WRITE (R32) -/
  | faultRecordWrite (part : Nat)
  /-- FAULT_QUEUE_COALESCE (R32) -/
  | faultQueueCoalesce (part : Nat)
  /-- FQBASE_WRITE (R32) -/
  | fqbaseWrite (part : Nat) (v : DWord)
  /-- FQHEAD_WRITE (R32) -/
  | fqheadWrite (part : Nat) (v : DWord)
  /-- REPLAY (R34) -/
  | replay (part : Nat) (v : DWord)
  /-- CANCEL (R35) -/
  | cancel (part : Nat) (v : DWord)
  /-- HOST_CXL_MEM_READ (R37) -/
  | hostCxlMemRead (dpa size : Nat) (ide : Bool)
  /-- HOST_CXL_MEM_WRITE (R116) -/
  | hostCxlMemWrite (dpa size : Nat) (data : BitVec 512) (ide : Bool)
  /-- HOST_STORE_COMPLETION (R116) -/
  | hostStoreCompletion (dpa w : Nat)
  /-- HOST_OWNERSHIP_REQUEST (R116) -/
  | hostOwnershipRequest (dpa : Nat) (ide : Bool)
  /-- HOST_OWNERSHIP_GRANT (R116) -/
  | hostOwnershipGrant (home : Nat) (va : VAddr)
  /-- HOST_SNOOP (R130) -/
  | hostSnoop (hpa : Nat) (excl : Bool)
  /-- HOST_BI_RESPONSE (R130) -/
  | hostBiResponse (home : Nat) (va : VAddr) (dirty : Option Line)
  /-- LAUNCH_QUEUE_ENABLE (R169) -/
  | launchQueueEnable (part queue : Nat) (v : DWord)
  /-- LQWP_WRITE (R170) -/
  | lqwpWrite (part queue : Nat) (v : DWord)
  /-- RECORD_TAKE (R172) -/
  | recordTake (part queue : Nat)
  /-- WAIT_CONDITION_POLL (R174) -/
  | waitConditionPoll (part queue : Nat)
  /-- TEAM_DISPATCH (R177) -/
  | teamDispatch (grid : Nat)
  /-- CLUSTER_SET_DISPATCH (R178) -/
  | clusterSetDispatch (grid : Nat)
  /-- DISPATCH_PRIORITY_BLOCK (R176) -/
  | dispatchPriorityBlock (grid : Nat)
  /-- TEAM_END (R164) -/
  | teamEnd (ctx : Nat)
  /-- GRID_COMPLETE (R175) -/
  | gridComplete (grid : Nat)
  /-- GRID_STALL_EVICT (R181) -/
  | gridStallEvict (grid : Nat)
  /-- GRID_STALL_FAULT (R183) -/
  | gridStallFault (grid : Nat)
  /-- SOFT_PREEMPT (R370) -/
  | softPreempt (part : Nat) (v : DWord)
  /-- HALT (R371) -/
  | halt (part : Nat) (v : DWord)
  /-- KILL (R370) -/
  | kill (part : Nat) (v : DWord)
  /-- RESUME (R370) -/
  | resume (part : Nat) (v : DWord)
  /-- GRACE_EXPIRY (R370) -/
  | graceExpiry (part : Nat)
  /-- KILL_TIMER_EXPIRY (R370) -/
  | killTimerExpiry (part : Nat)
  /-- TEAM_DEPARTED (R376) -/
  | teamDeparted (ctx : Nat)
  /-- LAYOUT_COMMIT (R385) -/
  | layoutCommit
  /-- LAYOUT_FLIP (R385) -/
  | layoutFlip
  /-- PARTITION_RESET (R387) -/
  | partitionReset (part : Nat)
  /-- PARTITION_RESET_DONE (R387) -/
  | partitionResetDone (part : Nat)
  /-- BEZEL_RESTART (R386) -/
  | bezelRestart
  /-- BUDGET_REFILL (R389) -/
  | budgetRefill
  /-- ENERGY_CHARGE (R389) -/
  | energyCharge
  /-- EXPORT (R391) -/
  | exportBlob (part : Nat) (session : DWord)
  /-- MIGRATION_RELEASE (R391) -/
  | migrationRelease (part : Nat)
  /-- IMPORT (R391) -/
  | importBlob (part : Nat) (session : DWord)
  /-- CONFIRM (R391) -/
  | confirm (part : Nat)
  /-- FABRIC_FLIT_RECEIVE (R397) -/
  | fabricFlitReceive (port : Nat) (f : FabricFlit)
  /-- FABRIC_NAK (R397) -/
  | fabricNak (port : Nat)
  /-- PORT_DOWN (R397) -/
  | portDown (port : Nat)
  /-- FABRIC_KEY_UPDATE (R396) -/
  | fabricKeyUpdate (port : Nat)
  /-- POD_TIME_FLIT (R398) -/
  | podTimeFlit (t : Nat)
  /-- POD_TIME_LOSS (R398) -/
  | podTimeLoss
  /-- POST_SEND (R399) -/
  | postSend (fn qp : Nat) (ptr : DWord) (len : Nat) (imm : Option Word)
  /-- POST_RECEIVE (R399) -/
  | postReceive (fn qp : Nat) (ptr : DWord) (len : Nat)
  /-- RDMA_SEND_ARRIVAL (R400) -/
  | rdmaSendArrival (fn qp psn : Nat) (data : List Byte) (imm : Option Word)
  /-- RDMA_REQUEST_ARRIVAL (R399) -/
  | rdmaRequestArrival (fn qp psn : Nat)
  /-- RNR_NAK (R400) -/
  | rnrNak (fn qp psn : Nat)
  /-- BEZEL_BOOT (R401) -/
  | bezelBoot (images : List FwImage)
  /-- FULL_RESET (R402) -/
  | fullReset
  /-- PROVISION (R402) -/
  | provision
  /-- SERVICE_TOKEN (R402) -/
  | serviceToken (signedOk : Bool)
  /-- CONFIDENTIAL_MODE_REQUEST (R403) -/
  | confidentialModeRequest (on : Bool)
  /-- SET_SHARED_RANGE (R404) -/
  | setSharedRange (part base count : Nat)
  /-- GET_VERSION (R405) -/
  | getVersion (fn : Nat)
  /-- GET_CAPABILITIES (R405) -/
  | getCapabilities (fn : Nat)
  /-- NEGOTIATE_ALGORITHMS (R405) -/
  | negotiateAlgorithms (fn : Nat)
  /-- GET_DIGESTS (R405) -/
  | getDigests (fn : Nat)
  /-- GET_CERTIFICATE (R405) -/
  | getCertificate (fn : Nat)
  /-- CHALLENGE (R405) -/
  | challenge (fn : Nat) (nonce : BitVec 256)
  /-- GET_MEASUREMENTS (R406) -/
  | getMeasurements (fn : Nat) (nonce : BitVec 256)
  /-- KEY_EXCHANGE (R405) -/
  | keyExchange (fn : Nat) (session : DWord) (point : BitVec 768)
  /-- FINISH (R405) -/
  | finish (fn : Nat) (session : DWord) (hmacOk : Bool)
  /-- KEY_UPDATE (R405) -/
  | keyUpdate (fn : Nat) (session : DWord)
  /-- END_SESSION (R405) -/
  | endSession (fn : Nat) (session : DWord)
  /-- PATROL_SCRUB (R407) -/
  | patrolScrub (place : ScrubPlace)
  /-- POISON_CONSUMED (R408) -/
  | poisonConsumed (t : ThreadRef)
  /-- FATAL_ERROR (R409) -/
  | fatalError (c : FatalCause)
  /-- REGISTER_WRITE (R410) -/
  | registerWrite (fn cap off : Nat) (v : DWord)
  /-- ILLEGAL_WORD (R196) -/
  | illegalWord (w : Word) (w2 : Option Word)
  /-- UNIT_POWER_GATE (R380) -/
  | unitPowerGate (u : PowerUnit)
  /-- UNIT_POWER_WAKE (R380) -/
  | unitPowerWake (u : PowerUnit)
  /-- PORT_RETRAIN_DONE (R397) -/
  | portRetrainDone (port : Nat) (ok : Bool)
  /-- UCIE_FLIT_RECEIVE (R133) -/
  | ucieFlitReceive (bridge : Nat) (flit : BridgeFlit)
  /-- TRANSPORT_ACK_ARRIVAL (R400) -/
  | transportAckArrival (fn qp psn : Nat) (ok : Bool)
  /-- HOST_LINK_TRAINING (R392) -/
  | hostLinkTraining (rate width : Nat)
  deriving DecidableEq, Repr

/-- One step of the part: an instruction word (`m` holds the B bit and the prefix; `e` is the B bit where a word takes no prefix)
or an event, which has no word. One constructor for each row of the opcode table. -/
inductive Instr where
  /-- FADD: Adds two floating-point registers per thread, rounded by the instruction's mode, with the jet rule of R238 when jo is at least 1. (R267) -/
  | fadd (m : Mod) (f : LR)
  /-- FSUB: Subtracts vb from va per thread, with one rounding. (R267) -/
  | fsub (m : Mod) (f : LR)
  /-- FMUL: Multiplies two floating-point registers per thread, with the product chain of R239 for jets. (R267) -/
  | fmul (m : Mod) (f : LR)
  /-- FMA: Computes va × vb + addend with one rounding; the addend is vc with a prefix and vd without. (R267) -/
  | fma (m : Mod) (f : LR)
  /-- FNMA: Computes addend − va × vb with one rounding. (R267) -/
  | fnma (m : Mod) (f : LR)
  /-- FMIN: Delivers the smaller operand under the NaN and signed-zero rules of R210, or the whole selected jet. (R267) -/
  | fmin (m : Mod) (f : LR)
  /-- FMAX: Delivers the larger operand under the NaN and signed-zero rules of R210, or the whole selected jet. (R267) -/
  | fmax (m : Mod) (f : LR)
  /-- FMOV: Moves a floating-point value bit for bit, with every coefficient of a jet. (R269) -/
  | fmov (m : Mod) (f : LU)
  /-- FABS: Clears the sign bit, or follows the non-smooth jet rule of R248. (R269) -/
  | fabs (m : Mod) (f : LU)
  /-- FNEG: Inverts the sign bit of the value, or of every coefficient of a jet. (R269) -/
  | fneg (m : Mod) (f : LU)
  /-- FRINT: Rounds to an integral value by the instruction's mode. (R269) -/
  | frint (m : Mod) (f : LU)
  /-- FFLOOR: Rounds to an integral value toward minus infinity. (R269) -/
  | ffloor (m : Mod) (f : LU)
  /-- FCEIL: Rounds to an integral value toward plus infinity. (R269) -/
  | fceil (m : Mod) (f : LU)
  /-- FTRUNC: Rounds to an integral value toward zero. (R269) -/
  | ftrunc (m : Mod) (f : LU)
  /-- FCLASS: Writes the 10-bit class mask of each element. (R270) -/
  | fclass (m : Mod) (f : LU)
  /-- FSAT: Clamps the value to the range 0 to 1. (R269) -/
  | fsat (m : Mod) (f : LU)
  /-- FCMPEQ: Sets a predicate when the two operands are equal. (R271) -/
  | fcmpeq (m : Mod) (f : LC)
  /-- FCMPLT: Sets a predicate when va is less than vb. (R271) -/
  | fcmplt (m : Mod) (f : LC)
  /-- FCMPLE: Sets a predicate when va is less than or equal to vb. (R271) -/
  | fcmple (m : Mod) (f : LC)
  /-- FCMPUN: Sets a predicate when either operand is a NaN. (R271) -/
  | fcmpun (m : Mod) (f : LC)
  /-- FADD_G: Adds a uniform register to va. (R268) -/
  | faddG (m : Mod) (f : LGF)
  /-- FMUL_G: Multiplies va by a uniform register. (R268) -/
  | fmulG (m : Mod) (f : LGF)
  /-- FMA_G: Computes va × g + addend with one rounding. (R268) -/
  | fmaG (m : Mod) (f : LGF)
  /-- FSUB_G: Subtracts a uniform register from va. (R268) -/
  | fsubG (m : Mod) (f : LGF)
  /-- FCVT: Converts between the formats of conversion code fn, under R218. (R272) -/
  | fcvt (m : Mod) (f : LCvt)
  /-- QNT: Quantises an F32 value into a tagged-block element and marks outliers. (R273) -/
  | qnt (m : Mod) (f : LQ)
  /-- SEL: Selects va or vb by the predicate held in the prefix vc. (R274) -/
  | sel (m : Mod) (f : R3)
  /-- IADD: Integer add, wrapping or signed-saturating. (R275) -/
  | iadd (m : Mod) (f : R3)
  /-- ISUB: Integer subtract. (R275) -/
  | isub (m : Mod) (f : R3)
  /-- IMUL: Integer multiply, low bits. (R275) -/
  | imul (m : Mod) (f : R3)
  /-- IMAD: Integer multiply-add with the addend vc or vd. (R275) -/
  | imad (m : Mod) (f : R3)
  /-- IMULHS: High half of the signed product. (R275) -/
  | imulhs (m : Mod) (f : R3)
  /-- IMULHU: High half of the unsigned product. (R275) -/
  | imulhu (m : Mod) (f : R3)
  /-- IABSD: Absolute difference of signed operands, as an unsigned value. (R275) -/
  | iabsd (m : Mod) (f : R3)
  /-- AND: Bitwise and. (R275) -/
  | land (m : Mod) (f : R3)
  /-- OR: Bitwise or. (R275) -/
  | lor (m : Mod) (f : R3)
  /-- XOR: Bitwise exclusive or. (R275) -/
  | lxor (m : Mod) (f : R3)
  /-- ANDN: Bitwise a and not b. (R275) -/
  | landn (m : Mod) (f : R3)
  /-- SHL: Shift left, with amount rules of R216. (R216) -/
  | shl (m : Mod) (f : R3)
  /-- SHR: Logical shift right. (R216) -/
  | shr (m : Mod) (f : R3)
  /-- SAR: Arithmetic shift right. (R216) -/
  | sar (m : Mod) (f : R3)
  /-- ROTL: Rotate left. (R216) -/
  | rotl (m : Mod) (f : R3)
  /-- IMINS: Signed minimum. (R275) -/
  | imins (m : Mod) (f : R3)
  /-- IMAXS: Signed maximum. (R275) -/
  | imaxs (m : Mod) (f : R3)
  /-- IMINU: Unsigned minimum. (R275) -/
  | iminu (m : Mod) (f : R3)
  /-- IMAXU: Unsigned maximum. (R275) -/
  | imaxu (m : Mod) (f : R3)
  /-- IMOV: Integer move. (R277) -/
  | imov (m : Mod) (f : R2)
  /-- NOT: Bitwise not. (R277) -/
  | lnot (m : Mod) (f : R2)
  /-- INEG: Integer negate. (R277) -/
  | ineg (m : Mod) (f : R2)
  /-- IABS: Integer absolute value. (R277) -/
  | iabs (m : Mod) (f : R2)
  /-- CLZ: Counts leading zero bits. (R277) -/
  | clz (m : Mod) (f : R2)
  /-- POPC: Counts set bits. (R277) -/
  | popc (m : Mod) (f : R2)
  /-- BREV: Reverses the bit order. (R277) -/
  | brev (m : Mod) (f : R2)
  /-- SEXT8: Sign-extends bits 7 to 0. (R277) -/
  | sext8 (m : Mod) (f : R2)
  /-- SEXT16: Sign-extends bits 15 to 0. (R277) -/
  | sext16 (m : Mod) (f : R2)
  /-- ZEXT8: Zero-extends bits 7 to 0. (R277) -/
  | zext8 (m : Mod) (f : R2)
  /-- ZEXT16: Zero-extends bits 15 to 0. (R277) -/
  | zext16 (m : Mod) (f : R2)
  /-- ICMPEQ: Sets a predicate when the integers are equal. (R278) -/
  | icmpeq (m : Mod) (f : LC)
  /-- ICMPNE: Sets a predicate when the integers differ. (R278) -/
  | icmpne (m : Mod) (f : LC)
  /-- ICMPLTS: Signed less-than compare. (R278) -/
  | icmplts (m : Mod) (f : LC)
  /-- ICMPLTU: Unsigned less-than compare. (R278) -/
  | icmpltu (m : Mod) (f : LC)
  /-- ICMPLES: Signed less-or-equal compare. (R278) -/
  | icmples (m : Mod) (f : LC)
  /-- ICMPLEU: Unsigned less-or-equal compare. (R278) -/
  | icmpleu (m : Mod) (f : LC)
  /-- IADD_G: Integer add with a uniform operand. (R276) -/
  | iaddG (m : Mod) (f : LG)
  /-- ISUB_G: Integer subtract of a uniform operand. (R276) -/
  | isubG (m : Mod) (f : LG)
  /-- IMUL_G: Integer multiply by a uniform operand. (R276) -/
  | imulG (m : Mod) (f : LG)
  /-- IMAD_G: Integer multiply-add with a uniform operand. (R276) -/
  | imadG (m : Mod) (f : LG)
  /-- AND_G: Bitwise and with a uniform operand. (R276) -/
  | landG (m : Mod) (f : LG)
  /-- OR_G: Bitwise or with a uniform operand. (R276) -/
  | lorG (m : Mod) (f : LG)
  /-- XOR_G: Bitwise exclusive or with a uniform operand. (R276) -/
  | lxorG (m : Mod) (f : LG)
  /-- SHL_G: Shift left by a uniform amount. (R276) -/
  | shlG (m : Mod) (f : LG)
  /-- SHR_G: Logical shift right by a uniform amount. (R276) -/
  | shrG (m : Mod) (f : LG)
  /-- SAR_G: Arithmetic shift right by a uniform amount. (R276) -/
  | sarG (m : Mod) (f : LG)
  /-- IMINS_G: Signed minimum with a uniform operand. (R276) -/
  | iminsG (m : Mod) (f : LG)
  /-- IMAXS_G: Signed maximum with a uniform operand. (R276) -/
  | imaxsG (m : Mod) (f : LG)
  /-- IMINU_G: Unsigned minimum with a uniform operand. (R276) -/
  | iminuG (m : Mod) (f : LG)
  /-- IMAXU_G: Unsigned maximum with a uniform operand. (R276) -/
  | imaxuG (m : Mod) (f : LG)
  /-- MOVI: Loads a sign-extended 16-bit immediate. (R279) -/
  | movi (m : Mod) (f : LK)
  /-- MOVHI: Replaces the high 16 bits of vd with an immediate. (R279) -/
  | movhi (m : Mod) (f : LK)
  /-- PAND: Predicate and. (R280) -/
  | pand (m : Mod) (f : LP)
  /-- POR: Predicate or. (R280) -/
  | por (m : Mod) (f : LP)
  /-- PXOR: Predicate exclusive or. (R280) -/
  | pxor (m : Mod) (f : LP)
  /-- PANDN: Predicate pa and not pb. (R280) -/
  | pandn (m : Mod) (f : LP)
  /-- PNOT: Predicate not. (R280) -/
  | pnot (m : Mod) (f : LP2)
  /-- PCOPY: Predicate copy. (R280) -/
  | pcopy (m : Mod) (f : LP2)
  /-- PSET: Sets a predicate to the literal 0 or 1. (R280) -/
  | pset (m : Mod) (d : BitVec 7) (b : Bool)
  /-- PMOV_V: Writes 1 or 0 into a vector register from a predicate. (R281) -/
  | pmovV (m : Mod) (f : R2)
  /-- PMOV_P: Sets a predicate when a vector register is nonzero. (R281) -/
  | pmovP (m : Mod) (f : R2)
  /-- JSEED: Builds a jet from a value and a direction. (R260) -/
  | jseed (m : Mod) (f : R3)
  /-- JGET: Reads coefficient k of a jet. (R261) -/
  | jget (m : Mod) (f : LJk)
  /-- JSET: Writes coefficient k of a jet. (R261) -/
  | jset (m : Mod) (f : LJk)
  /-- JDER: Delivers the k-th derivative k! × c_k. (R261) -/
  | jder (m : Mod) (f : LJk)
  /-- JDIFF: Differentiates a jet. (R261) -/
  | jdiff (m : Mod) (f : R2)
  /-- JINT: Integrates a jet, keeping vd's own c_0. (R261) -/
  | jint (m : Mod) (f : R2)
  /-- JTRUNC: Zeroes the coefficients above k. (R261) -/
  | jtrunc (m : Mod) (f : LJk)
  /-- LD: Loads from pod memory, ends its run and suspends the thread until the verdict. (R285) -/
  | ld (m : Mod) (f : LM)
  /-- ST: Stores to pod memory, ends its run and suspends the thread until the verdict. (R286) -/
  | st (m : Mod) (f : LST)
  /-- ATOM: Performs a read-modify-write at the line's coherence point and returns the old value. (R287) -/
  | atom (m : Mod) (f : LAT)
  /-- SLD: Loads from a bank, in passes over the sub-banks. (R290) -/
  | sld (m : Mod) (f : LS)
  /-- SST: Stores to a bank, or remotely into a phase-shadow slot. (R291) -/
  | sst (m : Mod) (f : LS)
  /-- SATOM: Performs an atomic on a bank word. (R292) -/
  | satom (m : Mod) (f : LSA)
  /-- BR: Branches the threads whose predicate is set. (R293) -/
  | br (e : Bool) (p : BitVec 7) (o : BitVec 16)
  /-- BRN: Branches the threads whose predicate is clear. (R293) -/
  | brn (e : Bool) (p : BitVec 7) (o : BitVec 16)
  /-- CALL: Pushes the return address and jumps. (R294) -/
  | call (e : Bool) (o : BitVec 24)
  /-- JMP: Jumps unconditionally. (R294) -/
  | jmp (e : Bool) (o : BitVec 24)
  /-- RET: Pops the call stack into the program counter, leaving the handler when top reaches 8 × DEPTH. (R297) -/
  | ret (e : Bool)
  /-- BRI: Branches to a full pointer, optionally pushing a link. (R297) -/
  | bri (e : Bool) (a : BitVec 7) (l : Bool)
  /-- ENROL: Sets the thread's bit in the enrolment mask g. (R155) -/
  | enrol (e : Bool) (g : BitVec 6)
  /-- REJOIN: Sets the thread's bit in g+1 and waits until g+1 equals g, then releases all waiters. (R155) -/
  | rejoin (e : Bool) (g : BitVec 6)
  /-- BARG: Group barrier over a mask; releases all participants 4 cycles after the last arrival. (R299) -/
  | barg (e : Bool) (g : BitVec 6)
  /-- EXIT: Ends the thread in state 3, or delivers a pending error fault instead. (R300) -/
  | exit (e : Bool)
  /-- TRAP: Enters the handler with a software-trap cause. (R300) -/
  | trap (e : Bool) (c : BitVec 4)
  /-- YIELD: Makes the thread ready at the next instruction with age 0. (R300) -/
  | yield (e : Bool)
  /-- LPOP: Takes the J+1 oldest entries of the current qsf level. (R308) -/
  | lpop (e : Bool) (a : BitVec 7)
  /-- FENCE: Orders the thread's accesses at a scope under R106. (R301) -/
  | fence (e : Bool) (s : BitVec 3) (o : BitVec 2)
  /-- SLEEP: Makes the thread not ready for 64 × 2^code cycles. (R300) -/
  | sleep (e : Bool) (c : BitVec 4)
  /-- NOP: Has no effect. (R300) -/
  | nop (e : Bool)
  /-- REDADD_F32: Tree sum of F32 values over the participants. (R302) -/
  | redaddF32 (e : Bool) (f : LXT)
  /-- REDADD_I32: Integer sum over the participants. (R302) -/
  | redaddI32 (e : Bool) (f : LXT)
  /-- REDMIN_F32: F32 minimum over the participants. (R302) -/
  | redminF32 (e : Bool) (f : LXT)
  /-- REDMAX_F32: F32 maximum over the participants. (R302) -/
  | redmaxF32 (e : Bool) (f : LXT)
  /-- REDMIN_S32: Signed minimum over the participants. (R302) -/
  | redminS32 (e : Bool) (f : LXT)
  /-- REDMAX_S32: Signed maximum over the participants. (R302) -/
  | redmaxS32 (e : Bool) (f : LXT)
  /-- REDAND: And over the participants. (R302) -/
  | redand (e : Bool) (f : LXT)
  /-- REDOR: Or over the participants. (R302) -/
  | redor (e : Bool) (f : LXT)
  /-- REDXOR: Exclusive or over the participants. (R302) -/
  | redxor (e : Bool) (f : LXT)
  /-- SCANADD_F32: Inclusive F32 scan over the tree of R228. (R302) -/
  | scanaddF32 (e : Bool) (f : LXT)
  /-- SCANADD_I32: Inclusive integer scan. (R302) -/
  | scanaddI32 (e : Bool) (f : LXT)
  /-- XSCANADD_I32: Exclusive integer scan. (R302) -/
  | xscanaddI32 (e : Bool) (f : LXT)
  /-- BCAST: Broadcasts va of the lowest participant. (R302) -/
  | bcast (e : Bool) (f : LXT)
  /-- RANK: Delivers the number of lower participants. (R302) -/
  | rank (e : Bool) (f : LXT)
  /-- RCP: Pushes 1/a into the thread's qsf. (R305) -/
  | frcp (m : Mod) (a : BitVec 7)
  /-- RSQRT: Pushes 1/√a into the thread's qsf. (R305) -/
  | frsqrt (m : Mod) (a : BitVec 7)
  /-- SQRT: Pushes √a into the thread's qsf. (R305) -/
  | fsqrt (m : Mod) (a : BitVec 7)
  /-- DIV: Pushes a/b into the thread's qsf. (R305) -/
  | fdiv (m : Mod) (a b : BitVec 7)
  /-- EXP2: Pushes 2^a into the thread's qsf. (R305) -/
  | fexp2 (m : Mod) (a : BitVec 7)
  /-- LOG2: Pushes log2 a into the thread's qsf. (R305) -/
  | flog2 (m : Mod) (a : BitVec 7)
  /-- EXP: Pushes e^a into the thread's qsf. (R305) -/
  | fexp (m : Mod) (a : BitVec 7)
  /-- LN: Pushes ln a into the thread's qsf. (R305) -/
  | fln (m : Mod) (a : BitVec 7)
  /-- SIN: Pushes sin a into the thread's qsf. (R305) -/
  | fsin (m : Mod) (a : BitVec 7)
  /-- COS: Pushes cos a into the thread's qsf. (R305) -/
  | fcos (m : Mod) (a : BitVec 7)
  /-- TANH: Pushes tanh a into the thread's qsf. (R305) -/
  | ftanh (m : Mod) (a : BitVec 7)
  /-- SIGM: Pushes the logistic sigmoid of a into the thread's qsf. (R305) -/
  | fsigm (m : Mod) (a : BitVec 7)
  /-- ERF: Pushes erf a into the thread's qsf. (R305) -/
  | ferf (m : Mod) (a : BitVec 7)
  /-- POW: Pushes a^b into the thread's qsf. (R305) -/
  | fpow (m : Mod) (a b : BitVec 7)
  /-- MMA: Queues one matrix operation of the issuing group covering one K-slice. (R317) -/
  | mma (e : Bool) (f : LX)
  /-- ACCRD: Reads one strip element into a vector register. (R324) -/
  | accrd (m : Mod) (f : LACC)
  /-- ACCWR: Writes one strip element from a vector register. (R324) -/
  | accwr (m : Mod) (f : LACC)
  /-- GADD: Uniform add. (R332) -/
  | gadd (e : Bool) (f : GR)
  /-- GSUB: Uniform subtract. (R332) -/
  | gsub (e : Bool) (f : GR)
  /-- GMUL: Uniform multiply, low 64 bits. (R332) -/
  | gmul (e : Bool) (f : GR)
  /-- GMULHS: High 64 bits of the signed product. (R332) -/
  | gmulhs (e : Bool) (f : GR)
  /-- GMULHU: High 64 bits of the unsigned product. (R332) -/
  | gmulhu (e : Bool) (f : GR)
  /-- GAND: Uniform and. (R332) -/
  | gand (e : Bool) (f : GR)
  /-- GOR: Uniform or. (R332) -/
  | gor (e : Bool) (f : GR)
  /-- GXOR: Uniform exclusive or. (R332) -/
  | gxor (e : Bool) (f : GR)
  /-- GANDN: Uniform a and not b. (R332) -/
  | gandn (e : Bool) (f : GR)
  /-- GSHL: Uniform shift left. (R332) -/
  | gshl (e : Bool) (f : GR)
  /-- GSHR: Uniform logical shift right. (R332) -/
  | gshr (e : Bool) (f : GR)
  /-- GSAR: Uniform arithmetic shift right. (R332) -/
  | gsar (e : Bool) (f : GR)
  /-- GROTL: Uniform rotate left. (R332) -/
  | grotl (e : Bool) (f : GR)
  /-- GMINS: Uniform signed minimum. (R332) -/
  | gmins (e : Bool) (f : GR)
  /-- GMAXS: Uniform signed maximum. (R332) -/
  | gmaxs (e : Bool) (f : GR)
  /-- GMINU: Uniform unsigned minimum. (R332) -/
  | gminu (e : Bool) (f : GR)
  /-- GMAXU: Uniform unsigned maximum. (R332) -/
  | gmaxu (e : Bool) (f : GR)
  /-- GPOPC: Counts set bits of a uniform register. (R332) -/
  | gpopc (e : Bool) (f : GR2)
  /-- GCLZ: Counts leading zeros of a uniform register. (R332) -/
  | gclz (e : Bool) (f : GR2)
  /-- GCTZ: Counts trailing zeros of a uniform register. (R332) -/
  | gctz (e : Bool) (f : GR2)
  /-- GBREV: Reverses the bits of a uniform register. (R332) -/
  | gbrev (e : Bool) (f : GR2)
  /-- GNOT: Uniform bitwise not. (R332) -/
  | gnot (e : Bool) (f : GR2)
  /-- GNEG: Uniform negate. (R332) -/
  | gneg (e : Bool) (f : GR2)
  /-- GMOV: Uniform move. (R332) -/
  | gmov (e : Bool) (f : GR2)
  /-- GADDI: Adds a sign-extended immediate. (R333) -/
  | gaddi (e : Bool) (f : GI)
  /-- GANDI: Ands with a sign-extended immediate. (R333) -/
  | gandi (e : Bool) (f : GI)
  /-- GORI: Ors with a sign-extended immediate. (R333) -/
  | gori (e : Bool) (f : GI)
  /-- GXORI: Exclusive-ors with a sign-extended immediate. (R333) -/
  | gxori (e : Bool) (f : GI)
  /-- GSHI: Shifts or rotates by an immediate amount. (R333) -/
  | gshi (e : Bool) (f : GSh)
  /-- GMOVK: Replaces one 16-bit quarter of gd. (R334) -/
  | gmovk (e : Bool) (f : GK)
  /-- GMOVZ: Places a 16-bit immediate in a zeroed register. (R334) -/
  | gmovz (e : Bool) (f : GK)
  /-- GCMPEQ: gd := 1 when equal. (R335) -/
  | gcmpeq (e : Bool) (f : GR)
  /-- GCMPNE: gd := 1 when different. (R335) -/
  | gcmpne (e : Bool) (f : GR)
  /-- GCMPLTS: Signed less-than. (R335) -/
  | gcmplts (e : Bool) (f : GR)
  /-- GCMPLTU: Unsigned less-than. (R335) -/
  | gcmpltu (e : Bool) (f : GR)
  /-- GCMPLES: Signed less-or-equal. (R335) -/
  | gcmples (e : Bool) (f : GR)
  /-- GCMPLEU: Unsigned less-or-equal. (R335) -/
  | gcmpleu (e : Bool) (f : GR)
  /-- GLD: Uniform load from pod memory, suspending the issue set until its verdict. (R336) -/
  | gld (e : Bool) (f : GMK)
  /-- GST: Uniform store to pod memory. (R336) -/
  | gst (e : Bool) (f : GM)
  /-- GATOM: Uniform atomic at dev scope. (R337) -/
  | gatom (e : Bool) (f : GAt)
  /-- GSLD: Uniform load from bank space. (R338) -/
  | gsld (e : Bool) (f : GM)
  /-- GSST: Uniform store to bank space. (R338) -/
  | gsst (e : Bool) (f : GM)
  /-- GBRZ: Branches the group when a register is zero. (R339) -/
  | gbrz (e : Bool) (f : GBC)
  /-- GBRNZ: Branches the group when a register is nonzero. (R339) -/
  | gbrnz (e : Bool) (f : GBC)
  /-- GJMP: Jumps the group. (R339) -/
  | gjmp (e : Bool) (o : BitVec 24)
  /-- RDSR: Reads a special register, waiting as R255 for jxf. (R342) -/
  | rdsr (e : Bool) (d r : BitVec 6)
  /-- WRSR: Writes a special register. (R342) -/
  | wrsr (e : Bool) (a r : BitVec 6)
  /-- SETJO: Sets the group's jet order. (R343) -/
  | setjo (e : Bool) (n : BitVec 6)
  /-- JXFCLR: Clears the selected jxf bits. (R343) -/
  | jxfclr (e : Bool) (a : BitVec 6)
  /-- GTRAP: Every thread of the issue set traps with the code. (R344) -/
  | gtrap (e : Bool) (c : BitVec 6)
  /-- GEXIT: Every thread of the issue set exits. (R344) -/
  | gexit (e : Bool)
  /-- GYIELD: Every thread of the issue set yields. (R344) -/
  | gyield (e : Bool)
  /-- WAITN: Waits until an outstanding-operation counter is at most n, then adopts the W of the completed operations. (R345) -/
  | waitn (e : Bool) (c : BitVec 2) (n : BitVec 8)
  /-- BART: Team barrier on a bank word, optionally swapping phase pairs. (R347) -/
  | bart (e : Bool) (f : GBar)
  /-- BARS: Cluster-set barrier on a Clasp register, optionally swapping phase pairs. (R348) -/
  | bars (e : Bool) (f : GBar)
  /-- QPUSH: Pushes a pair of command words, checking and queuing the command on the final pair. (R351) -/
  | qpush (e : Bool) (f : GQ)
  /-- QPOP: Takes the oldest entry of a group queue, or 0. (R352) -/
  | qpop (e : Bool) (d q : BitVec 6)
  /-- GIVE: Hands a private bank to the team accepting the tag, waiting for the match and the drain. (R81) -/
  | give (e : Bool) (f : GR)
  /-- BMOP_ACCEPT: Posts an accept for a tag into an empty slot. (R80) -/
  | bmopAccept (e : Bool) (f : GR)
  /-- BMOP_BWAIT: Waits until a given bank has arrived and consumes ARR. (R85) -/
  | bmopBwait (e : Bool) (f : GR2)
  /-- BMOP_RELEASE: Releases a slot according to its mode, writing back a stash. (R85) -/
  | bmopRelease (e : Bool) (f : GR2)
  /-- BMOP_STASH: Turns a private slot into a stash over a pod range after Locket and home checks. (R64) -/
  | bmopStash (e : Bool) (f : GR)
  /-- BMOP_PHASE: Pairs two private slots as phase-front and phase-shadow. (R87) -/
  | bmopPhase (e : Bool) (f : GR)
  /-- BMOP_QUERY: Returns the bmap of a slot. (R85) -/
  | bmopQuery (e : Bool) (f : GR2)
  /-- SYNCW_INIT: Sets a sync word's TARGET and clears COUNT. (R92) -/
  | syncwInit (e : Bool) (f : GR)
  /-- SYNCW_WAIT: Waits until the sync word's generation differs from gb. (R92) -/
  | syncwWait (e : Bool) (f : GR)
  /-- SYNCW_ARRIVE: Increments a sync word by its operand. (R92) -/
  | syncwArrive (e : Bool) (f : GR)
  /-- TLD: Loads a tile from a bank and sets its form attribute. (R350) -/
  | tld (e : Bool) (f : GT)
  /-- TST: Stores a tile to a bank. (R350) -/
  | tst (e : Bool) (f : GT)
  /-- LAUNCH: Appends a launch record from a bank to a device-fed queue after a dev-scope release. (R185) -/
  | launch (e : Bool) (f : GR)
  /-- RUN_START: The picker fills a free run place with an issue set chosen by run arbitration. (R143) -/
  | runStart (core : Nat)
  /-- ICACHE_FILL: An instruction-cache fill completes, letting the delayed run start; a fetch may take an execute fault. (R143) -/
  | icacheFill (r : Req) (res : FillRes)
  /-- BOUND_STALL_EXPIRY: A bound run stalled for 64 cycles gives up its run place as a whole. (R144) -/
  | boundStallExpiry (core rid : Nat)
  /-- REGISTER_CACHE_FILL: A register-cache line fills from the context image and its threads become ready. (R154) -/
  | registerCacheFill (core : Nat) (t : RcTag)
  /-- LANE_STORE_FILL: A lane-store line fills from the context image and the thread resumes at the instruction. (R55) -/
  | laneStoreFill (r : Req) (data : Line)
  /-- VERDICT_ARRIVAL: The verdict of a global memory instruction arrives and the thread becomes ready or stays suspended. (R148) -/
  | verdictArrival (r : Req) (v : Verdict)
  /-- LOAD_DATA_ARRIVAL: Loaded data is written to its destination, ending the lookahead wait. (R149) -/
  | loadDataArrival (r : Req) (g : Grant) (lend ver : Nat)
  /-- STORE_REPLY: The acceptance reply of a store arrives carrying W, raising hzg. (R101) -/
  | storeReply (r : Req) (w : Nat)
  /-- ATOMIC_RESULT_ARRIVAL: An atomic's old value and W return to the waiting thread. (R149) -/
  | atomicResultArrival (r : Req) (old : BitVec 128) (w : Nat) (tag : DWord)
  /-- RELEASE_CONDITIONS_MET: A waiting release is performed once replies, hzn and pod time ≥ hzg + δ hold. (R103) -/
  | releaseConditionsMet (t : ThreadRef)
  /-- ACQUIRE_WAIT_END: Pod time reaches tag + δ, letting later global loads of an acquiring thread proceed. (R105) -/
  | acquireWaitEnd (t : ThreadRef)
  /-- RETRY_REISSUE: A core reissues a request 2,048 cycles after a retry reply. (R30) -/
  | retryReissue (r : Req)
  /-- SLICE_REQUEST: A request arrives at a die-cache slice, which serves it, performs it as coherence point, or forwards it to the home. (R119) -/
  | sliceRequest (r : Req)
  /-- SLICE_RENEWAL: A lease renewal arrives at the slice, which returns a new lease or data with it. (R57) -/
  | sliceRenewal (r : Req) (ver : Nat)
  /-- HOME_REQUEST: A request arrives at its home, is translated and checked, then served, held, or refused. (R29) -/
  | homeRequest (home : Nat) (r : Req)
  /-- HOME_READ_SHARED: The home serves a read-shared request by its directory state. (R123) -/
  | homeReadShared (home : Nat) (r : Req)
  /-- HOME_READ_EXCLUSIVE: The home serves a read-exclusive request, invalidating sharers or forwarding to the owner. (R123) -/
  | homeReadExclusive (home : Nat) (r : Req)
  /-- HOME_UPGRADE: The home serves an upgrade, or treats one that lost a race as a read exclusive. (R128) -/
  | homeUpgrade (home : Nat) (r : Req)
  /-- HOME_DIRECT_REQUEST: A request from an agent outside any cluster is performed at the home. (R119) -/
  | homeDirectRequest (home : Nat) (r : Req)
  /-- INVALIDATION: A slice receives an invalidation, drops the line and acknowledges with its Lmax. (R128) -/
  | invalidation (home die : Nat) (va : VAddr)
  /-- INVALIDATION_ACK: The home receives an acknowledgement, raises its floors and grants on the last one. (R125) -/
  | invalidationAck (home die : Nat) (va : VAddr) (lmax : Nat)
  /-- FORWARDED_SNOOP: An owner receives a forwarded request and supplies data, or answers write-back in flight. (R123) -/
  | forwardedSnoop (home die : Nat) (va : VAddr) (excl : Bool)
  /-- SNOOP_RESPONSE: The home receives an owner's response and serves the requester or enters XW. (R129) -/
  | snoopResponse (home die : Nat) (va : VAddr) (resp : SnoopResp)
  /-- WRITE_BACK: A write-back arrives at the home, is acknowledged at once, and is applied or buffered. (R122) -/
  | writeBack (home die : Nat) (va : VAddr) (i : LineInfo)
  /-- WRITE_BACK_ACK: A slice receives the acknowledgement and frees its write-back buffer entry. (R129) -/
  | writeBackAck (die : Nat) (va : VAddr)
  /-- CLEAN_DROP_NOTICE: The home receives a clean-drop notice and raises its floor by the Lmax. (R125) -/
  | cleanDropNotice (home die : Nat) (va : VAddr) (lmax : Nat)
  /-- OWNERSHIP_GRANT: A new owner receives data with Fd, Fr, Wl and the tag and performs its waiting store. (R125) -/
  | ownershipGrant (r : Req) (g : Grant)
  /-- REMOTE_LEASE_GRANT: A slice of another device receives a line in state L, and the home raises RL. (R124) -/
  | remoteLeaseGrant (home : Nat) (r : Req)
  /-- RECALL_DROP: A pair cache, instruction cache or stash receives a drop message and acknowledges. (R127) -/
  | recallDrop (unit : NearUnit) (va : VAddr)
  /-- STASH_FILL: A stash line arrives and the thread resumes at its instruction, or a failed refill faults or is held. (R65) -/
  | stashFill (r : Req) (res : FillRes)
  /-- STASH_UPGRADE_GRANT: A stash regains exclusive ownership of an O line and the thread resumes. (R66) -/
  | stashUpgradeGrant (r : Req) (g : Grant)
  /-- STASH_SNOOP: A slice snoops a stash line, which supplies data and keeps O or drops the line. (R67) -/
  | stashSnoop (home part : Nat) (stash : StashAt) (va : VAddr) (excl : Bool)
  /-- BANK_WRITE_RETIRE: A bank, stash or remote write retires into its bank and hzn advances. (R111) -/
  | bankWriteRetire (w : BankWrite)
  /-- BANK_ZERO_DONE: A bank leaving the pool finishes its 1,024-cycle zeroing and can be attached. (R76) -/
  | bankZeroDone (cluster bank : Nat)
  /-- GIVE_DRAIN_DONE: The last drained access retires; the bank attaches to the receiving slot and ARR rises. (R81) -/
  | giveDrainDone (cluster give : Nat)
  /-- SLEEP_EXPIRY: A sleeping thread becomes ready at the next instruction. (R300) -/
  | sleepExpiry (t : ThreadRef)
  /-- SFX_RESULT_ARRIVAL: A special-function result enters its qsf level and its flags enter jxf. (R305) -/
  | sfxResultArrival (t : ThreadRef) (level serial : Nat)
  /-- MMA_OCTET_DONE: An octet's products pass their check and its strips are written, or the octet fails. (R317) -/
  | mmaOctetDone (core op q : Nat)
  /-- MMA_COMPLETE: A matrix operation completes and counter 1 of its group falls. (R318) -/
  | mmaComplete (core op : Nat)
  /-- QMX_ARM_MARK: A qmx command arms a consumed mark over a tile or bank range. (R326) -/
  | qmxArmMark (ctx grp : Nat) (w0 w1 : DWord)
  /-- QMX_REPORT_FLAGS: After earlier operations complete, posts and clears the group's matrix flags. (R325) -/
  | qmxReportFlags (ctx grp : Nat)
  /-- MARK_POST: Every operation of a mark's set has read its operands and the mark entry posts. (R326) -/
  | markPost (ctx grp mark : Nat)
  /-- COPY_PLAIN: The copy engine starts a plain copy of RLEN bytes. (R355) -/
  | copyPlain (id : Nat)
  /-- COPY_STRIDED: The copy engine starts a 2-D strided copy. (R355) -/
  | copyStrided (id : Nat)
  /-- COPY_TAGGED_PACK: The copy engine starts packing F32 values into tagged blocks. (R355) -/
  | copyTaggedPack (id : Nat)
  /-- COPY_TAGGED_UNPACK: The copy engine starts unpacking tagged blocks into F32 values. (R355) -/
  | copyTaggedUnpack (id : Nat)
  /-- COPY_STRIP_DRAIN: The copy engine drains strips to memory after earlier matrix operations complete. (R355) -/
  | copyStripDrain (id : Nat)
  /-- GATHER: The gather engine starts reading indexed rows into a bank. (R357) -/
  | gather (id : Nat)
  /-- REDUCE_SCATTER: A matched collective sums and scatters chunks across devices. (R359) -/
  | reduceScatter (id : Nat)
  /-- ALL_GATHER: A matched collective gathers every device's chunk. (R359) -/
  | allGather (id : Nat)
  /-- ALL_REDUCE: A matched collective sums across devices into every destination. (R359) -/
  | allReduce (id : Nat)
  /-- COLLECTIVE_MATCH: Every device has posted the command of a tag, so it is matched or ended with ERR 3. (R359) -/
  | collectiveMatch (id : Nat) (tag : CollTag) (peers : List Peer)
  /-- COPY_WRITE_RETIRE: An engine write of at most 64 bytes retires or is accepted and is counted. (R356) -/
  | copyWriteRetire (id : Nat)
  /-- ENGINE_COMMAND_COMPLETE: An engine command completes, posts its entry and lowers its counter. (R353) -/
  | engineCommandComplete (id : Nat)
  /-- TABLE_UPDATE_DISTRIBUTION: A DTCMD write with TABLE 00 writes a distribution entry under the transition rules. (R18) -/
  | tableUpdateDistribution (v : DWord)
  /-- TABLE_UPDATE_SET_LIST: A DTCMD write with TABLE 01 writes a set-list word unless its set is in use. (R15) -/
  | tableUpdateSetList (v : DWord)
  /-- TABLE_UPDATE_APERTURE: A DTCMD write with TABLE 10 writes an aperture entry. (R11) -/
  | tableUpdateAperture (v : DWord)
  /-- TABLE_UPDATE_DONE: All four dies' copies hold the new value and BUSY clears. (R15) -/
  | tableUpdateDone
  /-- REGION_CLOSE_RECALL_DONE: The last home reports its recall of a closing region done. (R18) -/
  | regionCloseRecallDone (region : Nat)
  /-- INSTALL: Writes or replaces a page-table entry, recalling the page's lines first. (R24) -/
  | install (home : Nat) (vpn : BitVec 44)
  /-- REMOVE: Recalls a page's lines and clears its entry. (R24) -/
  | remove (home : Nat) (vpn : BitVec 44)
  /-- MOVE: Starts switching a page between tiers by setting BSY and holding requests. (R27) -/
  | move (home : Nat) (vpn : BitVec 44)
  /-- RECALL: Recalls every line of a region held at this home. (R24) -/
  | recallPage (home : Nat) (vpn : BitVec 44)
  /-- HOME_RECALL_DONE: A recall completes once copies are returned and pod time ≥ RL + δ(pod); an INSTALL or REMOVE then changes its entry. (R25) -/
  | homeRecallDone (home : Nat)
  /-- MOVE_DRAIN_DONE: Accesses to the old frame complete and owned copies are taken back, so the copy begins. (R27) -/
  | moveDrainDone (home : Nat)
  /-- MOVE_COPY_DONE: The copy or compression ends; the entry is written or the move refused, and held requests are served. (R27) -/
  | moveCopyDone (home : Nat)
  /-- FAULT_RECORD_WRITE: The fault-queue unit writes a waiting record into the ring and advances FQTAIL. (R32) -/
  | faultRecordWrite (part : Nat)
  /-- FAULT_QUEUE_COALESCE: The oldest unread record reaches COAL µs and the armed unit raises its vector. (R32) -/
  | faultQueueCoalesce (part : Nat)
  /-- FQBASE_WRITE: Writing FQBASE empties the ring, sets the pass bit and restarts the unit. (R32) -/
  | fqbaseWrite (part : Nat) (v : DWord)
  /-- FQHEAD_WRITE: Writing FQHEAD advances the head within its span and re-arms the interrupt. (R32) -/
  | fqheadWrite (part : Nat) (v : DWord)
  /-- REPLAY: Frees a token and re-checks every held request of it at the home. (R34) -/
  | replay (part : Nat) (v : DWord)
  /-- CANCEL: Frees a token and answers every held request as cancelled. (R35) -/
  | cancel (part : Nat) (v : DWord)
  /-- HOST_CXL_MEM_READ: A host read of a device physical address is served at the home or poisoned. (R37) -/
  | hostCxlMemRead (dpa size : Nat) (ide : Bool)
  /-- HOST_CXL_MEM_WRITE: A host store is ordered at the home and given a W. (R116) -/
  | hostCxlMemWrite (dpa size : Nat) (data : BitVec 512) (ide : Bool)
  /-- HOST_STORE_COMPLETION: Pod time reaches a host store's W and its completion returns to the host. (R116) -/
  | hostStoreCompletion (dpa w : Nat)
  /-- HOST_OWNERSHIP_REQUEST: A host HDM-DB ownership request arrives at the home. (R116) -/
  | hostOwnershipRequest (dpa : Nat) (ide : Bool)
  /-- HOST_OWNERSHIP_GRANT: Pod time reaches the lease end plus δ(sys) and ownership goes to the host. (R116) -/
  | hostOwnershipGrant (home : Nat) (va : VAddr)
  /-- HOST_SNOOP: A host snoop of a tier-2 line is answered after a recall from every slice. (R130) -/
  | hostSnoop (hpa : Nat) (excl : Bool)
  /-- HOST_BI_RESPONSE: The host answers a back-invalidate and the entry leaves BI. (R130) -/
  | hostBiResponse (home : Nat) (va : VAddr) (dirty : Option Line)
  /-- LAUNCH_QUEUE_ENABLE: Writing EN from 0 to 1 resets the ring indices and clears ERR. (R169) -/
  | launchQueueEnable (part queue : Nat) (v : DWord)
  /-- LQWP_WRITE: A host write of LQWP sets the entries the dispatcher will take and prompts event reads. (R170) -/
  | lqwpWrite (part queue : Nat) (v : DWord)
  /-- RECORD_TAKE: The dispatcher takes a record, reads it and the key set, and checks or refuses it. (R172) -/
  | recordTake (part queue : Nat)
  /-- WAIT_CONDITION_POLL: Every 2,048 ns the dispatcher rereads event words of waiting records. (R174) -/
  | waitConditionPoll (part queue : Nat)
  /-- TEAM_DISPATCH: The dispatcher places the next team on the first fitting core and dispatches it. (R177) -/
  | teamDispatch (grid : Nat)
  /-- CLUSTER_SET_DISPATCH: A cluster set is dispatched whole to the first fitting cluster. (R178) -/
  | clusterSetDispatch (grid : Nat)
  /-- DISPATCH_PRIORITY_BLOCK: A team waits 1 ms without fitting and lower-PRIO records stop dispatching. (R176) -/
  | dispatchPriorityBlock (grid : Nat)
  /-- TEAM_END: All threads exited and operations completed, so the team ends and its banks and image return. (R164) -/
  | teamEnd (ctx : Nat)
  /-- GRID_COMPLETE: After pod time ≥ H + δ(sys), the dispatcher writes the completion word and raises MSI-X. (R175) -/
  | gridComplete (grid : Nat)
  /-- GRID_STALL_EVICT: A PROG grid stalled for 65,536 cycles has its resident teams evicted. (R181) -/
  | gridStallEvict (grid : Nat)
  /-- GRID_STALL_FAULT: The stall counter expires and waiting threads take a grid-stall fault. (R183) -/
  | gridStallFault (grid : Nat)
  /-- SOFT_PREEMPT: PCTL OP 1 stops the queues while resident teams run on. (R370) -/
  | softPreempt (part : Nat) (v : DWord)
  /-- HALT: PCTL OP 2 halts the resident teams and saves them to their images. (R371) -/
  | halt (part : Nat) (v : DWord)
  /-- KILL: PCTL OP 3 kills the targeted grids and resets their cores, banks and strips. (R370) -/
  | kill (part : Nat) (v : DWord)
  /-- RESUME: PCTL OP 4 restarts the stopped queues so halted teams can be dispatched again. (R370) -/
  | resume (part : Nat) (v : DWord)
  /-- GRACE_EXPIRY: The grace timer expires and the halt rung begins. (R370) -/
  | graceExpiry (part : Nat)
  /-- KILL_TIMER_EXPIRY: The kill timer expires and the kill rung begins. (R370) -/
  | killTimerExpiry (part : Nat)
  /-- TEAM_DEPARTED: Every halt step has finished and the team has departed. (R376) -/
  | teamDeparted (ctx : Nat)
  /-- LAYOUT_COMMIT: LCMD OP 01 validates the shadow sets and starts phase 1 of a commit. (R385) -/
  | layoutCommit
  /-- LAYOUT_FLIP: Phase 1 ends and the live sets take the shadow values in one step. (R385) -/
  | layoutFlip
  /-- PARTITION_RESET: LCMD OP 10 kills, cancels, flushes, power-cycles and purges a partition. (R387) -/
  | partitionReset (part : Nat)
  /-- PARTITION_RESET_DONE: The window scrub ends, the registers reset and BUSY clears. (R387) -/
  | partitionResetDone (part : Nat)
  /-- BEZEL_RESTART: Bezel's watchdog fires and the restart acts on the commit journal. (R386) -/
  | bezelRestart
  /-- BUDGET_REFILL: Each whole millisecond every balance becomes its allocation less any deficit. (R389) -/
  | budgetRefill
  /-- ENERGY_CHARGE: Each µs Bezel charges the weighted activity counters against the energy balance. (R389) -/
  | energyCharge
  /-- EXPORT: Seals a halted partition's memory and state into a blob. (R391) -/
  | exportBlob (part : Nat) (session : DWord)
  /-- MIGRATION_RELEASE: The source scrubs the partition and destroys its transport key. (R391) -/
  | migrationRelease (part : Nat)
  /-- IMPORT: Opens a blob and rebuilds the partition with rebased frames and domains. (R391) -/
  | importBlob (part : Nat) (session : DWord)
  /-- CONFIRM: The destination destroys its transport key so the partition may start. (R391) -/
  | confirm (part : Nat)
  /-- FABRIC_FLIT_RECEIVE: A fabric flit arrives and is checked by CRC, sequence and tag. (R397) -/
  | fabricFlitReceive (port : Nat) (f : FabricFlit)
  /-- FABRIC_NAK: A NAK makes the sender replay from the first unacknowledged flit. (R397) -/
  | fabricNak (port : Nat)
  /-- PORT_DOWN: A port is taken down and unanswered requests are reissued over another port. (R397) -/
  | portDown (port : Nat)
  /-- FABRIC_KEY_UPDATE: After 2^40 flits a direction's key is updated. (R396) -/
  | fabricKeyUpdate (port : Nat)
  /-- POD_TIME_FLIT: A link-control flit carries pod time from the reference device. (R398) -/
  | podTimeFlit (t : Nat)
  /-- POD_TIME_LOSS: A device out of sync with pod time for 1 ms raises a fatal error. (R398) -/
  | podTimeLoss
  /-- POST_SEND: Software posts a send work request, checked for R. (R399) -/
  | postSend (fn qp : Nat) (ptr : DWord) (len : Nat) (imm : Option Word)
  /-- POST_RECEIVE: Software posts a receive buffer, checked for W. (R399) -/
  | postReceive (fn qp : Nat) (ptr : DWord) (len : Nat)
  /-- RDMA_SEND_ARRIVAL: An arriving send is placed in a posted buffer or refused with RNR or error. (R400) -/
  | rdmaSendArrival (fn qp psn : Nat) (data : List Byte) (imm : Option Word)
  /-- RDMA_REQUEST_ARRIVAL: An incoming RDMA read, write or atomic is answered with a remote-access NAK. (R399) -/
  | rdmaRequestArrival (fn qp psn : Nat)
  /-- RNR_NAK: A sender receives an RNR NAK and retries or completes with an error. (R400) -/
  | rnrNak (fn qp psn : Nat)
  /-- BEZEL_BOOT: Bezel boots from ROM, verifies firmware and extends the measurements. (R401) -/
  | bezelBoot (images : List FwImage)
  /-- FULL_RESET: A full reset wipes HBM and SRAM and applies any pending mode. (R402) -/
  | fullReset
  /-- PROVISION: Moves a blank part to provisioned, generating its identity key. (R402) -/
  | provision
  /-- SERVICE_TOKEN: A signed token moves a deployed part to service. (R402) -/
  | serviceToken (signedOk : Bool)
  /-- CONFIDENTIAL_MODE_REQUEST: A mailbox request sets confidential mode for the next full reset. (R403) -/
  | confidentialModeRequest (on : Bool)
  /-- SET_SHARED_RANGE: A vendor-defined SPDM request sets a partition's shared frame range. (R404) -/
  | setSharedRange (part base count : Nat)
  /-- GET_VERSION: SPDM request for the version. (R405) -/
  | getVersion (fn : Nat)
  /-- GET_CAPABILITIES: SPDM request for capabilities. (R405) -/
  | getCapabilities (fn : Nat)
  /-- NEGOTIATE_ALGORITHMS: SPDM algorithm negotiation. (R405) -/
  | negotiateAlgorithms (fn : Nat)
  /-- GET_DIGESTS: SPDM request for certificate digests. (R405) -/
  | getDigests (fn : Nat)
  /-- GET_CERTIFICATE: SPDM request for a certificate. (R405) -/
  | getCertificate (fn : Nat)
  /-- CHALLENGE: SPDM challenge signed with the attestation key. (R405) -/
  | challenge (fn : Nat) (nonce : BitVec 256)
  /-- GET_MEASUREMENTS: SPDM request for signed measurement blocks. (R406) -/
  | getMeasurements (fn : Nat) (nonce : BitVec 256)
  /-- KEY_EXCHANGE: SPDM ECDHE key exchange. (R405) -/
  | keyExchange (fn : Nat) (session : DWord) (point : BitVec 768)
  /-- FINISH: SPDM session finish. (R405) -/
  | finish (fn : Nat) (session : DWord) (hmacOk : Bool)
  /-- KEY_UPDATE: SPDM session key update. (R405) -/
  | keyUpdate (fn : Nat) (session : DWord)
  /-- END_SESSION: SPDM session end. (R405) -/
  | endSession (fn : Nat) (session : DWord)
  /-- PATROL_SCRUB: The patrol scrub finds latent faults in HBM and idle SRAM within 24 hours. (R407) -/
  | patrolScrub (place : ScrubPlace)
  /-- POISON_CONSUMED: A context consuming poisoned data is killed with cause 0xFE. (R408) -/
  | poisonConsumed (t : ThreadRef)
  /-- FATAL_ERROR: A fatal error stops all work, dumps state and reports through AER. (R409) -/
  | fatalError (c : FatalCause)
  /-- REGISTER_WRITE: A write to a register without behaviour of its own stores the value. (R410) -/
  | registerWrite (fn cap off : Nat) (v : DWord)
  /-- ILLEGAL_WORD: A word that is no legal instruction of the map (zero word, major marked none, illegal sub-code) is issued and raises an exact illegal-instruction fault. (R196) -/
  | illegalWord (w : Word) (w2 : Option Word)
  /-- UNIT_POWER_GATE: A unit is power-gated, first zeroing any content of a protected context it holds. (R380) -/
  | unitPowerGate (u : PowerUnit)
  /-- UNIT_POWER_WAKE: A unit wakes from power gating and zeroes its storage before first use. (R380) -/
  | unitPowerWake (u : PowerUnit)
  /-- PORT_RETRAIN_DONE: A fabric port that retrained after 8 consecutive replays finishes training and comes back up, or is taken down if training failed. (R397) -/
  | portRetrainDone (port : Nat) (ok : Bool)
  /-- UCIE_FLIT_RECEIVE: A 256-byte bridge flit arrives across a UCIe bridge, is checked by its CRC and either unpacked or retried. (R133) -/
  | ucieFlitReceive (bridge : Nat) (flit : BridgeFlit)
  /-- TRANSPORT_ACK_ARRIVAL: A sending queue pair receives the transport acknowledgement or remote-access-error NAK for a send and completes it. (R400) -/
  | transportAckArrival (fn qp psn : Nat) (ok : Bool)
  /-- HOST_LINK_TRAINING: The PCIe host link trains, possibly down to a lower rate or width. (R392) -/
  | hostLinkTraining (rate width : Nat)
  deriving DecidableEq, Repr

end Sys2Proof
end

