-- ==== Sys2Proof/Machine/State.lean ====
section
/-! DEFINITION. The state of the part: threads, groups and teams; cores, pair caches and clusters; slices, homes and memories;
launch queues, grids and partitions; Bezel, links and the table unit; and the model's own plain data about order and time. -/

namespace Sys2Proof.Machine

/-- Bytes by address: strictly rising addresses, no byte that an unlisted address reads as (0). -/
abbrev Memory := List Host.Cell

/-! ## Threads and groups -/

/-- Why an issue set stalls, and until when its threads are not ready (R144, R145). -/
inductive Stall where
  /-- A register-cache line is missing (R154). -/
  | rcLine (t : RcTag)
  /-- A lane-store line is missing (R55). -/
  | laneLine (line : Nat)
  /-- A stash line is missing (R65). -/
  | stashLine (cluster bank line : Nat)
  /-- Less room in the `qsf` level than results (R307). -/
  | sfxRoom (n : Nat)
  /-- The `n` oldest entries of the level have not all arrived (R308). -/
  | sfxEntries (n : Nat)
  /-- The conditions of a release at a scope (R103). -/
  | release (scope : BitVec 3)
  /-- Pod time has not reached an acquire's time (R105, R106). -/
  | acquire (t : Nat)
  /-- The data of an earlier load, by its request, has not been written (R149). -/
  | loadData (id : Nat)
  /-- The same at an acquire fence (R105, R301). -/
  | fenceLoad (id : Nat)
  /-- A bank access was not served within 4 passes (R72). -/
  | passes
  /-- The thread's own bank write to the same word has not retired (R111). -/
  | ownWrite (id : Nat)
  /-- The thread's own store to the line has not been accepted (R98). -/
  | ownStore (line : Nat)
  /-- A lane-store line of the thread is to be written back before the access (R283). -/
  | laneBack (line : Nat)
  /-- The core has no room for another outstanding request (R2, R134). -/
  | missTable
  /-- What earlier accesses must have come to: 0 the threads' bank writes retired (R317), 1 the group's stores, atomics and bank writes
  accepted or retired (R113, R351), 2 a release of the group at team scope (R92), 3 one at device scope (R185). -/
  | writes (k : Nat)
  /-- A counter above its bound (R345). -/
  | counter (c n : Nat)
  /-- Threads wait in `bart` on a barrier word (R347). -/
  | bart
  /-- Threads wait in `bars` (R348). -/
  | bars
  /-- A group waits in `syncw wait` for a generation other than `gen` (R92). -/
  | syncw (cluster bank off gen : Nat)
  /-- A group waits in `bmop bwait` (R85). -/
  | bwait (slot : Nat)
  /-- A group waits in `give` (R81). -/
  | give (id : Nat)
  /-- Accesses to a bank that `bmop release` waits for (R85, R68). -/
  | bankDrain (slot : Nat)
  /-- Room in a queue or for a group's 64 operations (R317, R351). -/
  | queueRoom (q : Nat)
  /-- Matrix operations on a strip (R324). -/
  | strip (n : Nat)
  /-- Matrix operations that read a tile (R318). -/
  | tile (n : Nat)
  /-- A ninth instance of `barg` and trees (R299). -/
  | instances
  /-- The write of an agent of no cluster, for a `launch` (R185). -/
  | mailbox (agent : Nat)
  deriving DecidableEq, Repr

/-- What a thread waiting without a bound waits in (R161 state 2, R180). -/
inductive Wait where
  | rejoin (g : Nat)
  | barg
  | tree
  deriving DecidableEq, Repr

/-- The state of a thread (R161), with what the core adds while the team is resident. -/
inductive TState where
  | notStarted
  | ready
  /-- In the issue set of an active run. -/
  | running
  /-- Suspended at a global memory instruction (R148, R150). -/
  | suspended
  | waiting (w : Wait)
  /-- Not ready until the cause is resolved: its whole issue set gave up its place (R144), with `set`, or it waits by itself. -/
  | parked (c : Stall) (set : Bool)
  | sleeping
  | exited
  deriving DecidableEq, Repr

/-- What a thread's present instruction has already done on its behalf. -/
inductive Arrival where
  /-- Counted in generation `gen` of the barrier word, with the swap flag or without (R347). -/
  | bart (cluster bank off gen : Nat) (swap : Bool)
  /-- Counted in generation `gen` of barrier register `n` of cluster set `set` (R348). -/
  | bars (set n gen : Nat)
  /-- Counted in NWAIT of a sync word (R92). -/
  | syncw (cluster bank off : Nat)
  /-- Released by the completion of its barrier, with GEN at release and the largest `hzg` of the participants (R112, R347), or by its
  sync word. -/
  | released (gen hz : Nat)
  /-- Its give is under way (R81). -/
  | give (id : Nat)
  /-- It waits for the arrival at a slot (R85). -/
  | bwait (slot : Nat)
  /-- Its group's operation of the `mma` has issued, and another group's waits for room (R310, R317). -/
  | mma
  /-- The atomic or stash check it made has returned (R64, R149). -/
  | checked (status : Nat)
  deriving DecidableEq, Repr

/-- An entry of a `qsf` level (R307). -/
structure QsfEntry where
  v : Word
  serial : Nat
  arrived : Bool
  /-- Flags that enter `jxf` with the result (R255, R307). -/
  flags : BitVec 40
  deriving DecidableEq, Repr

/-- A load whose data has not been written: the registers it writes and how many instructions may yet issue (R149). -/
structure Lookahead where
  id : Nat
  dst : Nat
  n : Nat
  left : Nat
  /-- An acquire load (R285). -/
  acq : Bool
  /-- The destination is a uniform register of the group (R336). -/
  uniform : Bool
  deriving DecidableEq, Repr

/-- A thread (R161). -/
structure Thread where
  v : SMap Word := []
  p : BitVec 96 := 0
  pc : DWord := 0
  st : TState := .notStarted
  handler : Bool := false
  top : Nat := 0
  hzg : Nat := 0
  /-- Pod time of the latest retired bank write (R102). -/
  hznT : Nat := 0
  /-- Bank, stash and remote writes not yet retired (R102). -/
  bankW : List Nat := []
  fcause : DWord := 0
  faddr : DWord := 0
  fpc : DWord := 0
  q0 : List QsfEntry := []
  q1 : List QsfEntry := []
  /-- Results in flight whose entries were discarded, by serial number, with their flags (R255, R300, R365). -/
  flying : List (Nat × BitVec 40) := []
  /-- Stores and atomics not yet accepted: request and line (R101). -/
  stores : List (Nat × Nat) := []
  loads : List Lookahead := []
  /-- `hzg` at the last release fence (R106). -/
  fenceTag : Nat := 0
  /-- Largest tag of the loads since the last acquire fence (R106). -/
  loadTag : Nat := 0
  /-- No global load is performed before this pod time (R105, R114, R115, R118). -/
  notBefore : Nat := 0
  arr : Option Arrival := none
  /-- Cycle at which it last became ready at its present program counter (R179). -/
  since : Nat := 0
  deriving DecidableEq, Repr

/-- An open instance of `barg` or of a tree operation (R299, R302). -/
structure Inst where
  pc : DWord
  mask : BitVec 64
  arrived : BitVec 64
  deriving DecidableEq, Repr

/-- An arming of a mark (R326). -/
structure Mark where
  m : Nat
  serial : Nat
  /-- Operations of E that have not read all their operands from the buffer. -/
  ops : List Nat
  posted : Bool
  deriving DecidableEq, Repr

/-- An arming pushed and not yet carried out: the two command words, the matrix operations that the group had issued, the serial number
that a copy command names it by (R326). -/
structure Arm where
  w0 : DWord
  w1 : DWord
  n : Nat
  serial : Nat
  deriving DecidableEq, Repr

/-- An error entry not yet delivered (R327, R353): its class, the operation it reports, the entry. -/
structure ErrEntry where
  cls : Nat
  /-- The operation's place in its class's order. -/
  seq : Nat
  entry : DWord
  /-- Strips of failed octets, for class 1. -/
  strips : List Nat
  deriving DecidableEq, Repr

/-- A completed operation of a class: its place in the order, W and scope (R114). -/
structure DoneOp where
  cls : Nat
  n : Nat
  w : Nat
  scope : Nat
  deriving DecidableEq, Repr

/-- A group (R160, R163). -/
structure Group where
  role : Nat := 0
  core : Nat := 0
  base : Nat := 0
  g : SMap DWord := []
  jo : Nat := 0
  frm : BitVec 3 := 0
  ftz : Bool := false
  daz : Bool := false
  jxf : BitVec 40 := 0
  /-- Outstanding-operation counters: copy 0, matrix 1, gather 2, collective 3 (R163, R345). -/
  cnt : SMap Nat := []
  /-- Operations issued, by class. -/
  issued : SMap Nat := []
  /-- `qmx` 1, `qcp` 2, `qga` 3, `qcl` 4, oldest first (R163). -/
  queues : SMap (List DWord) := []
  /-- Entries that found their queue full (R352). -/
  overflow : List (Nat × DWord) := []
  /-- The open `qpush` chain (R351). -/
  chain : Option (Nat × List DWord) := none
  /-- Sequence numbers, by class (R317, R351). -/
  seqs : SMap Nat := []
  /-- NV, DZ, OF, UF, NX of matrix operations (R325). -/
  mflags : BitVec 5 := 0
  /-- Tile bytes: key tile × 16,384 + byte (R162). -/
  tiles : SMap Byte := []
  /-- Tile form attributes (R313). -/
  forms : SMap (BitVec 8) := []
  /-- Strip elements: key strip × 1,024 + row × 128 + column (R162). -/
  strips : SMap Word := []
  marks : List Mark := []
  arms : List Arm := []
  /-- Report-flags commands waiting: the matrix operations issued before each, and the sequence number it reports (R325). -/
  reports : List (Nat × Nat) := []
  errs : List ErrEntry := []
  done : List DoneOp := []
  insts : List Inst := []
  threads : SMap Thread := []
  deriving DecidableEq, Repr

/-! ## Teams and their windows -/

/-- A role (R160, R165). -/
structure Role where
  groups : Nat
  vregs : Nat
  tiles : Nat
  strips : Nat
  priv : Nat
  deriving DecidableEq, Repr

/-- A line that a stash holds (R65 to R68). -/
inductive StashSt where
  | S | E | M | O
  deriving DecidableEq, Repr

/-- A stash line: its state, its lease end in a read-only stash, and what came with its grant (R65, R66, R125). -/
structure StashLine where
  st : StashSt
  lend : Nat
  wl : Nat
  tag : DWord
  fd : Nat
  fr : Nat
  deriving DecidableEq, Repr

/-- What a stash slot records (R64), and its lines by number. -/
structure StashRec where
  ptr : DWord
  len : Nat
  wr : Bool
  gkid : BitVec 16
  lines : SMap StashLine
  /-- Lines whose fill has been asked for. -/
  asked : List Nat
  /-- Lines whose fill was refused with a cause other than 0x05: the next access takes the stash-revoked fault (R67). -/
  revoked : List Nat
  /-- Lines whose fill met an invalid or closing region (R69). -/
  closed : List Nat
  deriving DecidableEq, Repr

/-- A slot mode (R74). -/
inductive SlotMode where
  | empty | priv | pair | stash | front | shadow
  deriving DecidableEq, Repr

/-- A window slot (R74, R75). -/
structure Slot where
  mode : SlotMode := .empty
  bank : Nat := 0
  peer : Nat := 0
  acc : Bool := false
  mat : Bool := false
  arr : Bool := false
  det : Bool := false
  drn : Bool := false
  tag : BitVec 16 := 0
  /-- Order in which accepts were posted (R81). -/
  seq : Nat := 0
  stash : Option StashRec := none
  deriving DecidableEq, Repr

/-- Where a resident team stands on the way out (R181, R370, R371). -/
inductive Leaving where
  | no
  /-- Halted by the ladder. -/
  | halted
  /-- Evicted by a grid stall. -/
  | evicted
  deriving DecidableEq, Repr

/-- A resident team (R157 to R160). -/
structure Team where
  grid : Nat := 0
  teamid : Nat := 0
  part : Nat := 0
  queue : Nat := 0
  dom : BitVec 12 := 0
  width : Nat := 16
  roles : List Role := []
  prog : Bool := false
  cset : Bool := false
  pspan : Bool := false
  prot : Bool := false
  afact : Nat := 1
  entry : DWord := 0
  handler : DWord := 0
  tvec : DWord := 0
  /-- Core of residence; the even core of a pair (R159). -/
  core : Nat := 0
  /-- The first team of its cluster set (R137, R348). -/
  leader : Nat := 0
  apx : BitVec 13 := 0
  keys : List Word := []
  window : SMap Slot := []
  hs : Nat := 0
  hw : Nat := 0
  /-- Pod address of its image (R173). -/
  image : Nat := 0
  depart : Nat := 0
  leaving : Leaving := .no
  /-- How far its image is written: 0 not begun, 1 all but the header, 2 the header too (R375, R376). -/
  saving : Nat := 0
  groups : SMap Group := []
  deriving DecidableEq, Repr

/-! ## Cores, pairs and clusters -/

/-- An active run (R141 to R144). -/
structure Run where
  rid : Nat
  bound : Bool
  pc : DWord
  /-- Words decoded from the instruction cache and not yet executed, the first at `pc` (R143). -/
  code : List Word
  set : List ThreadRef
  count : Nat
  /-- The jet order fixed when the run started (R234). -/
  jo : Nat
  /-- The cause of a stall and the cycle it began (R144). -/
  stall : Option (Stall × Nat)
  deriving DecidableEq, Repr

/-- A line of an instruction or pair cache (R57, R61): line number, GKID, lease end, version, data, tag. -/
structure CLine where
  line : Nat
  gkid : BitVec 16
  lend : Nat
  ver : Nat
  data : Line
  tag : DWord
  deriving DecidableEq, Repr

/-- A lane-store line of a thread (R53 to R56). -/
structure LaneLine where
  lane : Nat
  owner : ThreadRef
  line : Nat
  /-- Bytes that the memory does not have yet: bit i for byte i; a line with none is clean. -/
  dirty : BitVec 64
  data : Line
  /-- Bytes that the line holds: all of them after a fill, before it those that were pushed (R364). -/
  valid : BitVec 64
  deriving DecidableEq, Repr

/-- A matrix operation in a core's queue (R317). -/
structure MmaOp where
  id : Nat
  ctx : Nat
  grp : Nat
  octets : List Nat
  word : Word
  ad : Nat
  sa : Nat
  sb : Nat
  mode : BitVec 4
  jo : Nat
  /-- Descriptor pairs captured at issue (R315). -/
  da : DWord × DWord
  db : DWord × DWord
  seq : Nat
  /-- Place among the group's operations of class 1. -/
  n : Nat
  /-- Octets finished. -/
  doneOct : List Nat
  /-- Octets failed: octet and error (1 block-format, 2 array-residue). -/
  failed : List (Nat × Nat)
  /-- Its error entries have been offered to `qmx`. -/
  told : Bool
  /-- Banks of slots that were given away after it issued: slot and bank (R82). -/
  pins : List (Nat × Nat)
  deriving DecidableEq, Repr

/-- An injected fault of one residue channel: operation, octet, channel (0 to 2, 3 the check), change of every residue (R226). -/
structure ResidueFault where
  op : Nat
  oct : Nat
  chan : Nat
  delta : Nat
  deriving DecidableEq, Repr

/-- A core (R142). -/
structure Core where
  runs : List Run := []
  icache : List CLine := []
  /-- Fetches under way (R143). -/
  fetching : List Req := []
  /-- Fetches refused and not yet taken as a fault: line, key ID, domain, cause of R29; 256 for an invalid or closing region (R17, R148). -/
  refused : List (Nat × BitVec 16 × BitVec 12 × Nat) := []
  lanes : List LaneLine := []
  /-- Lane-store lines asked for: thread, line, request (R55). -/
  laneAsked : List (ThreadRef × Nat × Nat) := []
  /-- Lane-store lines written back and not yet accepted: thread, line, request (R55). -/
  laneWb : List (ThreadRef × Nat × Nat) := []
  /-- Lines fetched without a lease, each for the run start that asked for it: team and program counter (R58, R61). -/
  once : List (Nat × DWord × CLine) := []
  /-- Register-cache lines, most recently used first (R154). -/
  rc : List RcTag := []
  /-- Lines being filled. -/
  rcAsked : List RcTag := []
  mq : List MmaOp := []
  /-- Requests that entered the mesh and are not yet in a slice's miss table, by slice (R134). -/
  permits : SMap Nat := []
  /-- Requests held for a permit: slice, request, version of a renewal (R134). -/
  heldReqs : List (Nat × Req × Option Nat) := []
  gated : Bool := false
  deriving DecidableEq, Repr

/-- A bank (R70, R76). -/
structure Bank where
  /-- The owning team's context; none: in the pool. -/
  owner : Option Nat := none
  /-- Being zeroed on its way into use (R76). -/
  zeroing : Bool := false
  deriving DecidableEq, Repr

/-- A give at the Clasp (R81). -/
structure Give where
  id : Nat
  ctx : Nat
  grp : Nat
  slot : Nat
  bank : Nat
  core : Nat
  tag : BitVec 16
  /-- The matched slot: team and slot; none: not yet matched. -/
  dst : Option (Nat × Nat)
  /-- The bank is attached; the group has yet to see it. -/
  complete : Bool
  /-- The receiving team is gone: the bank goes to the pool when it has drained (R83). -/
  lost : Bool
  deriving DecidableEq, Repr

/-- A barrier register (R348). -/
structure Bar where
  gen : Nat := 0
  count : Nat := 0
  swap : Bool := false
  deriving DecidableEq, Repr

/-- A command of an engine (R351 to R359). -/
structure Cmd where
  id : Nat
  /-- 0 copy, 2 gather, 3 collective. -/
  cls : Nat
  ctx : Nat
  grp : Nat
  core : Nat
  part : Nat
  dom : BitVec 12
  /-- The words as pushed, pod pointers relocated. -/
  words : List DWord
  /-- Word 0 or word 1 was a pointer in host form (R31). -/
  relocs : Bool × Bool
  seq : Nat
  /-- Place among the group's operations of its class. -/
  n : Nat
  /-- GKIDs of the source and the destination (R47). -/
  sg : BitVec 16
  dg : BitVec 16
  /-- Serial of the arming it waits for (R326). -/
  after : Option Nat
  /-- Matrix operations of the group issued before it (R355). -/
  mma : Nat
  started : Bool
  /-- Destination bytes passed, in delivery order. -/
  pos : Nat
  /-- Destination bytes delivered and counted (R374). -/
  delivered : Nat
  /-- Destination bytes to skip after a restart (R374). -/
  skip : Nat
  /-- Source bytes read for the unit under way. -/
  buf : List Byte
  /-- Its request under way. -/
  asked : Option Nat
  wmax : Nat
  flags : BitVec 5
  /-- ERR of its error entry; 0 while it has none. -/
  err : Nat
  /-- Nothing more is delivered. -/
  finished : Bool
  /-- Its entry has been offered to its queue. -/
  told : Bool
  /-- A device list of a collective, read at the `qpush` (R358). -/
  list : List Nat
  /-- A collective has matched (R359): the devices' operands; an empty list stands for this device's own. -/
  matched : Option (List (List (BitVec 32)))
  /-- Block under way of a tagged unpack, where its values start, and the element count of the block before it (R355). -/
  blk : Nat
  blkPos : Nat
  lastN : Nat
  /-- Banks of slots that were given away after it was pushed: slot and bank (R82). -/
  pins : List (Nat × Nat)
  deriving DecidableEq, Repr

/-- A cluster (R70, R348, R356). -/
structure Cluster where
  banks : SMap Bank := []
  gives : List Give := []
  /-- Barrier registers: key cluster set × 4 + n (R348). -/
  bars : SMap Bar := []
  cmds : List Cmd := []
  /-- Bank writes in flight (R102, R111). -/
  writes : List BankWrite := []
  gated : Bool := false
  deriving DecidableEq, Repr

/-! ## Slices and homes -/

/-- The state of a slice's line (R121); an absent line is in I. -/
inductive SliceSt where
  | S | E | M | O
  /-- Held by a stash of the cluster. -/
  | K (cluster : Nat)
  /-- A lease on a line of another device, until the given end. -/
  | L (lend : Nat)
  deriving DecidableEq, Repr

/-- A line of a slice (R121, R125). -/
structure SliceLine where
  st : SliceSt
  gkid : BitVec 16
  lc : BitVec 2
  data : Line
  lmax : Nat
  wl : Nat
  tag : DWord
  fd : Nat
  fr : Nat
  /-- Counts the changes of the copy, for renewals (R57). -/
  ver : Nat
  deriving DecidableEq, Repr

/-- A die-cache slice (R121). -/
structure Slice where
  lines : SMap SliceLine := []
  /-- The write-back buffer (R129). -/
  wb : List (Nat × LineInfo) := []
  /-- Requests to a line that is on its way to a stash (R67). -/
  wait : List Req := []
  gated : Bool := false
  deriving DecidableEq, Repr

/-- A directory state (R122). -/
inductive DirSt where
  | I | S | X | OS | IXA | XF | XW | BI | RC
  deriving DecidableEq, Repr

/-- Who owns a line (R122). -/
inductive Owner where
  /-- A slice or stash of a die of this device. -/
  | die (d : Nat)
  /-- A stash on a die of another device. -/
  | remote (dev die : Nat)
  | host
  deriving DecidableEq, Repr

/-- A directory entry (R122, R125). -/
structure DirEntry where
  st : DirSt := .I
  /-- Sharers: dies 0 to 3 and, bit 4, the host. -/
  sharers : BitVec 5 := 0
  owner : Option Owner := none
  rl : Nat := 0
  fd : Nat := 0
  fr : Nat := 0
  wl : Nat := 0
  tag : DWord := 0
  /-- The request in service in a transient state. -/
  pend : Option Req := none
  /-- Dies whose acknowledgement is awaited. -/
  acks : BitVec 5 := 0
  /-- The owner's data arrived with a write-back that raced the snoop (R129). -/
  wbSeen : Bool := false
  /-- The host's request for ownership is being served: the grant is to come (R116). -/
  hostWant : Bool := false
  held : List Req := []
  deriving DecidableEq, Repr

/-- A live token (R30). -/
structure Token where
  gen : Nat
  vpn : Nat
  dom : BitVec 12
  /-- The partition and the device that it was raised for (R31, R36). -/
  part : Nat
  dev : Nat
  /-- The requests held, each with its own cause of R29. -/
  held : List (Req × BitVec 8)
  deriving DecidableEq, Repr

/-- A home command in progress (R23 to R27). -/
structure HomeCmd where
  /-- 1 INSTALL over an entry, 2 REMOVE, 3 MOVE, 4 RECALL. -/
  op : Nat
  vpn : Nat
  /-- A MOVE has drained (R27). -/
  drained : Bool
  /-- HARG0 and HARG1 as the command found them. -/
  w0 : DWord
  w1 : DWord
  deriving DecidableEq, Repr

/-- A home (R19 to R37, R122 to R126). -/
structure Home where
  harg0 : DWord := 0
  harg1 : DWord := 0
  hptb : DWord := 0
  hptc : DWord := 0
  hdsb : DWord := 0
  hcpl : DWord := 0
  result : Nat := 0
  stale : Nat := 0
  cmd : Option HomeCmd := none
  /-- Translation cache: VPN to entry words (R22). -/
  tcache : SMap (DWord × DWord) := []
  dir : SMap DirEntry := []
  floorD : Nat := 0
  floorR : Nat := 0
  /-- Generations of the replay-table entries (R30). -/
  gens : SMap Nat := []
  tokens : SMap Token := []
  /-- Partition whose request was served last (R390). -/
  turn : Nat := 0
  /-- Requests held while their page switches tiers or is being recalled (R25, R27). -/
  heldReqs : List Req := []
  /-- Write-backs that arrived while their page switched (R27). -/
  wbbuf : List (Nat × LineInfo) := []
  /-- Reverse entries, frame to VPN (R37). -/
  rev : SMap Nat := []
  /-- Pool units of tier-1 images: VPN to first unit and count (R26). -/
  pool : SMap (Nat × Nat) := []
  /-- Bytes of tier-1 pages: key VPN × 65,536 + byte (R26). -/
  t1 : SMap Byte := []
  /-- W of the latest host store at this home (R116). -/
  hostW : Nat := 0
  /-- Accesses logged (R37). -/
  errlog : List Nat := []
  /-- Lines marked poisoned by the patrol scrub (R407). -/
  poison : List Nat := []
  deriving DecidableEq, Repr

/-! ## Launch queues, grids and partitions -/

/-- A launch record (R171), its fields taken apart. -/
structure LRec where
  entry : DWord
  handler : DWord
  gridid : DWord
  nteam : Nat
  /-- Width in threads; 0 for the invalid code 3. -/
  width : Nat
  nrole : Nat
  afact : Nat
  prog : Bool
  cset : Bool
  pspan : Bool
  prot : Bool
  jo : Nat
  banks : Nat
  csize : Nat
  msien : Bool
  msiv : Nat
  ipool : DWord
  ipsize : Nat
  roles : List Role
  /-- Operation, event-word pointer and compare value of each condition. -/
  waits : List (Nat × DWord × DWord)
  csig : DWord
  cval : DWord
  /-- Every reserved field is zero. -/
  clean : Bool
  deriving DecidableEq, Repr

/-- A launch queue (R169, R170). -/
structure LQueue where
  base : DWord := 0
  logn : Nat := 0
  prio : Nat := 0
  en : Bool := false
  dev : Bool := false
  err : Bool := false
  wp : Nat := 0
  rp : Nat := 0
  /-- LQCFG bits that are reserved and written 0 (R169). -/
  rsvd : DWord := 0
  /-- Stopped by the pre-emption ladder (R370). -/
  stopped : Bool := false
  /-- The grid taken last, while it holds the queue (R170, R174). -/
  head : Option Nat := none
  deriving DecidableEq, Repr

/-- A team of a grid that was resident and is not (R181, R370): what its image does not show stands beside it (R163, R328). -/
structure Away where
  teamid : Nat
  ctx : Nat
  slot : Nat
  /-- The team as it left: of what its image holds, the image is read on resume. -/
  saved : Team
  /-- Its matrix operations, by group (R328). -/
  mq : List MmaOp
  /-- Its engine commands (R374). -/
  cmds : List Cmd
  deriving DecidableEq, Repr

/-- A grid (R171 to R183). -/
structure Grid where
  part : Nat
  queue : Nat
  dom : BitVec 12
  keys : List Word
  lrec : LRec
  /-- The key set was read (R41). -/
  keysOk : Bool
  /-- CSIG passed its checks (R174, R175). -/
  csigOk : Bool
  /-- Next team never dispatched. -/
  next : Nat
  away : List Away
  /-- Image slots in use: slot to context. -/
  slots : SMap Nat
  ended : Nat
  hmax : Nat
  /-- Refusal or kill status; the grid only completes any more. -/
  status : Option Nat
  /-- Its conditions hold, and no team is dispatched before this pod time (R174). -/
  ready : Option Nat
  /-- Pod time since which the next team has not fitted (R176). -/
  blocked : Option Nat
  /-- It stops every record of lower PRIO (R176). -/
  blocks : Bool
  /-- Cycle since which the grid has been stalled (R180). -/
  stalled : Option Nat
  killed : Bool
  /-- Its status stands at CSIG + 8, and CVAL has yet to be added to CSIG (R175). -/
  told : Bool
  deriving DecidableEq, Repr

/-- A partition's fault queue (R32). -/
structure FaultQ where
  base : DWord := 0
  cfg : DWord := 0
  head : Nat := 0
  tail : Nat := 0
  err : Bool := false
  pass : Bool := false
  seq : Nat := 0
  armed : Bool := false
  /-- Records offered and not yet written, without PHASE and SEQ. -/
  waiting : List (BitVec 512) := []
  /-- Pod times at which the unread records were written, oldest first. -/
  times : List Nat := []
  deriving DecidableEq, Repr

/-- A layout set (R382). -/
structure Layout where
  clm0 : DWord := 0
  clm1 : DWord := 0
  sls0 : DWord := 0
  sls1 : DWord := 0
  sls2 : DWord := 0
  sls3 : DWord := 0
  memw : DWord := 0
  budg : DWord := 0
  deriving DecidableEq, Repr

/-- A partition (R381). -/
structure Part where
  queues : SMap LQueue := []
  /-- Protection entries: words [127:64] and [63:0] (R39). -/
  prot : SMap (DWord × DWord) := []
  fq : FaultQ := {}
  /-- 0 none, 1 soft, 2 halting, 3 killing (R369). -/
  rung : Nat := 0
  /-- Queues the rung in progress targets. -/
  targets : List Nat := []
  pcfg : DWord := 0x00C8000000C8
  live : Layout := {}
  shadow : Layout := {}
  /-- Closed by a commit under way or aborted (R385, R386). -/
  closed : Bool := false
  /-- Held halted between import and confirm (R391). -/
  imported : Bool := false
  tbal : Int := 0
  ebal : Int := 0
  /-- Energy not yet charged, in pJ (R389). -/
  pj : Nat := 0
  counts : SMap Nat := []
  /-- Cores that issued in the present microsecond (R389). -/
  busy : List Nat := []
  lastCore : Option Nat := none
  lastCluster : Option Nat := none
  sharedBase : Nat := 0
  sharedCount : Nat := 0
  deriving DecidableEq, Repr

/-! ## Device -/

/-- The commit journal in Bezel's retained SRAM (R385, R386). -/
inductive Journal where
  | idle
  /-- The partitions of A with their shadow sets as validated. -/
  | prep (a : List (Nat × Layout))
  | flip (a : List Nat)
  deriving DecidableEq, Repr

/-- A life-cycle state (R402). -/
inductive LifeCycle where
  | blank | provisioned | deployed | service
  deriving DecidableEq, Repr

/-- A flit of a port's replay buffer: as it went out, or is to, with the key epoch and the flit count of its IV (R396, R397). -/
structure SentFlit where
  flit : FabricFlit
  epoch : BitVec 32
  n : Nat
  deriving DecidableEq, Repr

/-- A port of the pod fabric (R394 to R397). -/
structure Port where
  up : Bool := false
  /-- SEQ of the next flit. -/
  seq : BitVec 16 := 0
  /-- Last SEQ received in order. -/
  ack : BitVec 16 := 0
  /-- Partition whose request went out last (R390). -/
  turn : Nat := 0
  /-- Flits not acknowledged, oldest first (R397). -/
  replay : List SentFlit := []
  /-- How many of them, from the oldest on, have gone out. -/
  out : Nat := 0
  /-- Consecutive replays of the oldest flit. -/
  replays : Nat := 0
  /-- Key epoch of this device's direction, and its flits sent (R396). -/
  epoch : BitVec 32 := 0
  sent : Nat := 0
  /-- Key epoch of the other direction, and its flits received in order (R396). -/
  rxEpoch : BitVec 32 := 0
  received : Nat := 0
  retraining : Bool := false
  deriving DecidableEq, Repr

/-- A receiving end of a UCIe bridge (R133). -/
structure Bridge where
  received : Nat := 0
  /-- Mesh flits received, by virtual channel. -/
  mesh : SMap Nat := []
  naks : Nat := 0
  /-- A flit whose CRC failed and that is to be sent again: virtual channel and mesh flits. -/
  again : Option (BitVec 2 × Nat) := none
  deriving DecidableEq, Repr

/-- A posted send or receive (R399): its buffer, and the domain, key and aperture it was posted under. -/
structure NetWork where
  ptr : DWord
  host : Bool
  len : Nat
  gkid : BitVec 16
  dom : BitVec 12
  imm : Option Word
  psn : Nat
  /-- Bytes of the message so far: read from a send's buffer, or arrived for a receive. -/
  got : List Byte
  /-- Bytes of an arrived message already in the buffer. -/
  pos : Nat
  /-- Its request under way. -/
  asked : Option Nat
  /-- A send that has gone out. -/
  sent : Bool
  /-- Its retries after RNR NAKs. -/
  tries : Nat
  deriving DecidableEq, Repr

/-- Work handed to a queue pair whose key set has not been read yet (R399). -/
structure NetPost where
  recv : Bool
  ptr : DWord
  len : Nat
  imm : Option Word
  deriving DecidableEq, Repr

/-- A queue pair (R399, R400). -/
structure QueuePair where
  error : Bool := false
  /-- Its domain and its key set's address (R399, R39). -/
  dom : BitVec 12 := 0
  kset : DWord := 0
  /-- Its RNR count. -/
  rnr : Nat := 0
  psn : Nat := 0
  /-- Work not yet checked, oldest first. -/
  posts : List NetPost := []
  sends : List NetWork := []
  recvs : List NetWork := []
  /-- Messages arrived whose buffer writes are under way, oldest first (R400). -/
  pending : List NetWork := []
  deriving DecidableEq, Repr

/-- A completion in a completion queue (R400). -/
inductive NetDone where
  | sent
  | received (len : Nat) (imm : Option Word)
  | rnrError
  | remoteAccessError
  | remoteAccessViolation
  deriving DecidableEq, Repr

/-- An SPDM responder (R405). -/
structure Spdm where
  version : Bool := false
  caps : Bool := false
  algs : Bool := false
  /-- Session identifiers, each with whether its handshake has finished, and its key generation. -/
  sessions : List (DWord × Bool × Nat) := []
  deriving DecidableEq, Repr

/-- The tenant data sealed in a migration blob (R391), rebuilt by an import. -/
structure Blob where
  addr : DWord
  session : DWord
  fbase : Nat
  fcount : Nat
  dbase : Nat
  dcount : Nat
  /-- The data of the frame window: home, bytes by their place in the window. -/
  frames : List (Nat × Memory)
  /-- Pages: home, entry words, and of those at tiers 1 and 2 their bytes. -/
  pages : List (Nat × DWord × DWord × Memory)
  aps : List (Nat × Word)
  prot : List (Nat × DWord × DWord)
  live : Layout
  queues : SMap LQueue
  /-- The grids taken and not ended, with their departed teams. -/
  grids : SMap Grid
  deriving DecidableEq, Repr

/-- What the part sends to the outside. -/
inductive Out where
  | msix (fn vec : Nat)
  | aer
  | log (what : Nat)
  | hostRead (dpa : Nat) (data : List Byte) (poison : Bool)
  | hostDone (dpa : Nat)
  | hostOwned (dpa : Nat)
  | hostBackInvalidate (dpa : Nat)
  | hostSnooped (hpa : Nat)
  /-- A flit of the pod fabric, under the key of an epoch and the flit count of its IV (R395, R396). -/
  | fabric (port : Nat) (flit : FabricFlit) (epoch : BitVec 32) (n : Nat)
  | fabricNak (port : Nat) (ack : BitVec 16)
  | netSend (fn qp psn len : Nat) (data : List Byte) (imm : Option Word)
  | netAck (fn qp psn : Nat)
  | netNak (fn qp psn : Nat) (why : Nat)
  | netDone (fn qp : Nat) (d : NetDone)
  | spdm (fn : Nat) (request : Nat) (fields : List (BitVec 512)) (free : Nat)
  | spdmError (fn request : Nat)
  | dump (hpa : DWord)
  | bridgeNak (bridge : Nat)
  | coreFailed (core : Nat)
  deriving DecidableEq, Repr

/-- Where an access of an agent of no cluster stands (R119). -/
inductive MailSt where
  | asked
  /-- Read: the bytes and the line's release tag; or performed: its W. -/
  | done (bytes : List Byte) (w : Nat)
  /-- Its page fails a check of R29, or its region is invalid or closing. -/
  | refused (cause : BitVec 8)
  deriving DecidableEq, Repr

/-- An access of an agent of no cluster that its home does not serve at once (R119). -/
structure Mail where
  id : Nat
  /-- Which agent's (`State.seat`). -/
  agent : Nat
  va : Nat
  /-- Bytes accessed; 0 for the checks of R29 alone, of the domain and key ID given, with the conditions of `tag`: the tiers allowed, bit t
  for tier t, none for any; with bit 3 no check of the key, with bit 4 none of the domain. -/
  n : Nat
  acc : Acc
  dom : BitVec 12
  gkid : BitVec 16
  /-- What a store writes or an atomic takes; the release tag goes with it. -/
  bytes : List Byte
  tag : Nat
  st : MailSt
  deriving DecidableEq, Repr

/-- The device and Bezel (R382 to R410). -/
structure Device where
  /-- Pod device number of this device (R13). -/
  no : Nat := 0
  layBusy : Bool := false
  layResult : Nat := 0
  journal : Journal := .idle
  /-- Partitions of the commit under way, with their shadow sets as validated. -/
  layA : List (Nat × Layout) := []
  /-- For each aborted commit that none has covered since, its partitions, which stay closed (R386). -/
  layHeld : List (List Nat) := []
  /-- Partition of the reset under way. -/
  resetting : Option Nat := none
  /-- The reset has power-cycled the partition's clusters (R387). -/
  cycled : Bool := false
  /-- The partition whose pages the homes recall, for a reset or a migration (R387, R391). -/
  recalling : Option Nat := none
  layGen : Nat := 0
  dtdata : DWord := 0
  dtBusy : Bool := false
  dtResult : Nat := 0
  /-- The region whose closing is under way (R18). -/
  dtClosing : Option Nat := none
  /-- Dies whose copy of the tables has not taken the accepted value: table, index and value with it (R15, R16). -/
  dtLeft : List Nat := []
  dtTable : Nat := 0
  dtIndex : Nat := 0
  dtValue : DWord := 0
  /-- The die on which an agent of no cluster sits; the die of an unlisted agent is 0 (R16, R131). -/
  seats : SMap Nat := []
  mcmd : DWord := 0
  mblob : DWord := 0
  msess : DWord := 0
  mstat : DWord := 0
  blobs : List Blob := []
  /-- Migration sessions whose transport key this device holds. -/
  transport : List DWord := []
  /-- Sessions whose transport key this device has destroyed (R391). -/
  destroyed : List DWord := []
  life : LifeCycle := .deployed
  recovery : Bool := false
  meas : SMap (BitVec 512) := []
  fused : SMap Nat := []
  conf : Bool := false
  /-- The session of the physical function that set the keys of the IDE streams (R392). -/
  ide : Option DWord := none
  confPending : Bool := false
  /-- Identity key generated (R402). -/
  identity : Bool := true
  watchdogs : List Nat := []
  fatal : Bool := false
  summary : Option FatalCause := none
  dumpbase : DWord := 0
  routes : SMap Word := []
  ports : SMap Port := []
  /-- Requests to other devices not yet answered: device, port and request (R397). -/
  asked : List (Nat × Nat × Req) := []
  /-- Requests of other devices received: device and request number (R397). -/
  served : List (Nat × Nat) := []
  /-- Requests to other devices that a token holds there, by number (R30, R36). -/
  heldAway : List Nat := []
  bridges : SMap Bridge := []
  /-- Pod time of the last pod-time flit of the reference device (R398). -/
  podRef : Nat := 0
  qps : SMap QueuePair := []
  linkRate : Nat := 0
  linkWidth : Nat := 0
  spdm : SMap Spdm := []
  deriving DecidableEq, Repr

/-! ## The whole machine -/

/-- The state of the part. -/
structure State where
  /-- Ticks of a third of a nanosecond; a cycle is 2 ticks (R7, R93). -/
  clock : Nat
  /-- How far each die's copy of pod time is ahead, in ns (R93). -/
  skew : SMap Nat
  /-- Caused and not yet happened. -/
  agenda : List Event
  /-- Asked for by the outside and not yet happened. -/
  inputs : List Event
  /-- To happen at a tick. -/
  due : List (Nat × Event)
  /-- Which of the steps that could happen next does. -/
  oracle : List Nat
  /-- Free values used so far. -/
  fresh : Nat
  /-- The next number for a request, a run, a command, an operation, a give, an accept or a grid. -/
  nextId : Nat
  /-- The core and the run that issue. -/
  cur : Option (Nat × Nat)
  teams : SMap Team
  cores : SMap Core
  pairs : SMap (List CLine)
  clusters : SMap Cluster
  slices : SMap Slice
  homes : SMap Home
  hbm : Memory
  host : Memory
  banks : Memory
  /-- Each die's copy of the distribution table, the set list and the aperture table (R16, R131): key die × size + index. -/
  dist : SMap DWord
  setlist : SMap (BitVec 16)
  apt : SMap Word
  /-- Accesses of agents of no cluster under way, and their outcomes (R119). -/
  mail : List Mail
  slicesets : SMap Word
  parts : SMap Part
  grids : SMap Grid
  dev : Device
  /-- Injected faults of the matrix array (R226). -/
  residues : List ResidueFault
  outs : List Out
  deriving DecidableEq, Repr

/-- The part right after reset: no team, no line, no page mapped, nothing asked for. -/
def State.reset : State where
  clock := 0
  skew := []
  agenda := []
  inputs := []
  due := []
  oracle := []
  fresh := 0
  nextId := 1
  cur := none
  teams := []
  cores := []
  pairs := []
  clusters := []
  slices := []
  homes := []
  hbm := []
  host := []
  banks := []
  dist := []
  setlist := []
  apt := []
  mail := []
  slicesets := []
  parts := []
  grids := []
  dev := {}
  residues := []
  outs := []

/-- Why the part stops. -/
inductive Fault where
  /-- An event names a unit, an address or an identifier that the part does not have. Raised by the meanings of events whose
  arguments nothing in the part could have produced; safe. -/
  | noSuchUnit
  deriving DecidableEq, Repr

/-- Why an instruction has no meaning here. -/
inductive Refusal where
  /-- Not modelled; raised by an arm of `exec` alone; safe. -/
  | notModelled (mnemonic : String)
  deriving DecidableEq, Repr

end Sys2Proof.Machine
end

