-- ==== Sys2Proof/Machine/Flags.lean ====
section
/-! DEFINITION. Rounding modes and floating-point flags: the modes of R211 and their codes (R190, R212), the five flags and the
planes of `jxf` (R253, R254), and FTZ and DAZ (R213). -/

namespace Sys2Proof.Machine

/-- A rounding mode (R211). -/
inductive Rm where
  | rne | rtz | rdn | rup | rna
  deriving DecidableEq, Repr

/-- The mode of an rm code other than 101; codes 110 and 111 are no mode of a legal word (R190). -/
def rmOfCode (c : BitVec 3) : Rm :=
  if c = 1#3 then .rtz else if c = 2#3 then .rdn else if c = 3#3 then .rup else if c = 4#3 then .rna else .rne

/-- The mode of an instruction: its rm, or `frm` under rm 101 (R211). -/
def rmOf (rm frm : BitVec 3) : Rm := if rm = 5#3 then rmOfCode frm else rmOfCode rm

/-- The flags of one plane: NV 1, DZ 2, OF 4, UF 8, NX 16 (R253). -/
abbrev Flags := BitVec 5

/-- Invalid. -/
def fNV : Flags := 1#5
/-- Divide-by-zero. -/
def fDZ : Flags := 2#5
/-- Overflow. -/
def fOF : Flags := 4#5
/-- Underflow. -/
def fUF : Flags := 8#5
/-- Inexact. -/
def fNX : Flags := 16#5
/-- The flag `f` if `c`. -/
def flagIf (c : Bool) (f : Flags) : Flags := if c then f else 0#5

/-- Flags placed in plane `k` of `jxf` (R253). -/
def inPlane (k : Nat) (f : Flags) : BitVec 40 := (f.zeroExtend 40) <<< (5 * k)
/-- Invalid in planes 1 to `J` (R248, R250). -/
def nvPlanes (j : Nat) : BitVec 40 := (List.range j).foldl (fun a k => a ||| inPlane (k + 1) fNV) 0#40

/-- The rounding mode and the `fmode` bits in force (R211, R213). -/
structure FEnv where
  rm : Rm
  ftz : Bool
  daz : Bool
  deriving DecidableEq, Repr

/-- RNE with subnormals, whatever `frm` and `fmode` hold (R213). -/
def FEnv.plain : FEnv := ⟨.rne, false, false⟩
/-- The same `fmode` under RNE (R236). -/
def FEnv.rne (e : FEnv) : FEnv := { e with rm := .rne }

end Sys2Proof.Machine
end

