-- ==== Sys2Proof/Machine/Float.lean ====
section
/-! DEFINITION. Floating-point arithmetic (R209 to R213, R217 to R219): values as dyadic numbers, computed exactly and rounded once.
A bit pattern is a Nat; every operation answers a pattern and the flags it raises. -/

namespace Sys2Proof.Machine

/-- A format: exponent bits and fraction bits (R209). -/
structure Fmt where
  eb : Nat
  fb : Nat
  deriving DecidableEq, Repr

/-- F32 (R209). -/
def F32 : Fmt := ⟨8, 23⟩
/-- F16 (R209). -/
def F16 : Fmt := ⟨5, 10⟩
/-- BF16 (R209). -/
def BF16 : Fmt := ⟨8, 7⟩
/-- F64 (R209). -/
def F64 : Fmt := ⟨11, 52⟩

namespace Fmt

/-- Total width. -/
def width (f : Fmt) : Nat := 1 + f.eb + f.fb
/-- Exponent bias. -/
def bias (f : Fmt) : Nat := 2 ^ (f.eb - 1) - 1
/-- Exponent of the unit of a subnormal. -/
def qmin (f : Fmt) : Int := 1 - (f.bias : Int) - (f.fb : Int)
/-- The pattern of +∞. -/
def infBits (f : Fmt) : Nat := (2 ^ f.eb - 1) * 2 ^ f.fb
/-- The canonical NaN. -/
def nan (f : Fmt) : Nat := f.infBits + 2 ^ (f.fb - 1)
/-- The pattern of the sign bit, if `neg`. -/
def sign (f : Fmt) (neg : Bool) : Nat := if neg then 2 ^ (f.eb + f.fb) else 0

end Fmt

/-- What a pattern stands for: a NaN, an infinity, or m × 2^e with a sign. -/
inductive FVal where
  | nan (signalling : Bool)
  | inf (neg : Bool)
  | fin (neg : Bool) (m : Nat) (e : Int)
  deriving DecidableEq, Repr

/-- The value of a pattern. -/
def fval (f : Fmt) (x : Nat) : FVal :=
  let neg := x / 2 ^ (f.eb + f.fb) % 2 == 1
  let ex := x / 2 ^ f.fb % 2 ^ f.eb
  let fr := x % 2 ^ f.fb
  if ex = 2 ^ f.eb - 1 then (if fr = 0 then .inf neg else .nan (fr < 2 ^ (f.fb - 1)))
  else if ex = 0 then .fin neg fr f.qmin
  else .fin neg (fr + 2 ^ f.fb) (f.qmin + (ex : Int) - 1)

/-- The pattern is a subnormal number. -/
def isSub (f : Fmt) (x : Nat) : Bool := decide (x / 2 ^ f.fb % 2 ^ f.eb = 0) && decide (x % 2 ^ f.fb ≠ 0)
/-- The pattern is a NaN. -/
def isNan (f : Fmt) (x : Nat) : Bool := decide (x / 2 ^ f.fb % 2 ^ f.eb = 2 ^ f.eb - 1) && decide (x % 2 ^ f.fb ≠ 0)
/-- The pattern is a signalling NaN. -/
def isSNan (f : Fmt) (x : Nat) : Bool := isNan f x && decide (x % 2 ^ f.fb < 2 ^ (f.fb - 1))
/-- The sign bit. -/
def isNeg (f : Fmt) (x : Nat) : Bool := x / 2 ^ (f.eb + f.fb) % 2 == 1
/-- The pattern is +0 or −0. -/
def isZero (f : Fmt) (x : Nat) : Bool := decide (x % 2 ^ (f.eb + f.fb) = 0)
/-- The pattern with its sign bit inverted. -/
def negBits (f : Fmt) (x : Nat) : Nat := if isNeg f x then x - 2 ^ (f.eb + f.fb) else x + 2 ^ (f.eb + f.fb)

/-- A source as DAZ has it read (R213). -/
def daz (f : Fmt) (e : FEnv) (x : Nat) : Nat := if e.daz && isSub f x then f.sign (isNeg f x) else x

/-- A result as FTZ leaves it, with underflow and inexact (R213). -/
def ftz (f : Fmt) (e : FEnv) (r : Nat × Flags) : Nat × Flags :=
  if e.ftz && isSub f r.1 then (f.sign (isNeg f r.1), r.2 ||| fUF ||| fNX) else r

/-- How a remainder compares with half a unit: 0 exact, 1 below, 2 equal, 3 above. -/
def remClass (rem unit : Nat) (sticky : Bool) : Nat :=
  if rem = 0 ∧ sticky = false then 0
  else if 2 * rem < unit then 1
  else if 2 * rem = unit then (if sticky then 3 else 2)
  else 3

/-- Whether to round the magnitude up (R211). -/
def roundUp (rm : Rm) (neg odd : Bool) (c : Nat) : Bool :=
  match rm with
  | .rne => c = 3 || (c = 2 && odd)
  | .rtz => false
  | .rdn => neg && c ≠ 0
  | .rup => !neg && c ≠ 0
  | .rna => c ≥ 2

/-- (m + ε) × 2^e, 0 ≤ ε < 1 and ε > 0 exactly if `sticky`, in units of 2^q: the rounded count, and whether it is inexact. -/
def roundAt (rm : Rm) (neg : Bool) (m : Nat) (e q : Int) (sticky : Bool) : Nat × Bool :=
  if q ≤ e then
    let s := m * 2 ^ (e - q).toNat
    let c := if sticky then 1 else 0
    (s + (roundUp rm neg (s % 2 == 1) c).toNat, sticky)
  else
    let u := 2 ^ (q - e).toNat
    let s := m / u
    let c := remClass (m % u) u sticky
    (s + (roundUp rm neg (s % 2 == 1) c).toNat, c ≠ 0)

/-- What overflow delivers (R211). -/
def overflowBits (f : Fmt) (rm : Rm) (neg : Bool) : Nat :=
  let inf := match rm with
    | .rne => true
    | .rna => true
    | .rtz => false
    | .rdn => neg
    | .rup => !neg
  f.sign neg + (if inf then f.infBits else f.infBits - 1)

/-- ±(m + ε) × 2^e rounded to the format (R211): tininess after rounding, underflow when tiny and inexact. -/
def roundTo (f : Fmt) (rm : Rm) (neg : Bool) (m : Nat) (e : Int) (sticky : Bool := false) : Nat × Flags :=
  if m = 0 ∧ sticky = false then (f.sign neg, 0#5)
  else
    let top : Int := e + ((Nat.log2 m : Int) + 1)
    let q0 : Int := top - ((f.fb : Int) + 1)
    if top + 1 < f.qmin then (f.sign neg + (roundUp rm neg false 1).toNat, fNX ||| fUF) else
    let q := if m = 0 then f.qmin else max q0 f.qmin
    let (s, nx) := roundAt rm neg m e q sticky
    let bits := (q - f.qmin).toNat * 2 ^ f.fb + s
    if f.infBits ≤ bits then (overflowBits f rm neg, fOF ||| fNX)
    else
      let tiny := if m = 0 then true else if f.qmin ≤ q0 then false
        else !(decide (top = f.qmin + (f.fb : Int)) && decide ((roundAt rm neg m e q0 sticky).1 = 2 ^ (f.fb + 1)))
      (f.sign neg + bits, flagIf nx fNX ||| flagIf (nx && tiny) fUF)

/-- A signed integer times 2^e, rounded; an exact zero takes the sign `zneg`. -/
def roundInt (f : Fmt) (rm : Rm) (zneg : Bool) (x : Int) (e : Int) : Nat × Flags :=
  if x = 0 then (f.sign zneg, 0#5) else roundTo f rm (decide (x < 0)) x.natAbs e

/-- A sign and a magnitude as an integer. -/
def signed (neg : Bool) (m : Nat) : Int := if neg then -(m : Int) else (m : Int)

/-- The exact sum of two dyadics: integer and exponent. -/
def dyAdd (x : Int) (e : Int) (y : Int) (g : Int) : Int × Int :=
  if e ≤ g then (x + y * 2 ^ (g - e).toNat, e) else (x * 2 ^ (e - g).toNat + y, g)

/-- The sign of an exact zero sum of values of signs `a` and `b` (R210). -/
def zeroSign (rm : Rm) (a b : Bool) : Bool := if a == b then a else decide (rm = .rdn)

/-- The sum of two values, rounded once, before FTZ. -/
def addVal (f : Fmt) (rm : Rm) (a b : FVal) : Nat × Flags :=
  match a, b with
  | .nan s, .nan t => (f.nan, flagIf (s || t) fNV)
  | .nan s, _ => (f.nan, flagIf s fNV)
  | _, .nan s => (f.nan, flagIf s fNV)
  | .inf s, .inf t => if s = t then (f.sign s + f.infBits, 0#5) else (f.nan, fNV)
  | .inf s, .fin _ _ _ => (f.sign s + f.infBits, 0#5)
  | .fin _ _ _, .inf s => (f.sign s + f.infBits, 0#5)
  | .fin s m e, .fin t n g =>
    let r := dyAdd (signed s m) e (signed t n) g
    roundInt f rm (zeroSign rm s t) r.1 r.2

/-- A value's sign exchanged. -/
def FVal.neg (a : FVal) : FVal :=
  match a with
  | .nan s => .nan s
  | .inf s => .inf (!s)
  | .fin s m e => .fin (!s) m e

/-- The exact product of two values that are no NaN; none: 0 × ∞. -/
def mulVal (a b : FVal) : Option FVal :=
  match a, b with
  | .fin s m e, .fin t n g => some (.fin (s != t) (m * n) (e + g))
  | .inf s, .inf t => some (.inf (s != t))
  | .inf s, .fin t n _ => if n = 0 then none else some (.inf (s != t))
  | .fin s m _, .inf t => if m = 0 then none else some (.inf (s != t))
  | _, _ => none

/-- A value is a NaN. -/
def FVal.isNan (a : FVal) : Bool := match a with | .nan _ => true | _ => false
/-- A value is a signalling NaN. -/
def FVal.isSNan (a : FVal) : Bool := match a with | .nan s => s | _ => false

/-- Addition (R267). -/
def fAdd (f : Fmt) (e : FEnv) (a b : Nat) : Nat × Flags :=
  ftz f e (addVal f e.rm (fval f (daz f e a)) (fval f (daz f e b)))

/-- Subtraction (R267). -/
def fSub (f : Fmt) (e : FEnv) (a b : Nat) : Nat × Flags :=
  ftz f e (addVal f e.rm (fval f (daz f e a)) (fval f (daz f e b)).neg)

/-- A value rounded to a format. -/
def ofVal (f : Fmt) (rm : Rm) (a : FVal) : Nat × Flags :=
  match a with
  | .nan s => (f.nan, flagIf s fNV)
  | .inf s => (f.sign s + f.infBits, 0#5)
  | .fin s m e => roundTo f rm s m e

/-- Multiplication (R267). -/
def fMul (f : Fmt) (e : FEnv) (a b : Nat) : Nat × Flags :=
  let x := fval f (daz f e a)
  let y := fval f (daz f e b)
  if x.isNan || y.isNan then (f.nan, flagIf (x.isSNan || y.isSNan) fNV)
  else
    match mulVal x y with
    | none => (f.nan, fNV)
    | some p => ftz f e (ofVal f e.rm p)

/-- Fused multiply-add a × b + d with one rounding; `na` negates the product exactly (R210, R267). -/
def fFma (f : Fmt) (e : FEnv) (na : Bool) (a b d : Nat) : Nat × Flags :=
  let x := fval f (daz f e a)
  let y := fval f (daz f e b)
  let z := fval f (daz f e d)
  let snan := x.isSNan || y.isSNan || z.isSNan
  if x.isNan || y.isNan then (f.nan, flagIf snan fNV)
  else
    match mulVal (if na then x.neg else x) y with
    | none => (f.nan, fNV)
    | some p => if z.isNan then (f.nan, flagIf snan fNV) else ftz f e (addVal f e.rm p z)

/-- Two values that are no NaN compared, −0 equal to +0: less, equal. -/
def cmpVal (a b : FVal) : Bool × Bool :=
  match a, b with
  | .inf s, .inf t => (s && !t, s == t)
  | .inf s, _ => (s, false)
  | _, .inf t => (!t, false)
  | .fin s m e, .fin t n g =>
    let d := (dyAdd (signed s m) e (-(signed t n)) g).1
    (decide (d < 0), decide (d = 0))
  | _, _ => (false, false)

/-- `a` orders below `b`, −0 below +0; neither is a NaN (R210). -/
def ordersBelow (f : Fmt) (a b : Nat) : Bool :=
  let c := cmpVal (fval f a) (fval f b)
  c.1 || (c.2 && isNeg f a && !isNeg f b)

/-- Which operand `fmin` (`mx` false) or `fmax` selects: true for b; none when both are NaNs (R210, R249). -/
def pickB (f : Fmt) (mx : Bool) (a b : Nat) : Option Bool :=
  if isNan f a then (if isNan f b then none else some true)
  else if isNan f b then some false
  else some (if mx then ordersBelow f a b else ordersBelow f b a)

/-- `fmin` and `fmax` (R210, R267). -/
def fMinMax (f : Fmt) (e : FEnv) (mx : Bool) (a b : Nat) : Nat × Flags :=
  let x := daz f e a
  let y := daz f e b
  let nv := flagIf (isSNan f x || isSNan f y) fNV
  match pickB f mx x y with
  | none => (f.nan, nv)
  | some true => ftz f e (y, nv)
  | some false => ftz f e (x, nv)

/-- A magnitude m × 2^e rounded to an integer, and whether it changed (R218, R269). -/
def toIntegral (rm : Rm) (neg : Bool) (m : Nat) (e : Int) : Nat × Bool := roundAt rm neg m e 0 false

/-- Rounding to an integral value; `nxf`: inexact is raised when the value changed (R269). -/
def fRint (f : Fmt) (e : FEnv) (rm : Rm) (nxf : Bool) (a : Nat) : Nat × Flags :=
  match fval f (daz f e a) with
  | .nan s => (f.nan, flagIf s fNV)
  | .inf s => (f.sign s + f.infBits, 0#5)
  | .fin s m g =>
    if 0 ≤ g then (daz f e a, 0#5)
    else
      let r := toIntegral rm s m g
      ((roundTo f .rne s r.1 0).1, flagIf (nxf && r.2) fNX)

/-- `fsat` (R269). -/
def fSat (f : Fmt) (e : FEnv) (a : Nat) : Nat × Flags :=
  let x := daz f e a
  match fval f x with
  | .nan s => (0, flagIf s fNV)
  | v =>
    if (cmpVal v (.fin false 1 0)).1 then
      (if (cmpVal (.fin false 0 0) v).1 then ftz f e (x, 0#5) else (0, 0#5))
    else ((roundTo f .rne false 1 0).1, 0#5)

/-- The class mask (R270). -/
def fClass (f : Fmt) (e : FEnv) (a : Nat) : Nat :=
  let x := daz f e a
  let n := isNeg f x
  match fval f x with
  | .nan s => if s then 2 ^ 8 else 2 ^ 9
  | .inf _ => if n then 1 else 2 ^ 7
  | .fin _ m _ =>
    if m = 0 then (if n then 2 ^ 3 else 2 ^ 4)
    else if isSub f x then (if n then 2 ^ 2 else 2 ^ 5)
    else (if n then 2 ^ 1 else 2 ^ 6)

/-- `fcmp`: cond 0 eq, 1 lt, 2 le, 3 un (R271). -/
def fCmp (f : Fmt) (e : FEnv) (cond : Nat) (a b : Nat) : Bool × Flags :=
  let x := fval f (daz f e a)
  let y := fval f (daz f e b)
  let snan := x.isSNan || y.isSNan
  if x.isNan || y.isNan then (decide (cond = 3), flagIf (snan || decide (cond = 1) || decide (cond = 2)) fNV)
  else
    let c := cmpVal x y
    (if cond = 0 then c.2 else if cond = 1 then c.1 else if cond = 2 then c.1 || c.2 else false, 0#5)

/-! ## Conversions -/

/-- Float to float (R218): `sat` gives the largest finite value in place of an overflow. -/
def fToF (src dst : Fmt) (e : FEnv) (sat : Bool) (a : Nat) : Nat × Flags :=
  let v := fval src (daz src e a)
  let r := ofVal dst e.rm v
  match v with
  | .fin s _ _ =>
    if sat && r.2 &&& fOF != 0#5 then (dst.sign s + (dst.infBits - 1), fOF ||| fNX) else ftz dst e r
  | _ => r

/-- Float to a `w`-bit integer (R218); `sg` for a signed result. The answer is the integer, in its range. -/
def fToI (src : Fmt) (e : FEnv) (sat sg : Bool) (w : Nat) (a : Nat) : Int × Flags :=
  let lo : Int := if sg then -(2 ^ (w - 1) : Int) else 0
  let hi : Int := if sg then 2 ^ (w - 1) - 1 else 2 ^ w - 1
  match fval src (daz src e a) with
  | .nan _ => (0, fNV)
  | .inf s => (if sat then (if s then lo else hi) else 0, fNV)
  | .fin s m g =>
    let r := toIntegral e.rm s m g
    let x := signed s r.1
    if lo ≤ x ∧ x ≤ hi then (x, flagIf r.2 fNX)
    else if sat then (if x < lo then lo else hi, fNV)
    else
      let y := x % 2 ^ w
      (if sg && decide (2 ^ (w - 1) ≤ y) then y - 2 ^ w else y, fNV)

/-- An integer to float (R218). -/
def iToF (dst : Fmt) (e : FEnv) (x : Int) : Nat × Flags := ftz dst e (roundInt dst e.rm false x 0)

/-- Quantisation of an F32 pattern with block scale `s` between `lo` and `hi` (R219, R273). -/
def quantise (rm : Rm) (a : Nat) (s lo hi : Int) : Int × Flags :=
  match fval F32 a with
  | .nan _ => (0, fNV)
  | .inf n => (if n then lo else hi, fNV ||| fNX)
  | .fin n m g =>
    let r := toIntegral rm n m (g - s)
    let x := signed n r.1
    if x < lo then (lo, fNV ||| fNX)
    else if hi < x then (hi, fNV ||| fNX)
    else (x, flagIf r.2 fNX)

end Sys2Proof.Machine
end

