-- ==== Sys2Proof/WellFormed.lean ====
section
/-! DEFINITION. What makes an instruction word legal as the word alone shows it (R188 to R197): the prefix fields its major
accepts, the predicate and register fields it names, its sub-codes. What also depends on the role of the thread (the number of
its vector registers, tiles and strips, the jet order) is checked when the word is issued. -/

namespace Sys2Proof

/-! ## The prefix of a lane-set word; without one it reads as R190 says -/

/-- pm, 127 without a prefix (R190). -/
def Mod.pm (m : Mod) : BitVec 7 := match m.pfx with | some p => p.pm | none => 127#7
/-- N, 0 without a prefix (R190). -/
def Mod.n (m : Mod) : Bool := match m.pfx with | some p => p.n | none => false
/-- Z, 0 without a prefix (R190). -/
def Mod.z (m : Mod) : Bool := match m.pfx with | some p => p.z | none => false
/-- rm, RNE without a prefix (R190). -/
def Mod.rm (m : Mod) : BitVec 3 := match m.pfx with | some p => p.rm | none => 0#3
/-- vc, 0 without a prefix (R190). -/
def Mod.vc (m : Mod) : BitVec 7 := match m.pfx with | some p => p.vc | none => 0#7
/-- x, 0 without a prefix (R190). -/
def Mod.x (m : Mod) : BitVec 5 := match m.pfx with | some p => p.x | none => 0#5
/-- The width field x[3:2] of arithmetic (R190). -/
def Mod.width (m : Mod) : BitVec 2 := m.x.extractLsb' 2 2
/-- The saturate bit x[4] (R190). -/
def Mod.sat (m : Mod) : Bool := m.x.extractLsb' 4 1 == 1#1
/-- The order x[4:3] of a memory access (R190). -/
def Mod.order (m : Mod) : BitVec 2 := m.x.extractLsb' 3 2
/-- The scope x[2:0] of a memory access (R190). -/
def Mod.scope (m : Mod) : BitVec 3 := m.x.extractLsb' 0 3
/-- vc holds something other than the value of a word without a prefix. -/
def Mod.usesVc (m : Mod) : Bool := m.vc != 0#7

/-! ## Fields -/

/-- A predicate field: 0 to 95, or 127 (R189). -/
def okPred (p : BitVec 7) : Bool := decide (p.toNat < 96) || p == 127#7
/-- A register field that opens `n` registers: even for a pair, a multiple of 4 for 128 bits (R189). -/
def okVec (n : Nat) (v : BitVec 7) : Bool := decide (v.toNat % n = 0)
/-- The fields of `vs` are even where the operands are pairs (R263). -/
def okPair (pair : Bool) (vs : List (BitVec 7)) : Bool := !pair || vs.all (okVec 2)
/-- An even uniform register. -/
def evenU (g : BitVec 6) : Bool := decide (g.toNat % 2 = 0)

/-- The mask of a prefix names a legal predicate (R189, R190). -/
def Mod.okMask (m : Mod) : Bool := okPred m.pm
/-- The prefix fields of majors 0x01 to 0x08, 0x0A, 0x1D, 0x1E and 0x2D (R191): a mask and a rounding mode; x is 0. -/
def Mod.okFloat (m : Mod) : Bool := m.okMask && decide (m.rm.toNat ≤ 5) && m.x == 0#5
/-- The prefix fields of the compares, majors 0x09, 0x16, 0x17 (R191, R271, R278): width 00 or 10. -/
def Mod.okCmp (m : Mod) : Bool := m.okMask && m.rm == 0#3 && m.vc == 0#7 && (m.x == 0#5 || m.x == 8#5)
/-- The prefix fields of `fcvt` and `qnt` (R191): a rounding mode and saturate. -/
def Mod.okConv (m : Mod) : Bool := m.okMask && decide (m.rm.toNat ≤ 5) && m.vc == 0#7 && (m.x == 0#5 || m.x == 16#5)
/-- The prefix fields of the integer majors (R191, R275 to R277): the widths the entry gives, saturate if it gives it. -/
def Mod.okInt (m : Mod) (bytes sat : Bool) : Bool :=
  m.okMask && m.rm == 0#3 && m.x.extractLsb' 0 2 == 0#2 && m.width != 3#2 && (bytes || m.width != 1#2) && (sat || !m.sat)
/-- The prefix fields of majors 0x19 to 0x1C, 0x23 to 0x25 and 0x2F (R191): a mask alone. -/
def Mod.okPlain (m : Mod) : Bool := m.okMask && m.rm == 0#3 && m.vc == 0#7 && m.x == 0#5
/-- The prefix fields of `ld`, `st` and `atom` (R191, R285 to R288): one of the orders `os`, scope 0 to 5. -/
def Mod.okMem (m : Mod) (os : List (BitVec 2)) : Bool :=
  m.okMask && m.rm == 0#3 && os.contains m.order && decide (m.scope.toNat ≤ 5)

/-- A conversion code of R217. -/
def okCode (c : BitVec 7) : Bool :=
  let n := c.toNat
  (decide (1 ≤ n) && decide (n ≤ 0x0A)) || (decide (0x10 ≤ n) && decide (n ≤ 0x1B))
/-- The conversions whose source is a pair (R217). -/
def codePairSrc (c : BitVec 7) : Bool := [0x06#7, 0x07#7, 0x08#7, 0x14#7, 0x16#7, 0x17#7].contains c
/-- The conversions whose result is a pair (R217). -/
def codePairDst (c : BitVec 7) : Bool := [0x05#7, 0x09#7, 0x0A#7, 0x15#7, 0x16#7, 0x17#7].contains c
/-- The sizes of `ld` and `sld` (R285). -/
def okSizeLd (s : BitVec 3) : Bool := s != 7#3
/-- The sizes of `st` and `sst` (R286). -/
def okSizeSt (s : BitVec 3) : Bool := [0#3, 2#3, 4#3, 5#3, 6#3].contains s
/-- Registers moved by an access of this size (R285, R286). -/
def sizeRegs (s : BitVec 3) : Nat := if s = 5#3 then 2 else if s = 6#3 then 4 else 1
/-- Bytes accessed at this size (R285, R286). -/
def sizeBytes (s : BitVec 3) : Nat :=
  if s = 0#3 ∨ s = 1#3 then 1 else if s = 2#3 ∨ s = 3#3 then 2 else if s = 5#3 then 8 else if s = 6#3 then 16 else 4
/-- The operations of `atom`, `gatom` and `satom` (R287). -/
def okAtomOp (o : BitVec 4) : Bool := decide (o.toNat ≤ 12)
/-- The alignment of an atomic's operand register (R287). -/
def atomRegs (o : BitVec 4) : Nat := if o = 10#4 ∨ o = 11#4 then 2 else if o = 12#4 then 4 else 1
/-- Bytes of an atomic's word (R287). -/
def atomBytes (o : BitVec 4) : Nat := if o = 11#4 ∨ o = 12#4 then 8 else 4
/-- Registers that receive an atomic's old value (R287). -/
def atomDst (o : BitVec 4) : Nat := if o = 11#4 ∨ o = 12#4 then 2 else 1
/-- A special register of R341. -/
def okSpecial (r : BitVec 6) : Bool := decide (r.toNat ≤ 18) || (decide (32 ≤ r.toNat) && decide (r.toNat ≤ 47))
/-- A special register of R341 that is not RO. -/
def okSpecialW (r : BitVec 6) : Bool := [9#6, 10#6, 11#6, 14#6, 15#6, 16#6, 17#6].contains r

/-- `mma` mode bit acc (R317). -/
def LX.acc (f : LX) : Bool := f.m.extractLsb' 3 1 == 1#1
/-- `mma` mode bit ja (R317). -/
def LX.ja (f : LX) : Bool := f.m.extractLsb' 2 1 == 1#1
/-- `mma` mode bit ones (R317). -/
def LX.ones (f : LX) : Bool := f.m.extractLsb' 1 1 == 1#1
/-- `mma` mode bit jb (R317). -/
def LX.jb (f : LX) : Bool := f.m.extractLsb' 0 1 == 1#1

/-- The word is legal as far as the word and its prefix alone decide (R188 to R196 and the entry of each instruction). An event
has no word. -/
def Instr.wf (i : Instr) : Bool :=
  match i with
  | .fadd m f => m.okFloat && !m.usesVc && okPair (f.s == 3#2) [f.d, f.a, f.b]
  | .fsub m f => m.okFloat && !m.usesVc && okPair (f.s == 3#2) [f.d, f.a, f.b]
  | .fmul m f => m.okFloat && !m.usesVc && okPair (f.s == 3#2) [f.d, f.a, f.b]
  | .fma m f => m.okFloat && okPair (f.s == 3#2) [f.d, f.a, f.b, m.vc]
  | .fnma m f => m.okFloat && okPair (f.s == 3#2) [f.d, f.a, f.b, m.vc]
  | .fmin m f => m.okFloat && !m.usesVc && okPair (f.s == 3#2) [f.d, f.a, f.b]
  | .fmax m f => m.okFloat && !m.usesVc && okPair (f.s == 3#2) [f.d, f.a, f.b]
  | .fmov m f => m.okFloat && !m.usesVc && okPair (f.s == 3#2) [f.d, f.a]
  | .fabs m f => m.okFloat && !m.usesVc && okPair (f.s == 3#2) [f.d, f.a]
  | .fneg m f => m.okFloat && !m.usesVc && okPair (f.s == 3#2) [f.d, f.a]
  | .frint m f => m.okFloat && !m.usesVc && okPair (f.s == 3#2) [f.d, f.a]
  | .ffloor m f => m.okFloat && !m.usesVc && okPair (f.s == 3#2) [f.d, f.a]
  | .fceil m f => m.okFloat && !m.usesVc && okPair (f.s == 3#2) [f.d, f.a]
  | .ftrunc m f => m.okFloat && !m.usesVc && okPair (f.s == 3#2) [f.d, f.a]
  | .fclass m f => m.okFloat && !m.usesVc && okPair (f.s == 3#2) [f.a]
  | .fsat m f => m.okFloat && !m.usesVc && okPair (f.s == 3#2) [f.d, f.a]
  | .fcmpeq m f => m.okCmp && okPred f.p && okPair (m.width == 2#2) [f.a, f.b]
  | .fcmplt m f => m.okCmp && okPred f.p && okPair (m.width == 2#2) [f.a, f.b]
  | .fcmple m f => m.okCmp && okPred f.p && okPair (m.width == 2#2) [f.a, f.b]
  | .fcmpun m f => m.okCmp && okPred f.p && okPair (m.width == 2#2) [f.a, f.b]
  | .faddG m f => m.okFloat && !m.usesVc && okPair (f.s == 3#2) [f.d, f.a]
  | .fmulG m f => m.okFloat && !m.usesVc && okPair (f.s == 3#2) [f.d, f.a]
  | .fmaG m f => m.okFloat && okPair (f.s == 3#2) [f.d, f.a, m.vc]
  | .fsubG m f => m.okFloat && !m.usesVc && okPair (f.s == 3#2) [f.d, f.a]
  | .fcvt m f => m.okConv && okCode f.c && okPair (codePairSrc f.c) [f.a] && okPair (codePairDst f.c) [f.d]
  | .qnt m f => m.okConv && f.f != 3#2
  | .sel m _ => m.pfx.isSome && m.okMask && m.rm == 0#3 && m.x == 0#5 && okPred m.vc
  | .iadd m f => m.okInt true true && !m.usesVc && okPair (m.width == 2#2) [f.d, f.a, f.b]
  | .isub m f => m.okInt true true && !m.usesVc && okPair (m.width == 2#2) [f.d, f.a, f.b]
  | .imul m f => m.okInt true true && !m.usesVc && okPair (m.width == 2#2) [f.d, f.a, f.b]
  | .imad m f => m.okInt true true && okPair (m.width == 2#2) [f.d, f.a, f.b, m.vc]
  | .imulhs m f => m.okInt true false && !m.usesVc && okPair (m.width == 2#2) [f.d, f.a, f.b]
  | .imulhu m f => m.okInt true false && !m.usesVc && okPair (m.width == 2#2) [f.d, f.a, f.b]
  | .iabsd m f => m.okInt true false && !m.usesVc && okPair (m.width == 2#2) [f.d, f.a, f.b]
  | .land m f => m.okInt false false && !m.usesVc && okPair (m.width == 2#2) [f.d, f.a, f.b]
  | .lor m f => m.okInt false false && !m.usesVc && okPair (m.width == 2#2) [f.d, f.a, f.b]
  | .lxor m f => m.okInt false false && !m.usesVc && okPair (m.width == 2#2) [f.d, f.a, f.b]
  | .landn m f => m.okInt false false && !m.usesVc && okPair (m.width == 2#2) [f.d, f.a, f.b]
  | .shl m f => m.okInt true false && !m.usesVc && okPair (m.width == 2#2) [f.d, f.a, f.b]
  | .shr m f => m.okInt true false && !m.usesVc && okPair (m.width == 2#2) [f.d, f.a, f.b]
  | .sar m f => m.okInt true false && !m.usesVc && okPair (m.width == 2#2) [f.d, f.a, f.b]
  | .rotl m f => m.okInt true false && !m.usesVc && okPair (m.width == 2#2) [f.d, f.a, f.b]
  | .imins m f => m.okInt true false && !m.usesVc && okPair (m.width == 2#2) [f.d, f.a, f.b]
  | .imaxs m f => m.okInt true false && !m.usesVc && okPair (m.width == 2#2) [f.d, f.a, f.b]
  | .iminu m f => m.okInt true false && !m.usesVc && okPair (m.width == 2#2) [f.d, f.a, f.b]
  | .imaxu m f => m.okInt true false && !m.usesVc && okPair (m.width == 2#2) [f.d, f.a, f.b]
  | .imov m f => m.okInt true false && !m.usesVc && okPair (m.width == 2#2) [f.d, f.a]
  | .lnot m f => m.okInt true false && !m.usesVc && okPair (m.width == 2#2) [f.d, f.a]
  | .ineg m f => m.okInt true true && !m.usesVc && okPair (m.width == 2#2) [f.d, f.a]
  | .iabs m f => m.okInt true true && !m.usesVc && okPair (m.width == 2#2) [f.d, f.a]
  | .clz m f => m.okInt true false && !m.usesVc && okPair (m.width == 2#2) [f.d, f.a]
  | .popc m f => m.okInt true false && !m.usesVc && okPair (m.width == 2#2) [f.d, f.a]
  | .brev m f => m.okInt true false && !m.usesVc && okPair (m.width == 2#2) [f.d, f.a]
  | .sext8 m f => m.okInt false false && !m.usesVc && okPair (m.width == 2#2) [f.d, f.a]
  | .sext16 m f => m.okInt false false && !m.usesVc && okPair (m.width == 2#2) [f.d, f.a]
  | .zext8 m f => m.okInt false false && !m.usesVc && okPair (m.width == 2#2) [f.d, f.a]
  | .zext16 m f => m.okInt false false && !m.usesVc && okPair (m.width == 2#2) [f.d, f.a]
  | .icmpeq m f => m.okCmp && okPred f.p && okPair (m.width == 2#2) [f.a, f.b]
  | .icmpne m f => m.okCmp && okPred f.p && okPair (m.width == 2#2) [f.a, f.b]
  | .icmplts m f => m.okCmp && okPred f.p && okPair (m.width == 2#2) [f.a, f.b]
  | .icmpltu m f => m.okCmp && okPred f.p && okPair (m.width == 2#2) [f.a, f.b]
  | .icmples m f => m.okCmp && okPred f.p && okPair (m.width == 2#2) [f.a, f.b]
  | .icmpleu m f => m.okCmp && okPred f.p && okPair (m.width == 2#2) [f.a, f.b]
  | .iaddG m f => m.okInt true true && !m.usesVc && okPair (m.width == 2#2) [f.d, f.a]
  | .isubG m f => m.okInt true true && !m.usesVc && okPair (m.width == 2#2) [f.d, f.a]
  | .imulG m f => m.okInt true true && !m.usesVc && okPair (m.width == 2#2) [f.d, f.a]
  | .imadG m f => m.okInt true true && okPair (m.width == 2#2) [f.d, f.a, m.vc]
  | .landG m f => m.okInt false false && !m.usesVc && okPair (m.width == 2#2) [f.d, f.a]
  | .lorG m f => m.okInt false false && !m.usesVc && okPair (m.width == 2#2) [f.d, f.a]
  | .lxorG m f => m.okInt false false && !m.usesVc && okPair (m.width == 2#2) [f.d, f.a]
  | .shlG m f => m.okInt true false && !m.usesVc && okPair (m.width == 2#2) [f.d, f.a]
  | .shrG m f => m.okInt true false && !m.usesVc && okPair (m.width == 2#2) [f.d, f.a]
  | .sarG m f => m.okInt true false && !m.usesVc && okPair (m.width == 2#2) [f.d, f.a]
  | .iminsG m f => m.okInt true false && !m.usesVc && okPair (m.width == 2#2) [f.d, f.a]
  | .imaxsG m f => m.okInt true false && !m.usesVc && okPair (m.width == 2#2) [f.d, f.a]
  | .iminuG m f => m.okInt true false && !m.usesVc && okPair (m.width == 2#2) [f.d, f.a]
  | .imaxuG m f => m.okInt true false && !m.usesVc && okPair (m.width == 2#2) [f.d, f.a]
  | .movi m _ => m.okPlain
  | .movhi m _ => m.okPlain
  | .pand m f => m.okPlain && okPred f.d && okPred f.a && okPred f.b
  | .por m f => m.okPlain && okPred f.d && okPred f.a && okPred f.b
  | .pxor m f => m.okPlain && okPred f.d && okPred f.a && okPred f.b
  | .pandn m f => m.okPlain && okPred f.d && okPred f.a && okPred f.b
  | .pnot m f => m.okPlain && okPred f.d && okPred f.a
  | .pcopy m f => m.okPlain && okPred f.d && okPred f.a
  | .pset m d _ => m.okPlain && okPred d
  | .pmovV m f => m.okPlain && okPred f.a
  | .pmovP m f => m.okPlain && okPred f.d
  | .jseed m _ => m.okFloat && !m.usesVc
  | .jget m _ => m.okFloat && !m.usesVc
  | .jset m _ => m.okFloat && !m.usesVc
  | .jder m _ => m.okFloat && !m.usesVc
  | .jdiff m _ => m.okFloat && !m.usesVc
  | .jint m _ => m.okFloat && !m.usesVc
  | .jtrunc m _ => m.okFloat && !m.usesVc
  | .ld m f => m.okMem [0#2, 1#2] && okSizeLd f.s && okVec (sizeRegs f.s) f.d
  | .st m f => m.okMem [0#2, 2#2] && !m.z && okSizeSt f.s && okVec (sizeRegs f.s) f.v
  | .atom m f => m.okMem [0#2, 1#2, 2#2, 3#2] && okAtomOp f.o && okVec (atomRegs f.o) f.d
  | .sld m f => m.okPlain && okSizeLd f.s && okVec (sizeRegs f.s) f.r
  | .sst m f => m.okPlain && !m.z && okSizeSt f.s && okVec (sizeRegs f.s) f.r
  | .satom m f => m.okPlain && okAtomOp f.o && okVec (atomRegs f.o) f.d
  | .br _ p _ => okPred p
  | .brn _ p _ => okPred p
  | .call _ _ => true
  | .jmp _ _ => true
  | .ret _ => true
  | .bri _ a _ => okVec 2 a
  | .enrol _ g => evenU g
  | .rejoin _ g => evenU g
  | .barg _ _ => true
  | .exit _ => true
  | .trap _ _ => true
  | .yield _ => true
  | .lpop _ _ => true
  | .fence _ s _ => decide (s.toNat ≤ 5)
  | .sleep _ _ => true
  | .nop _ => true
  | .redaddF32 _ _ => true
  | .redaddI32 _ _ => true
  | .redminF32 _ _ => true
  | .redmaxF32 _ _ => true
  | .redminS32 _ _ => true
  | .redmaxS32 _ _ => true
  | .redand _ _ => true
  | .redor _ _ => true
  | .redxor _ _ => true
  | .scanaddF32 _ _ => true
  | .scanaddI32 _ _ => true
  | .xscanaddI32 _ _ => true
  | .bcast _ _ => true
  | .rank _ f => f.a == 0#7
  | .frcp m _ => m.okFloat && !m.usesVc && !m.z
  | .frsqrt m _ => m.okFloat && !m.usesVc && !m.z
  | .fsqrt m _ => m.okFloat && !m.usesVc && !m.z
  | .fdiv m _ _ => m.okFloat && !m.usesVc && !m.z
  | .fexp2 m _ => m.okFloat && !m.usesVc && !m.z
  | .flog2 m _ => m.okFloat && !m.usesVc && !m.z
  | .fexp m _ => m.okFloat && !m.usesVc && !m.z
  | .fln m _ => m.okFloat && !m.usesVc && !m.z
  | .fsin m _ => m.okFloat && !m.usesVc && !m.z
  | .fcos m _ => m.okFloat && !m.usesVc && !m.z
  | .ftanh m _ => m.okFloat && !m.usesVc && !m.z
  | .fsigm m _ => m.okFloat && !m.usesVc && !m.z
  | .ferf m _ => m.okFloat && !m.usesVc && !m.z
  | .fpow m _ _ => m.okFloat && !m.usesVc && !m.z
  | .mma _ f => !(f.ones && (f.b != 0#5 || f.jb))
  | .accrd m _ => m.okPlain
  | .accwr m _ => m.okPlain && !m.z
  | .gadd _ _ => true
  | .gsub _ _ => true
  | .gmul _ _ => true
  | .gmulhs _ _ => true
  | .gmulhu _ _ => true
  | .gand _ _ => true
  | .gor _ _ => true
  | .gxor _ _ => true
  | .gandn _ _ => true
  | .gshl _ _ => true
  | .gshr _ _ => true
  | .gsar _ _ => true
  | .grotl _ _ => true
  | .gmins _ _ => true
  | .gmaxs _ _ => true
  | .gminu _ _ => true
  | .gmaxu _ _ => true
  | .gpopc _ _ => true
  | .gclz _ _ => true
  | .gctz _ _ => true
  | .gbrev _ _ => true
  | .gnot _ _ => true
  | .gneg _ _ => true
  | .gmov _ _ => true
  | .gaddi _ _ => true
  | .gandi _ _ => true
  | .gori _ _ => true
  | .gxori _ _ => true
  | .gshi _ _ => true
  | .gmovk _ _ => true
  | .gmovz _ _ => true
  | .gcmpeq _ _ => true
  | .gcmpne _ _ => true
  | .gcmplts _ _ => true
  | .gcmpltu _ _ => true
  | .gcmples _ _ => true
  | .gcmpleu _ _ => true
  | .gld _ _ => true
  | .gst _ _ => true
  | .gatom _ f => okAtomOp f.o
  | .gsld _ _ => true
  | .gsst _ _ => true
  | .gbrz _ _ => true
  | .gbrnz _ _ => true
  | .gjmp _ _ => true
  | .rdsr _ _ r => okSpecial r
  | .wrsr _ _ r => okSpecialW r
  | .setjo _ n => decide (n.toNat ≤ 7)
  | .jxfclr _ _ => true
  | .gtrap _ c => decide (c.toNat ≤ 15)
  | .gexit _ => true
  | .gyield _ => true
  | .waitn _ _ _ => true
  | .bart _ _ => true
  | .bars _ _ => true
  | .qpush _ f => decide (1 ≤ f.q.toNat) && decide (f.q.toNat ≤ 4) && !(f.q == 1#4 && f.m)
  | .qpop _ _ q => decide (1 ≤ q.toNat) && decide (q.toNat ≤ 4)
  | .give _ _ => true
  | .bmopAccept _ _ => true
  | .bmopBwait _ _ => true
  | .bmopRelease _ _ => true
  | .bmopStash _ f => evenU f.b
  | .bmopPhase _ _ => true
  | .bmopQuery _ _ => true
  | .syncwInit _ _ => true
  | .syncwWait _ _ => true
  | .syncwArrive _ _ => true
  | .tld _ f => evenU f.a
  | .tst _ f => evenU f.a
  | .launch _ _ => true
  | .runStart _ => true
  | .icacheFill _ _ => true
  | .boundStallExpiry _ _ => true
  | .registerCacheFill _ _ => true
  | .laneStoreFill _ _ => true
  | .verdictArrival _ _ => true
  | .loadDataArrival _ _ _ _ => true
  | .storeReply _ _ => true
  | .atomicResultArrival _ _ _ _ => true
  | .releaseConditionsMet _ => true
  | .acquireWaitEnd _ => true
  | .retryReissue _ => true
  | .sliceRequest _ => true
  | .sliceRenewal _ _ => true
  | .homeRequest _ _ => true
  | .homeReadShared _ _ => true
  | .homeReadExclusive _ _ => true
  | .homeUpgrade _ _ => true
  | .homeDirectRequest _ _ => true
  | .invalidation _ _ _ => true
  | .invalidationAck _ _ _ _ => true
  | .forwardedSnoop _ _ _ _ => true
  | .snoopResponse _ _ _ _ => true
  | .writeBack _ _ _ _ => true
  | .writeBackAck _ _ => true
  | .cleanDropNotice _ _ _ _ => true
  | .ownershipGrant _ _ => true
  | .remoteLeaseGrant _ _ => true
  | .recallDrop _ _ => true
  | .stashFill _ _ => true
  | .stashUpgradeGrant _ _ => true
  | .stashSnoop _ _ _ _ _ => true
  | .bankWriteRetire _ => true
  | .bankZeroDone _ _ => true
  | .giveDrainDone _ _ => true
  | .sleepExpiry _ => true
  | .sfxResultArrival _ _ _ => true
  | .mmaOctetDone _ _ _ => true
  | .mmaComplete _ _ => true
  | .qmxArmMark _ _ _ _ => true
  | .qmxReportFlags _ _ => true
  | .markPost _ _ _ => true
  | .copyPlain _ => true
  | .copyStrided _ => true
  | .copyTaggedPack _ => true
  | .copyTaggedUnpack _ => true
  | .copyStripDrain _ => true
  | .gather _ => true
  | .reduceScatter _ => true
  | .allGather _ => true
  | .allReduce _ => true
  | .collectiveMatch _ _ _ => true
  | .copyWriteRetire _ => true
  | .engineCommandComplete _ => true
  | .tableUpdateDistribution _ => true
  | .tableUpdateSetList _ => true
  | .tableUpdateAperture _ => true
  | .tableUpdateDone => true
  | .regionCloseRecallDone _ => true
  | .install _ _ => true
  | .remove _ _ => true
  | .move _ _ => true
  | .recallPage _ _ => true
  | .homeRecallDone _ => true
  | .moveDrainDone _ => true
  | .moveCopyDone _ => true
  | .faultRecordWrite _ => true
  | .faultQueueCoalesce _ => true
  | .fqbaseWrite _ _ => true
  | .fqheadWrite _ _ => true
  | .replay _ _ => true
  | .cancel _ _ => true
  | .hostCxlMemRead _ _ _ => true
  | .hostCxlMemWrite _ _ _ _ => true
  | .hostStoreCompletion _ _ => true
  | .hostOwnershipRequest _ _ => true
  | .hostOwnershipGrant _ _ => true
  | .hostSnoop _ _ => true
  | .hostBiResponse _ _ _ => true
  | .launchQueueEnable _ _ _ => true
  | .lqwpWrite _ _ _ => true
  | .recordTake _ _ => true
  | .waitConditionPoll _ _ => true
  | .teamDispatch _ => true
  | .clusterSetDispatch _ => true
  | .dispatchPriorityBlock _ => true
  | .teamEnd _ => true
  | .gridComplete _ => true
  | .gridStallEvict _ => true
  | .gridStallFault _ => true
  | .softPreempt _ _ => true
  | .halt _ _ => true
  | .kill _ _ => true
  | .resume _ _ => true
  | .graceExpiry _ => true
  | .killTimerExpiry _ => true
  | .teamDeparted _ => true
  | .layoutCommit => true
  | .layoutFlip => true
  | .partitionReset _ => true
  | .partitionResetDone _ => true
  | .bezelRestart => true
  | .budgetRefill => true
  | .energyCharge => true
  | .exportBlob _ _ => true
  | .migrationRelease _ => true
  | .importBlob _ _ => true
  | .confirm _ => true
  | .fabricFlitReceive _ _ => true
  | .fabricNak _ => true
  | .portDown _ => true
  | .fabricKeyUpdate _ => true
  | .podTimeFlit _ => true
  | .podTimeLoss => true
  | .postSend _ _ _ _ _ => true
  | .postReceive _ _ _ _ => true
  | .rdmaSendArrival _ _ _ _ _ => true
  | .rdmaRequestArrival _ _ _ => true
  | .rnrNak _ _ _ => true
  | .bezelBoot _ => true
  | .fullReset => true
  | .provision => true
  | .serviceToken _ => true
  | .confidentialModeRequest _ => true
  | .setSharedRange _ _ _ => true
  | .getVersion _ => true
  | .getCapabilities _ => true
  | .negotiateAlgorithms _ => true
  | .getDigests _ => true
  | .getCertificate _ => true
  | .challenge _ _ => true
  | .getMeasurements _ _ => true
  | .keyExchange _ _ _ => true
  | .finish _ _ _ => true
  | .keyUpdate _ _ => true
  | .endSession _ _ => true
  | .patrolScrub _ => true
  | .poisonConsumed _ => true
  | .fatalError _ => true
  | .registerWrite _ _ _ _ => true
  | .illegalWord _ _ => true
  | .unitPowerGate _ => true
  | .unitPowerWake _ => true
  | .portRetrainDone _ _ => true
  | .ucieFlitReceive _ _ => true
  | .transportAckArrival _ _ _ _ => true
  | .hostLinkTraining _ _ => true

end Sys2Proof
end

