-- ==== Sys2Proof/Decode.lean ====
section
/-! DEFINITION. Decoding and encoding of instruction words (R186, R188, R190 to R196): fields by bit position, the two opcode
maps as rows of fixed fields, the prefix, and the encoder written from the same formats. -/

namespace Sys2Proof

/-! ## Fields -/

/-- The `n` bits of `w` from bit `lo` up. -/
def fld (w : Word) (lo n : Nat) : BitVec n := BitVec.ofNat n (w.toNat / 2 ^ lo)
/-- Bit `i` of `w`. -/
def bit (w : Word) (i : Nat) : Bool := w.toNat / 2 ^ i % 2 == 1
/-- The fixed fields (low bit, width, value) of a row of the opcode map stand in `w`. -/
def fits (w : Word) (cs : List (Nat × Nat × Nat)) : Bool := cs.all fun c => w.toNat / 2 ^ c.1 % 2 ^ c.2.1 == c.2.2
/-- A word from its set bit, B bit, major and bits [23:0] (R186). -/
def mkWord (uniform b : Bool) (maj rest : Nat) : Word :=
  BitVec.ofNat 32 (uniform.toNat * 2 ^ 31 + b.toNat * 2 ^ 30 + maj * 2 ^ 24 + rest)
/-- The set bit (R186). -/
def isUniform (w : Word) : Bool := bit w 31
/-- The B bit (R186). -/
def bBit (w : Word) : Bool := bit w 30
/-- The major opcode (R186). -/
def major (w : Word) : Nat := w.toNat / 2 ^ 24 % 64
/-- The fields of a prefix word (R190). -/
def ofPfx (w : Word) : Pfx :=
  ⟨fld w 17 7, bit w 16, bit w 15, fld w 12 3, fld w 5 7, fld w 0 5⟩
/-- The prefix word of its fields (R190). -/
def pfxWord (p : Pfx) : Word :=
  mkWord false false 0x3F
    (p.pm.toNat * 2 ^ 17 + p.n.toNat * 2 ^ 16 + p.z.toNat * 2 ^ 15 + p.rm.toNat * 2 ^ 12 + p.vc.toNat * 2 ^ 5 + p.x.toNat)

/-- The fields of format LR in a word (R188, R193). -/
def ofLR (w : Word) : LR :=
  ⟨fld w 22 2, fld w 15 7, fld w 8 7, fld w 1 7, bit w 0⟩
/-- The bits of format LR (R188, R193). -/
def bitsLR (f : LR) : Nat :=
  f.s.toNat * 2 ^ 22 + f.d.toNat * 2 ^ 15 + f.a.toNat * 2 ^ 8 + f.b.toNat * 2 ^ 1 + f.h.toNat
/-- The fields of format R3 in a word (R188, R193). -/
def ofR3 (w : Word) : R3 :=
  ⟨fld w 15 7, fld w 8 7, fld w 1 7, bit w 0⟩
/-- The bits of format R3 (R188, R193). -/
def bitsR3 (f : R3) : Nat :=
  f.d.toNat * 2 ^ 15 + f.a.toNat * 2 ^ 8 + f.b.toNat * 2 ^ 1 + f.h.toNat
/-- The fields of format LU in a word (R188, R193). -/
def ofLU (w : Word) : LU :=
  ⟨fld w 22 2, fld w 15 7, fld w 8 7, bit w 0⟩
/-- The bits of format LU (R188, R193). -/
def bitsLU (f : LU) : Nat :=
  f.s.toNat * 2 ^ 22 + f.d.toNat * 2 ^ 15 + f.a.toNat * 2 ^ 8 + f.h.toNat
/-- The fields of format R2 in a word (R188, R193). -/
def ofR2 (w : Word) : R2 :=
  ⟨fld w 15 7, fld w 8 7, bit w 0⟩
/-- The bits of format R2 (R188, R193). -/
def bitsR2 (f : R2) : Nat :=
  f.d.toNat * 2 ^ 15 + f.a.toNat * 2 ^ 8 + f.h.toNat
/-- The fields of format LC in a word (R188, R193). -/
def ofLC (w : Word) : LC :=
  ⟨fld w 15 7, fld w 8 7, fld w 1 7, bit w 0⟩
/-- The bits of format LC (R188, R193). -/
def bitsLC (f : LC) : Nat :=
  f.p.toNat * 2 ^ 15 + f.a.toNat * 2 ^ 8 + f.b.toNat * 2 ^ 1 + f.h.toNat
/-- The fields of format LGF in a word (R188, R193). -/
def ofLGF (w : Word) : LGF :=
  ⟨fld w 22 2, fld w 15 7, fld w 8 7, fld w 2 6⟩
/-- The bits of format LGF (R188, R193). -/
def bitsLGF (f : LGF) : Nat :=
  f.s.toNat * 2 ^ 22 + f.d.toNat * 2 ^ 15 + f.a.toNat * 2 ^ 8 + f.g.toNat * 2 ^ 2
/-- The fields of format LG in a word (R188, R193). -/
def ofLG (w : Word) : LG :=
  ⟨fld w 15 7, fld w 8 7, fld w 2 6⟩
/-- The bits of format LG (R188, R193). -/
def bitsLG (f : LG) : Nat :=
  f.d.toNat * 2 ^ 15 + f.a.toNat * 2 ^ 8 + f.g.toNat * 2 ^ 2
/-- The fields of format LCvt in a word (R188, R193). -/
def ofLCvt (w : Word) : LCvt :=
  ⟨fld w 15 7, fld w 8 7, fld w 1 7, bit w 0⟩
/-- The bits of format LCvt (R188, R193). -/
def bitsLCvt (f : LCvt) : Nat :=
  f.d.toNat * 2 ^ 15 + f.a.toNat * 2 ^ 8 + f.c.toNat * 2 ^ 1 + f.h.toNat
/-- The fields of format LQ in a word (R188, R193). -/
def ofLQ (w : Word) : LQ :=
  ⟨fld w 22 2, fld w 15 7, fld w 8 7, fld w 2 6⟩
/-- The bits of format LQ (R188, R193). -/
def bitsLQ (f : LQ) : Nat :=
  f.f.toNat * 2 ^ 22 + f.d.toNat * 2 ^ 15 + f.a.toNat * 2 ^ 8 + f.g.toNat * 2 ^ 2
/-- The fields of format LK in a word (R188, R193). -/
def ofLK (w : Word) : LK :=
  ⟨fld w 17 7, fld w 0 16⟩
/-- The bits of format LK (R188, R193). -/
def bitsLK (f : LK) : Nat :=
  f.d.toNat * 2 ^ 17 + f.i.toNat
/-- The fields of format LP in a word (R188, R193). -/
def ofLP (w : Word) : LP :=
  ⟨fld w 17 7, fld w 10 7, fld w 3 7⟩
/-- The bits of format LP (R188, R193). -/
def bitsLP (f : LP) : Nat :=
  f.d.toNat * 2 ^ 17 + f.a.toNat * 2 ^ 10 + f.b.toNat * 2 ^ 3
/-- The fields of format LP2 in a word (R188, R193). -/
def ofLP2 (w : Word) : LP2 :=
  ⟨fld w 17 7, fld w 10 7⟩
/-- The bits of format LP2 (R188, R193). -/
def bitsLP2 (f : LP2) : Nat :=
  f.d.toNat * 2 ^ 17 + f.a.toNat * 2 ^ 10
/-- The fields of format LJk in a word (R188, R193). -/
def ofLJk (w : Word) : LJk :=
  ⟨fld w 15 7, fld w 8 7, fld w 5 3, bit w 0⟩
/-- The bits of format LJk (R188, R193). -/
def bitsLJk (f : LJk) : Nat :=
  f.d.toNat * 2 ^ 15 + f.a.toNat * 2 ^ 8 + f.k.toNat * 2 ^ 5 + f.h.toNat
/-- The fields of format LM in a word (R188, R193). -/
def ofLM (w : Word) : LM :=
  ⟨fld w 20 4, fld w 17 3, fld w 10 7, fld w 4 6, fld w 0 4⟩
/-- The bits of format LM (R188, R193). -/
def bitsLM (f : LM) : Nat :=
  f.k.toNat * 2 ^ 20 + f.s.toNat * 2 ^ 17 + f.d.toNat * 2 ^ 10 + f.n.toNat * 2 ^ 4 + f.i.toNat
/-- The fields of format LST in a word (R188, R193). -/
def ofLST (w : Word) : LST :=
  ⟨fld w 21 3, fld w 14 7, fld w 8 6, fld w 0 8⟩
/-- The bits of format LST (R188, R193). -/
def bitsLST (f : LST) : Nat :=
  f.s.toNat * 2 ^ 21 + f.v.toNat * 2 ^ 14 + f.n.toNat * 2 ^ 8 + f.i.toNat
/-- The fields of format LAT in a word (R188, R193). -/
def ofLAT (w : Word) : LAT :=
  ⟨fld w 20 4, fld w 13 7, fld w 7 6⟩
/-- The bits of format LAT (R188, R193). -/
def bitsLAT (f : LAT) : Nat :=
  f.o.toNat * 2 ^ 20 + f.d.toNat * 2 ^ 13 + f.n.toNat * 2 ^ 7
/-- The fields of format LS in a word (R188, R193). -/
def ofLS (w : Word) : LS :=
  ⟨fld w 21 3, fld w 14 7, fld w 7 7, fld w 0 7⟩
/-- The bits of format LS (R188, R193). -/
def bitsLS (f : LS) : Nat :=
  f.s.toNat * 2 ^ 21 + f.r.toNat * 2 ^ 14 + f.a.toNat * 2 ^ 7 + f.i.toNat
/-- The fields of format LSA in a word (R188, R193). -/
def ofLSA (w : Word) : LSA :=
  ⟨fld w 20 4, fld w 13 7, fld w 6 7⟩
/-- The bits of format LSA (R188, R193). -/
def bitsLSA (f : LSA) : Nat :=
  f.o.toNat * 2 ^ 20 + f.d.toNat * 2 ^ 13 + f.a.toNat * 2 ^ 6
/-- The fields of format LXT in a word (R188, R193). -/
def ofLXT (w : Word) : LXT :=
  ⟨fld w 13 7, fld w 6 7, fld w 0 6⟩
/-- The bits of format LXT (R188, R193). -/
def bitsLXT (f : LXT) : Nat :=
  f.d.toNat * 2 ^ 13 + f.a.toNat * 2 ^ 6 + f.g.toNat
/-- The fields of format LX in a word (R188, R193). -/
def ofLX (w : Word) : LX :=
  ⟨fld w 15 9, fld w 10 5, fld w 5 5, fld w 1 4⟩
/-- The bits of format LX (R188, R193). -/
def bitsLX (f : LX) : Nat :=
  f.d.toNat * 2 ^ 15 + f.a.toNat * 2 ^ 10 + f.b.toNat * 2 ^ 5 + f.m.toNat * 2 ^ 1
/-- The fields of format LACC in a word (R188, R193). -/
def ofLACC (w : Word) : LACC :=
  ⟨fld w 14 9, fld w 7 7, fld w 0 7⟩
/-- The bits of format LACC (R188, R193). -/
def bitsLACC (f : LACC) : Nat :=
  f.s.toNat * 2 ^ 14 + f.v.toNat * 2 ^ 7 + f.c.toNat
/-- The fields of format GR in a word (R188, R193). -/
def ofGR (w : Word) : GR :=
  ⟨fld w 18 6, fld w 12 6, fld w 6 6⟩
/-- The bits of format GR (R188, R193). -/
def bitsGR (f : GR) : Nat :=
  f.d.toNat * 2 ^ 18 + f.a.toNat * 2 ^ 12 + f.b.toNat * 2 ^ 6
/-- The fields of format GR2 in a word (R188, R193). -/
def ofGR2 (w : Word) : GR2 :=
  ⟨fld w 18 6, fld w 12 6⟩
/-- The bits of format GR2 (R188, R193). -/
def bitsGR2 (f : GR2) : Nat :=
  f.d.toNat * 2 ^ 18 + f.a.toNat * 2 ^ 12
/-- The fields of format GI in a word (R188, R193). -/
def ofGI (w : Word) : GI :=
  ⟨fld w 18 6, fld w 12 6, fld w 0 12⟩
/-- The bits of format GI (R188, R193). -/
def bitsGI (f : GI) : Nat :=
  f.d.toNat * 2 ^ 18 + f.a.toNat * 2 ^ 12 + f.i.toNat
/-- The fields of format GSh in a word (R188, R193). -/
def ofGSh (w : Word) : GSh :=
  ⟨fld w 18 6, fld w 12 6, fld w 10 2, fld w 0 6⟩
/-- The bits of format GSh (R188, R193). -/
def bitsGSh (f : GSh) : Nat :=
  f.d.toNat * 2 ^ 18 + f.a.toNat * 2 ^ 12 + f.k.toNat * 2 ^ 10 + f.s.toNat
/-- The fields of format GK in a word (R188, R193). -/
def ofGK (w : Word) : GK :=
  ⟨fld w 18 6, fld w 16 2, fld w 0 16⟩
/-- The bits of format GK (R188, R193). -/
def bitsGK (f : GK) : Nat :=
  f.d.toNat * 2 ^ 18 + f.h.toNat * 2 ^ 16 + f.i.toNat
/-- The fields of format GMK in a word (R188, R193). -/
def ofGMK (w : Word) : GMK :=
  ⟨fld w 20 4, fld w 18 2, fld w 12 6, fld w 6 6, fld w 0 6⟩
/-- The bits of format GMK (R188, R193). -/
def bitsGMK (f : GMK) : Nat :=
  f.k.toNat * 2 ^ 20 + f.s.toNat * 2 ^ 18 + f.r.toNat * 2 ^ 12 + f.a.toNat * 2 ^ 6 + f.i.toNat
/-- The fields of format GM in a word (R188, R193). -/
def ofGM (w : Word) : GM :=
  ⟨fld w 18 2, fld w 12 6, fld w 6 6, fld w 0 6⟩
/-- The bits of format GM (R188, R193). -/
def bitsGM (f : GM) : Nat :=
  f.s.toNat * 2 ^ 18 + f.r.toNat * 2 ^ 12 + f.a.toNat * 2 ^ 6 + f.i.toNat
/-- The fields of format GAt in a word (R188, R193). -/
def ofGAt (w : Word) : GAt :=
  ⟨fld w 18 6, fld w 12 6, fld w 6 6, fld w 2 4, fld w 0 2⟩
/-- The bits of format GAt (R188, R193). -/
def bitsGAt (f : GAt) : Nat :=
  f.d.toNat * 2 ^ 18 + f.a.toNat * 2 ^ 12 + f.b.toNat * 2 ^ 6 + f.o.toNat * 2 ^ 2 + f.p.toNat
/-- The fields of format GBC in a word (R188, R193). -/
def ofGBC (w : Word) : GBC :=
  ⟨fld w 18 6, fld w 0 18⟩
/-- The bits of format GBC (R188, R193). -/
def bitsGBC (f : GBC) : Nat :=
  f.a.toNat * 2 ^ 18 + f.o.toNat
/-- The fields of format GBar in a word (R188, R193). -/
def ofGBar (w : Word) : GBar :=
  ⟨fld w 18 6, fld w 12 6, fld w 6 6, bit w 0⟩
/-- The bits of format GBar (R188, R193). -/
def bitsGBar (f : GBar) : Nat :=
  f.d.toNat * 2 ^ 18 + f.a.toNat * 2 ^ 12 + f.b.toNat * 2 ^ 6 + f.w.toNat
/-- The fields of format GQ in a word (R188, R193). -/
def ofGQ (w : Word) : GQ :=
  ⟨fld w 20 4, fld w 12 6, fld w 6 6, bit w 0⟩
/-- The bits of format GQ (R188, R193). -/
def bitsGQ (f : GQ) : Nat :=
  f.q.toNat * 2 ^ 20 + f.a.toNat * 2 ^ 12 + f.b.toNat * 2 ^ 6 + f.m.toNat
/-- The fields of format GT in a word (R188, R193). -/
def ofGT (w : Word) : GT :=
  ⟨fld w 20 4, fld w 12 6⟩
/-- The bits of format GT (R188, R193). -/
def bitsGT (f : GT) : Nat :=
  f.t.toNat * 2 ^ 20 + f.a.toNat * 2 ^ 12

/-! ## The opcode maps -/

/-- The lane-set opcode map (R194): the rows of each major, each with the fixed fields below the major. -/
def laneRows (maj : Nat) : List (List (Nat × Nat × Nat) × (Mod → Word → Instr)) :=
  if maj = 0x1 then [
    ([], fun m w => .fadd m (ofLR w))]
  else if maj = 0x2 then [
    ([], fun m w => .fsub m (ofLR w))]
  else if maj = 0x3 then [
    ([], fun m w => .fmul m (ofLR w))]
  else if maj = 0x4 then [
    ([], fun m w => .fma m (ofLR w))]
  else if maj = 0x5 then [
    ([], fun m w => .fnma m (ofLR w))]
  else if maj = 0x6 then [
    ([], fun m w => .fmin m (ofLR w))]
  else if maj = 0x7 then [
    ([], fun m w => .fmax m (ofLR w))]
  else if maj = 0x8 then [
    ([(1, 7, 0)], fun m w => .fmov m (ofLU w)),
    ([(1, 7, 1)], fun m w => .fabs m (ofLU w)),
    ([(1, 7, 2)], fun m w => .fneg m (ofLU w)),
    ([(1, 7, 3)], fun m w => .frint m (ofLU w)),
    ([(1, 7, 4)], fun m w => .ffloor m (ofLU w)),
    ([(1, 7, 5)], fun m w => .fceil m (ofLU w)),
    ([(1, 7, 6)], fun m w => .ftrunc m (ofLU w)),
    ([(1, 7, 7)], fun m w => .fclass m (ofLU w)),
    ([(1, 7, 8)], fun m w => .fsat m (ofLU w))]
  else if maj = 0x9 then [
    ([(22, 2, 0)], fun m w => .fcmpeq m (ofLC w)),
    ([(22, 2, 1)], fun m w => .fcmplt m (ofLC w)),
    ([(22, 2, 2)], fun m w => .fcmple m (ofLC w)),
    ([(22, 2, 3)], fun m w => .fcmpun m (ofLC w))]
  else if maj = 0xa then [
    ([(0, 2, 0)], fun m w => .faddG m (ofLGF w)),
    ([(0, 2, 1)], fun m w => .fmulG m (ofLGF w)),
    ([(0, 2, 2)], fun m w => .fmaG m (ofLGF w)),
    ([(0, 2, 3)], fun m w => .fsubG m (ofLGF w))]
  else if maj = 0xb then [
    ([(22, 2, 0)], fun m w => .fcvt m (ofLCvt w))]
  else if maj = 0xc then [
    ([(0, 2, 0)], fun m w => .qnt m (ofLQ w))]
  else if maj = 0xd then [
    ([(22, 2, 0)], fun m w => .sel m (ofR3 w))]
  else if maj = 0x10 then [
    ([(22, 2, 0)], fun m w => .iadd m (ofR3 w)),
    ([(22, 2, 1)], fun m w => .isub m (ofR3 w)),
    ([(22, 2, 2)], fun m w => .imul m (ofR3 w)),
    ([(22, 2, 3)], fun m w => .imad m (ofR3 w))]
  else if maj = 0x11 then [
    ([(22, 2, 0)], fun m w => .imulhs m (ofR3 w)),
    ([(22, 2, 1)], fun m w => .imulhu m (ofR3 w)),
    ([(22, 2, 2)], fun m w => .iabsd m (ofR3 w))]
  else if maj = 0x12 then [
    ([(22, 2, 0)], fun m w => .land m (ofR3 w)),
    ([(22, 2, 1)], fun m w => .lor m (ofR3 w)),
    ([(22, 2, 2)], fun m w => .lxor m (ofR3 w)),
    ([(22, 2, 3)], fun m w => .landn m (ofR3 w))]
  else if maj = 0x13 then [
    ([(22, 2, 0)], fun m w => .shl m (ofR3 w)),
    ([(22, 2, 1)], fun m w => .shr m (ofR3 w)),
    ([(22, 2, 2)], fun m w => .sar m (ofR3 w)),
    ([(22, 2, 3)], fun m w => .rotl m (ofR3 w))]
  else if maj = 0x14 then [
    ([(22, 2, 0)], fun m w => .imins m (ofR3 w)),
    ([(22, 2, 1)], fun m w => .imaxs m (ofR3 w)),
    ([(22, 2, 2)], fun m w => .iminu m (ofR3 w)),
    ([(22, 2, 3)], fun m w => .imaxu m (ofR3 w))]
  else if maj = 0x15 then [
    ([(1, 7, 0), (22, 2, 0)], fun m w => .imov m (ofR2 w)),
    ([(1, 7, 1), (22, 2, 0)], fun m w => .lnot m (ofR2 w)),
    ([(1, 7, 2), (22, 2, 0)], fun m w => .ineg m (ofR2 w)),
    ([(1, 7, 3), (22, 2, 0)], fun m w => .iabs m (ofR2 w)),
    ([(1, 7, 4), (22, 2, 0)], fun m w => .clz m (ofR2 w)),
    ([(1, 7, 5), (22, 2, 0)], fun m w => .popc m (ofR2 w)),
    ([(1, 7, 6), (22, 2, 0)], fun m w => .brev m (ofR2 w)),
    ([(1, 7, 7), (22, 2, 0)], fun m w => .sext8 m (ofR2 w)),
    ([(1, 7, 8), (22, 2, 0)], fun m w => .sext16 m (ofR2 w)),
    ([(1, 7, 9), (22, 2, 0)], fun m w => .zext8 m (ofR2 w)),
    ([(1, 7, 10), (22, 2, 0)], fun m w => .zext16 m (ofR2 w))]
  else if maj = 0x16 then [
    ([(22, 2, 0)], fun m w => .icmpeq m (ofLC w)),
    ([(22, 2, 1)], fun m w => .icmpne m (ofLC w)),
    ([(22, 2, 2)], fun m w => .icmplts m (ofLC w)),
    ([(22, 2, 3)], fun m w => .icmpltu m (ofLC w))]
  else if maj = 0x17 then [
    ([(22, 2, 0)], fun m w => .icmples m (ofLC w)),
    ([(22, 2, 1)], fun m w => .icmpleu m (ofLC w))]
  else if maj = 0x18 then [
    ([(0, 2, 0), (22, 2, 0)], fun m w => .iaddG m (ofLG w)),
    ([(0, 2, 1), (22, 2, 0)], fun m w => .isubG m (ofLG w)),
    ([(0, 2, 2), (22, 2, 0)], fun m w => .imulG m (ofLG w)),
    ([(0, 2, 3), (22, 2, 0)], fun m w => .imadG m (ofLG w)),
    ([(0, 2, 0), (22, 2, 1)], fun m w => .landG m (ofLG w)),
    ([(0, 2, 1), (22, 2, 1)], fun m w => .lorG m (ofLG w)),
    ([(0, 2, 2), (22, 2, 1)], fun m w => .lxorG m (ofLG w)),
    ([(0, 2, 3), (22, 2, 1)], fun m w => .shlG m (ofLG w)),
    ([(0, 2, 0), (22, 2, 2)], fun m w => .shrG m (ofLG w)),
    ([(0, 2, 1), (22, 2, 2)], fun m w => .sarG m (ofLG w)),
    ([(0, 2, 2), (22, 2, 2)], fun m w => .iminsG m (ofLG w)),
    ([(0, 2, 3), (22, 2, 2)], fun m w => .imaxsG m (ofLG w)),
    ([(0, 2, 0), (22, 2, 3)], fun m w => .iminuG m (ofLG w)),
    ([(0, 2, 1), (22, 2, 3)], fun m w => .imaxuG m (ofLG w))]
  else if maj = 0x19 then [
    ([(16, 1, 0)], fun m w => .movi m (ofLK w))]
  else if maj = 0x1a then [
    ([(16, 1, 0)], fun m w => .movhi m (ofLK w))]
  else if maj = 0x1b then [
    ([(0, 3, 0)], fun m w => .pand m (ofLP w)),
    ([(0, 3, 1)], fun m w => .por m (ofLP w)),
    ([(0, 3, 2)], fun m w => .pxor m (ofLP w)),
    ([(0, 3, 3)], fun m w => .pandn m (ofLP w)),
    ([(0, 10, 4)], fun m w => .pnot m (ofLP2 w)),
    ([(0, 10, 5)], fun m w => .pcopy m (ofLP2 w)),
    ([(0, 10, 6), (11, 6, 0)], fun m w => .pset m (fld w 17 7) (bit w 10))]
  else if maj = 0x1c then [
    ([(1, 7, 0), (22, 2, 0)], fun m w => .pmovV m (ofR2 w)),
    ([(1, 7, 1), (22, 2, 0)], fun m w => .pmovP m (ofR2 w))]
  else if maj = 0x1d then [
    ([(22, 2, 0)], fun m w => .jseed m (ofR3 w))]
  else if maj = 0x1e then [
    ([(1, 4, 0), (22, 2, 0)], fun m w => .jget m (ofLJk w)),
    ([(1, 4, 1), (22, 2, 0)], fun m w => .jset m (ofLJk w)),
    ([(1, 4, 2), (22, 2, 0)], fun m w => .jder m (ofLJk w)),
    ([(1, 7, 3), (22, 2, 0)], fun m w => .jdiff m (ofR2 w)),
    ([(1, 7, 4), (22, 2, 0)], fun m w => .jint m (ofR2 w)),
    ([(1, 4, 5), (22, 2, 0)], fun m w => .jtrunc m (ofLJk w))]
  else if maj = 0x20 then [
    ([], fun m w => .ld m (ofLM w))]
  else if maj = 0x21 then [
    ([], fun m w => .st m (ofLST w))]
  else if maj = 0x22 then [
    ([(0, 7, 0)], fun m w => .atom m (ofLAT w))]
  else if maj = 0x23 then [
    ([], fun m w => .sld m (ofLS w))]
  else if maj = 0x24 then [
    ([], fun m w => .sst m (ofLS w))]
  else if maj = 0x25 then [
    ([(0, 6, 0)], fun m w => .satom m (ofLSA w))]
  else if maj = 0x28 then [
    ([(23, 1, 0)], fun m w => .br m.b (fld w 16 7) (fld w 0 16)),
    ([(23, 1, 1)], fun m w => .brn m.b (fld w 16 7) (fld w 0 16))]
  else if maj = 0x29 then [
    ([], fun m w => .call m.b (fld w 0 24))]
  else if maj = 0x2a then [
    ([], fun m w => .jmp m.b (fld w 0 24))]
  else if maj = 0x2b then [
    ([(0, 24, 0)], fun m _ => .ret m.b),
    ([(1, 9, 0), (17, 7, 1)], fun m w => .bri m.b (fld w 10 7) (bit w 0)),
    ([(0, 4, 0), (10, 14, 256)], fun m w => .enrol m.b (fld w 4 6)),
    ([(0, 4, 0), (10, 14, 384)], fun m w => .rejoin m.b (fld w 4 6)),
    ([(0, 4, 0), (10, 14, 512)], fun m w => .barg m.b (fld w 4 6)),
    ([(0, 24, 655360)], fun m _ => .exit m.b),
    ([(4, 20, 49152)], fun m w => .trap m.b (fld w 0 4)),
    ([(0, 24, 917504)], fun m _ => .yield m.b),
    ([(0, 10, 0), (17, 7, 8)], fun m w => .lpop m.b (fld w 10 7)),
    ([(2, 2, 0), (7, 17, 9216)], fun m w => .fence m.b (fld w 4 3) (fld w 0 2)),
    ([(4, 20, 81920)], fun m w => .sleep m.b (fld w 0 4)),
    ([(0, 24, 1441792)], fun m _ => .nop m.b)]
  else if maj = 0x2c then [
    ([(20, 4, 0)], fun m w => .redaddF32 m.b (ofLXT w)),
    ([(20, 4, 1)], fun m w => .redaddI32 m.b (ofLXT w)),
    ([(20, 4, 2)], fun m w => .redminF32 m.b (ofLXT w)),
    ([(20, 4, 3)], fun m w => .redmaxF32 m.b (ofLXT w)),
    ([(20, 4, 4)], fun m w => .redminS32 m.b (ofLXT w)),
    ([(20, 4, 5)], fun m w => .redmaxS32 m.b (ofLXT w)),
    ([(20, 4, 6)], fun m w => .redand m.b (ofLXT w)),
    ([(20, 4, 7)], fun m w => .redor m.b (ofLXT w)),
    ([(20, 4, 8)], fun m w => .redxor m.b (ofLXT w)),
    ([(20, 4, 9)], fun m w => .scanaddF32 m.b (ofLXT w)),
    ([(20, 4, 10)], fun m w => .scanaddI32 m.b (ofLXT w)),
    ([(20, 4, 11)], fun m w => .xscanaddI32 m.b (ofLXT w)),
    ([(20, 4, 12)], fun m w => .bcast m.b (ofLXT w)),
    ([(20, 4, 13)], fun m w => .rank m.b (ofLXT w))]
  else if maj = 0x2d then [
    ([(0, 11, 0), (18, 6, 0)], fun m w => .frcp m (fld w 11 7)),
    ([(0, 11, 0), (18, 6, 1)], fun m w => .frsqrt m (fld w 11 7)),
    ([(0, 11, 0), (18, 6, 2)], fun m w => .fsqrt m (fld w 11 7)),
    ([(0, 4, 0), (18, 6, 3)], fun m w => .fdiv m (fld w 11 7) (fld w 4 7)),
    ([(0, 11, 0), (18, 6, 4)], fun m w => .fexp2 m (fld w 11 7)),
    ([(0, 11, 0), (18, 6, 5)], fun m w => .flog2 m (fld w 11 7)),
    ([(0, 11, 0), (18, 6, 6)], fun m w => .fexp m (fld w 11 7)),
    ([(0, 11, 0), (18, 6, 7)], fun m w => .fln m (fld w 11 7)),
    ([(0, 11, 0), (18, 6, 8)], fun m w => .fsin m (fld w 11 7)),
    ([(0, 11, 0), (18, 6, 9)], fun m w => .fcos m (fld w 11 7)),
    ([(0, 11, 0), (18, 6, 10)], fun m w => .ftanh m (fld w 11 7)),
    ([(0, 11, 0), (18, 6, 11)], fun m w => .fsigm m (fld w 11 7)),
    ([(0, 11, 0), (18, 6, 12)], fun m w => .ferf m (fld w 11 7)),
    ([(0, 4, 0), (18, 6, 13)], fun m w => .fpow m (fld w 11 7) (fld w 4 7))]
  else if maj = 0x2e then [
    ([(0, 1, 0)], fun m w => .mma m.b (ofLX w))]
  else if maj = 0x2f then [
    ([(23, 1, 0)], fun m w => .accrd m (ofLACC w)),
    ([(23, 1, 1)], fun m w => .accwr m (ofLACC w))]
  else []

/-- The uniform-set opcode map (R195). -/
def uniRows (maj : Nat) : List (List (Nat × Nat × Nat) × (Bool → Word → Instr)) :=
  if maj = 0x1 then [
    ([(0, 6, 0)], fun b w => .gadd b (ofGR w)),
    ([(0, 6, 1)], fun b w => .gsub b (ofGR w)),
    ([(0, 6, 2)], fun b w => .gmul b (ofGR w)),
    ([(0, 6, 3)], fun b w => .gmulhs b (ofGR w)),
    ([(0, 6, 4)], fun b w => .gmulhu b (ofGR w)),
    ([(0, 6, 5)], fun b w => .gand b (ofGR w)),
    ([(0, 6, 6)], fun b w => .gor b (ofGR w)),
    ([(0, 6, 7)], fun b w => .gxor b (ofGR w)),
    ([(0, 6, 8)], fun b w => .gandn b (ofGR w)),
    ([(0, 6, 9)], fun b w => .gshl b (ofGR w)),
    ([(0, 6, 10)], fun b w => .gshr b (ofGR w)),
    ([(0, 6, 11)], fun b w => .gsar b (ofGR w)),
    ([(0, 6, 12)], fun b w => .grotl b (ofGR w)),
    ([(0, 6, 13)], fun b w => .gmins b (ofGR w)),
    ([(0, 6, 14)], fun b w => .gmaxs b (ofGR w)),
    ([(0, 6, 15)], fun b w => .gminu b (ofGR w)),
    ([(0, 6, 16)], fun b w => .gmaxu b (ofGR w)),
    ([(0, 12, 17)], fun b w => .gpopc b (ofGR2 w)),
    ([(0, 12, 18)], fun b w => .gclz b (ofGR2 w)),
    ([(0, 12, 19)], fun b w => .gctz b (ofGR2 w)),
    ([(0, 12, 20)], fun b w => .gbrev b (ofGR2 w)),
    ([(0, 12, 21)], fun b w => .gnot b (ofGR2 w)),
    ([(0, 12, 22)], fun b w => .gneg b (ofGR2 w)),
    ([(0, 12, 23)], fun b w => .gmov b (ofGR2 w))]
  else if maj = 0x2 then [
    ([], fun b w => .gaddi b (ofGI w))]
  else if maj = 0x3 then [
    ([], fun b w => .gandi b (ofGI w))]
  else if maj = 0x4 then [
    ([], fun b w => .gori b (ofGI w))]
  else if maj = 0x5 then [
    ([], fun b w => .gxori b (ofGI w))]
  else if maj = 0x6 then [
    ([(6, 4, 0)], fun b w => .gshi b (ofGSh w))]
  else if maj = 0x7 then [
    ([], fun b w => .gmovk b (ofGK w))]
  else if maj = 0x8 then [
    ([], fun b w => .gmovz b (ofGK w))]
  else if maj = 0x9 then [
    ([(0, 6, 0)], fun b w => .gcmpeq b (ofGR w)),
    ([(0, 6, 1)], fun b w => .gcmpne b (ofGR w)),
    ([(0, 6, 2)], fun b w => .gcmplts b (ofGR w)),
    ([(0, 6, 3)], fun b w => .gcmpltu b (ofGR w)),
    ([(0, 6, 4)], fun b w => .gcmples b (ofGR w)),
    ([(0, 6, 5)], fun b w => .gcmpleu b (ofGR w))]
  else if maj = 0xa then [
    ([], fun b w => .gld b (ofGMK w))]
  else if maj = 0xb then [
    ([(20, 4, 0)], fun b w => .gst b (ofGM w))]
  else if maj = 0xc then [
    ([], fun b w => .gatom b (ofGAt w))]
  else if maj = 0xd then [
    ([(20, 4, 0)], fun b w => .gsld b (ofGM w))]
  else if maj = 0xe then [
    ([(20, 4, 0)], fun b w => .gsst b (ofGM w))]
  else if maj = 0x10 then [
    ([], fun b w => .gbrz b (ofGBC w))]
  else if maj = 0x11 then [
    ([], fun b w => .gbrnz b (ofGBC w))]
  else if maj = 0x12 then [
    ([], fun b w => .gjmp b (fld w 0 24))]
  else if maj = 0x14 then [
    ([(0, 6, 0), (12, 6, 0)], fun b w => .rdsr b (fld w 18 6) (fld w 6 6)),
    ([(0, 6, 1), (18, 6, 0)], fun b w => .wrsr b (fld w 12 6) (fld w 6 6)),
    ([(0, 6, 2), (12, 12, 0)], fun b w => .setjo b (fld w 6 6)),
    ([(0, 12, 3), (18, 6, 0)], fun b w => .jxfclr b (fld w 12 6)),
    ([(0, 6, 4), (12, 12, 0)], fun b w => .gtrap b (fld w 6 6)),
    ([(0, 24, 5)], fun b _ => .gexit b),
    ([(0, 24, 6)], fun b _ => .gyield b)]
  else if maj = 0x15 then [
    ([(0, 14, 0)], fun b w => .waitn b (fld w 22 2) (fld w 14 8))]
  else if maj = 0x16 then [
    ([(1, 5, 0)], fun b w => .bart b (ofGBar w))]
  else if maj = 0x17 then [
    ([(1, 5, 0)], fun b w => .bars b (ofGBar w))]
  else if maj = 0x18 then [
    ([(1, 5, 0), (18, 2, 0)], fun b w => .qpush b (ofGQ w))]
  else if maj = 0x19 then [
    ([(0, 12, 0)], fun b w => .qpop b (fld w 18 6) (fld w 12 6))]
  else if maj = 0x1a then [
    ([(0, 6, 0)], fun b w => .give b (ofGR w))]
  else if maj = 0x1b then [
    ([(0, 6, 0)], fun b w => .bmopAccept b (ofGR w)),
    ([(0, 12, 1)], fun b w => .bmopBwait b (ofGR2 w)),
    ([(0, 12, 2)], fun b w => .bmopRelease b (ofGR2 w)),
    ([(0, 6, 3)], fun b w => .bmopStash b (ofGR w)),
    ([(0, 6, 4)], fun b w => .bmopPhase b (ofGR w)),
    ([(0, 12, 5)], fun b w => .bmopQuery b (ofGR2 w))]
  else if maj = 0x1c then [
    ([(0, 6, 0)], fun b w => .syncwInit b (ofGR w)),
    ([(0, 6, 1)], fun b w => .syncwWait b (ofGR w)),
    ([(0, 6, 2)], fun b w => .syncwArrive b (ofGR w))]
  else if maj = 0x1d then [
    ([(0, 12, 0), (18, 2, 0)], fun b w => .tld b (ofGT w))]
  else if maj = 0x1e then [
    ([(0, 12, 0), (18, 2, 0)], fun b w => .tst b (ofGT w))]
  else if maj = 0x1f then [
    ([(0, 6, 0)], fun b w => .launch b (ofGR w))]
  else []

/-- Majors that take no prefix (R191). -/
def notPrefixable (maj : Nat) : Bool :=
  maj == 0x28 || maj == 0x29 || maj == 0x2A || maj == 0x2B || maj == 0x2C || maj == 0x2E

/-! ## Decoding -/

/-- Why words are no instruction of the maps (R187, R192, R196). -/
inductive Reject where
  /-- A major marked "none". -/
  | noMajor
  /-- A sub-code the map does not give, or a field that must be zero and is not. -/
  | subcode
  /-- A prefix with B = 1 (R190). -/
  | prefixB
  /-- A prefix before another prefix, a uniform word or a major that takes none (R192). -/
  | prefixPlace
  /-- The words end before the instruction does. -/
  | short
  deriving DecidableEq, Repr

/-- The instruction of a lane-set word with `m` beside it. -/
def decodeLane (m : Mod) (w : Word) : Except Reject Instr :=
  match laneRows (major w) with
  | [] => .error .noMajor
  | rs =>
    match rs.find? (fun r => fits w r.1) with
    | some r => .ok (r.2 m w)
    | none => .error .subcode

/-- The instruction of a uniform-set word. -/
def decodeUniform (w : Word) : Except Reject Instr :=
  match uniRows (major w) with
  | [] => .error .noMajor
  | rs =>
    match rs.find? (fun r => fits w r.1) with
    | some r => .ok (r.2 (bBit w) w)
    | none => .error .subcode

/-- The word is a prefix (R190). -/
def isPrefix (w : Word) : Bool := !isUniform w && major w == 0x3F

/-- The instruction at word `w`, followed by `w2` (R192). -/
def decodePair (w : Word) (w2 : Option Word) : Except Reject Instr :=
  if isUniform w then decodeUniform w
  else if isPrefix w then
    if bBit w then .error .prefixB
    else
      match w2 with
      | none => .error .short
      | some v =>
        if isUniform v || isPrefix v || notPrefixable (major v) then .error .prefixPlace
        else decodeLane ⟨bBit v, some (ofPfx w)⟩ v
  else decodeLane ⟨bBit w, none⟩ w

/-- The first word's instruction, and the words after it. -/
def decodeWords (ws : List Word) : Except Reject (Instr × List Word) :=
  match ws with
  | [] => .error .short
  | w :: t =>
    match decodePair w t.head? with
    | .ok i => .ok (i, if isPrefix w then t.tail else t)
    | .error e => .error e

/-- The word of four bytes, low byte first (R186). -/
def wordOfBytes (b0 b1 b2 b3 : Byte) : Word :=
  BitVec.ofNat 32 (b0.toNat + b1.toNat * 2 ^ 8 + b2.toNat * 2 ^ 16 + b3.toNat * 2 ^ 24)

/-- The bytes of a word, low byte first. -/
def bytesOfWord (w : Word) : List Byte := [fld w 0 8, fld w 8 8, fld w 16 8, fld w 24 8]

/-- Bytes read as words, low byte first. -/
def wordsOfBytes (bs : List Byte) : List Word :=
  match bs with
  | b0 :: b1 :: b2 :: b3 :: t => wordOfBytes b0 b1 b2 b3 :: wordsOfBytes t
  | _ => []

/-- The instruction that a sequence of bytes opens with. -/
def decode (bs : List Byte) : Except Reject (Instr × List Byte) :=
  match decodeWords (wordsOfBytes bs) with
  | .ok (i, ws) => .ok (i, bs.drop (bs.length - (4 * ws.length + bs.length % 4)))
  | .error e => .error e

/-- The first two words whose bits below `nbits` are those of `w`, every higher bit 0. -/
def tableWords (nbits w : Nat) : List Word :=
  [BitVec.ofNat 32 (w % 2 ^ nbits), BitVec.ofNat 32 (w % 2 ^ nbits / 2 ^ 32)]

/-- The instruction whose bits, numbered from the least significant bit of its first word, are `w`. -/
def decodeTableWord (nbits w : Nat) : Option Instr :=
  match decode ((tableWords nbits w).flatMap bytesOfWord) with
  | .ok (i, _) => some i
  | .error _ => none

/-! ## Encoding -/

/-- The prefix of an instruction, if it has one. -/
def prefixOf (i : Instr) : Option Pfx :=
  match i with
  | .fadd m _ => m.pfx
  | .fsub m _ => m.pfx
  | .fmul m _ => m.pfx
  | .fma m _ => m.pfx
  | .fnma m _ => m.pfx
  | .fmin m _ => m.pfx
  | .fmax m _ => m.pfx
  | .fmov m _ => m.pfx
  | .fabs m _ => m.pfx
  | .fneg m _ => m.pfx
  | .frint m _ => m.pfx
  | .ffloor m _ => m.pfx
  | .fceil m _ => m.pfx
  | .ftrunc m _ => m.pfx
  | .fclass m _ => m.pfx
  | .fsat m _ => m.pfx
  | .fcmpeq m _ => m.pfx
  | .fcmplt m _ => m.pfx
  | .fcmple m _ => m.pfx
  | .fcmpun m _ => m.pfx
  | .faddG m _ => m.pfx
  | .fmulG m _ => m.pfx
  | .fmaG m _ => m.pfx
  | .fsubG m _ => m.pfx
  | .fcvt m _ => m.pfx
  | .qnt m _ => m.pfx
  | .sel m _ => m.pfx
  | .iadd m _ => m.pfx
  | .isub m _ => m.pfx
  | .imul m _ => m.pfx
  | .imad m _ => m.pfx
  | .imulhs m _ => m.pfx
  | .imulhu m _ => m.pfx
  | .iabsd m _ => m.pfx
  | .land m _ => m.pfx
  | .lor m _ => m.pfx
  | .lxor m _ => m.pfx
  | .landn m _ => m.pfx
  | .shl m _ => m.pfx
  | .shr m _ => m.pfx
  | .sar m _ => m.pfx
  | .rotl m _ => m.pfx
  | .imins m _ => m.pfx
  | .imaxs m _ => m.pfx
  | .iminu m _ => m.pfx
  | .imaxu m _ => m.pfx
  | .imov m _ => m.pfx
  | .lnot m _ => m.pfx
  | .ineg m _ => m.pfx
  | .iabs m _ => m.pfx
  | .clz m _ => m.pfx
  | .popc m _ => m.pfx
  | .brev m _ => m.pfx
  | .sext8 m _ => m.pfx
  | .sext16 m _ => m.pfx
  | .zext8 m _ => m.pfx
  | .zext16 m _ => m.pfx
  | .icmpeq m _ => m.pfx
  | .icmpne m _ => m.pfx
  | .icmplts m _ => m.pfx
  | .icmpltu m _ => m.pfx
  | .icmples m _ => m.pfx
  | .icmpleu m _ => m.pfx
  | .iaddG m _ => m.pfx
  | .isubG m _ => m.pfx
  | .imulG m _ => m.pfx
  | .imadG m _ => m.pfx
  | .landG m _ => m.pfx
  | .lorG m _ => m.pfx
  | .lxorG m _ => m.pfx
  | .shlG m _ => m.pfx
  | .shrG m _ => m.pfx
  | .sarG m _ => m.pfx
  | .iminsG m _ => m.pfx
  | .imaxsG m _ => m.pfx
  | .iminuG m _ => m.pfx
  | .imaxuG m _ => m.pfx
  | .movi m _ => m.pfx
  | .movhi m _ => m.pfx
  | .pand m _ => m.pfx
  | .por m _ => m.pfx
  | .pxor m _ => m.pfx
  | .pandn m _ => m.pfx
  | .pnot m _ => m.pfx
  | .pcopy m _ => m.pfx
  | .pset m _ _ => m.pfx
  | .pmovV m _ => m.pfx
  | .pmovP m _ => m.pfx
  | .jseed m _ => m.pfx
  | .jget m _ => m.pfx
  | .jset m _ => m.pfx
  | .jder m _ => m.pfx
  | .jdiff m _ => m.pfx
  | .jint m _ => m.pfx
  | .jtrunc m _ => m.pfx
  | .ld m _ => m.pfx
  | .st m _ => m.pfx
  | .atom m _ => m.pfx
  | .sld m _ => m.pfx
  | .sst m _ => m.pfx
  | .satom m _ => m.pfx
  | .br _ _ _ => none
  | .brn _ _ _ => none
  | .call _ _ => none
  | .jmp _ _ => none
  | .ret _ => none
  | .bri _ _ _ => none
  | .enrol _ _ => none
  | .rejoin _ _ => none
  | .barg _ _ => none
  | .exit _ => none
  | .trap _ _ => none
  | .yield _ => none
  | .lpop _ _ => none
  | .fence _ _ _ => none
  | .sleep _ _ => none
  | .nop _ => none
  | .redaddF32 _ _ => none
  | .redaddI32 _ _ => none
  | .redminF32 _ _ => none
  | .redmaxF32 _ _ => none
  | .redminS32 _ _ => none
  | .redmaxS32 _ _ => none
  | .redand _ _ => none
  | .redor _ _ => none
  | .redxor _ _ => none
  | .scanaddF32 _ _ => none
  | .scanaddI32 _ _ => none
  | .xscanaddI32 _ _ => none
  | .bcast _ _ => none
  | .rank _ _ => none
  | .frcp m _ => m.pfx
  | .frsqrt m _ => m.pfx
  | .fsqrt m _ => m.pfx
  | .fdiv m _ _ => m.pfx
  | .fexp2 m _ => m.pfx
  | .flog2 m _ => m.pfx
  | .fexp m _ => m.pfx
  | .fln m _ => m.pfx
  | .fsin m _ => m.pfx
  | .fcos m _ => m.pfx
  | .ftanh m _ => m.pfx
  | .fsigm m _ => m.pfx
  | .ferf m _ => m.pfx
  | .fpow m _ _ => m.pfx
  | .mma _ _ => none
  | .accrd m _ => m.pfx
  | .accwr m _ => m.pfx
  | .gadd _ _ => none
  | .gsub _ _ => none
  | .gmul _ _ => none
  | .gmulhs _ _ => none
  | .gmulhu _ _ => none
  | .gand _ _ => none
  | .gor _ _ => none
  | .gxor _ _ => none
  | .gandn _ _ => none
  | .gshl _ _ => none
  | .gshr _ _ => none
  | .gsar _ _ => none
  | .grotl _ _ => none
  | .gmins _ _ => none
  | .gmaxs _ _ => none
  | .gminu _ _ => none
  | .gmaxu _ _ => none
  | .gpopc _ _ => none
  | .gclz _ _ => none
  | .gctz _ _ => none
  | .gbrev _ _ => none
  | .gnot _ _ => none
  | .gneg _ _ => none
  | .gmov _ _ => none
  | .gaddi _ _ => none
  | .gandi _ _ => none
  | .gori _ _ => none
  | .gxori _ _ => none
  | .gshi _ _ => none
  | .gmovk _ _ => none
  | .gmovz _ _ => none
  | .gcmpeq _ _ => none
  | .gcmpne _ _ => none
  | .gcmplts _ _ => none
  | .gcmpltu _ _ => none
  | .gcmples _ _ => none
  | .gcmpleu _ _ => none
  | .gld _ _ => none
  | .gst _ _ => none
  | .gatom _ _ => none
  | .gsld _ _ => none
  | .gsst _ _ => none
  | .gbrz _ _ => none
  | .gbrnz _ _ => none
  | .gjmp _ _ => none
  | .rdsr _ _ _ => none
  | .wrsr _ _ _ => none
  | .setjo _ _ => none
  | .jxfclr _ _ => none
  | .gtrap _ _ => none
  | .gexit _ => none
  | .gyield _ => none
  | .waitn _ _ _ => none
  | .bart _ _ => none
  | .bars _ _ => none
  | .qpush _ _ => none
  | .qpop _ _ _ => none
  | .give _ _ => none
  | .bmopAccept _ _ => none
  | .bmopBwait _ _ => none
  | .bmopRelease _ _ => none
  | .bmopStash _ _ => none
  | .bmopPhase _ _ => none
  | .bmopQuery _ _ => none
  | .syncwInit _ _ => none
  | .syncwWait _ _ => none
  | .syncwArrive _ _ => none
  | .tld _ _ => none
  | .tst _ _ => none
  | .launch _ _ => none
  | .runStart _ => none
  | .icacheFill _ _ => none
  | .boundStallExpiry _ _ => none
  | .registerCacheFill _ _ => none
  | .laneStoreFill _ _ => none
  | .verdictArrival _ _ => none
  | .loadDataArrival _ _ _ _ => none
  | .storeReply _ _ => none
  | .atomicResultArrival _ _ _ _ => none
  | .releaseConditionsMet _ => none
  | .acquireWaitEnd _ => none
  | .retryReissue _ => none
  | .sliceRequest _ => none
  | .sliceRenewal _ _ => none
  | .homeRequest _ _ => none
  | .homeReadShared _ _ => none
  | .homeReadExclusive _ _ => none
  | .homeUpgrade _ _ => none
  | .homeDirectRequest _ _ => none
  | .invalidation _ _ _ => none
  | .invalidationAck _ _ _ _ => none
  | .forwardedSnoop _ _ _ _ => none
  | .snoopResponse _ _ _ _ => none
  | .writeBack _ _ _ _ => none
  | .writeBackAck _ _ => none
  | .cleanDropNotice _ _ _ _ => none
  | .ownershipGrant _ _ => none
  | .remoteLeaseGrant _ _ => none
  | .recallDrop _ _ => none
  | .stashFill _ _ => none
  | .stashUpgradeGrant _ _ => none
  | .stashSnoop _ _ _ _ _ => none
  | .bankWriteRetire _ => none
  | .bankZeroDone _ _ => none
  | .giveDrainDone _ _ => none
  | .sleepExpiry _ => none
  | .sfxResultArrival _ _ _ => none
  | .mmaOctetDone _ _ _ => none
  | .mmaComplete _ _ => none
  | .qmxArmMark _ _ _ _ => none
  | .qmxReportFlags _ _ => none
  | .markPost _ _ _ => none
  | .copyPlain _ => none
  | .copyStrided _ => none
  | .copyTaggedPack _ => none
  | .copyTaggedUnpack _ => none
  | .copyStripDrain _ => none
  | .gather _ => none
  | .reduceScatter _ => none
  | .allGather _ => none
  | .allReduce _ => none
  | .collectiveMatch _ _ _ => none
  | .copyWriteRetire _ => none
  | .engineCommandComplete _ => none
  | .tableUpdateDistribution _ => none
  | .tableUpdateSetList _ => none
  | .tableUpdateAperture _ => none
  | .tableUpdateDone => none
  | .regionCloseRecallDone _ => none
  | .install _ _ => none
  | .remove _ _ => none
  | .move _ _ => none
  | .recallPage _ _ => none
  | .homeRecallDone _ => none
  | .moveDrainDone _ => none
  | .moveCopyDone _ => none
  | .faultRecordWrite _ => none
  | .faultQueueCoalesce _ => none
  | .fqbaseWrite _ _ => none
  | .fqheadWrite _ _ => none
  | .replay _ _ => none
  | .cancel _ _ => none
  | .hostCxlMemRead _ _ _ => none
  | .hostCxlMemWrite _ _ _ _ => none
  | .hostStoreCompletion _ _ => none
  | .hostOwnershipRequest _ _ => none
  | .hostOwnershipGrant _ _ => none
  | .hostSnoop _ _ => none
  | .hostBiResponse _ _ _ => none
  | .launchQueueEnable _ _ _ => none
  | .lqwpWrite _ _ _ => none
  | .recordTake _ _ => none
  | .waitConditionPoll _ _ => none
  | .teamDispatch _ => none
  | .clusterSetDispatch _ => none
  | .dispatchPriorityBlock _ => none
  | .teamEnd _ => none
  | .gridComplete _ => none
  | .gridStallEvict _ => none
  | .gridStallFault _ => none
  | .softPreempt _ _ => none
  | .halt _ _ => none
  | .kill _ _ => none
  | .resume _ _ => none
  | .graceExpiry _ => none
  | .killTimerExpiry _ => none
  | .teamDeparted _ => none
  | .layoutCommit => none
  | .layoutFlip => none
  | .partitionReset _ => none
  | .partitionResetDone _ => none
  | .bezelRestart => none
  | .budgetRefill => none
  | .energyCharge => none
  | .exportBlob _ _ => none
  | .migrationRelease _ => none
  | .importBlob _ _ => none
  | .confirm _ => none
  | .fabricFlitReceive _ _ => none
  | .fabricNak _ => none
  | .portDown _ => none
  | .fabricKeyUpdate _ => none
  | .podTimeFlit _ => none
  | .podTimeLoss => none
  | .postSend _ _ _ _ _ => none
  | .postReceive _ _ _ _ => none
  | .rdmaSendArrival _ _ _ _ _ => none
  | .rdmaRequestArrival _ _ _ => none
  | .rnrNak _ _ _ => none
  | .bezelBoot _ => none
  | .fullReset => none
  | .provision => none
  | .serviceToken _ => none
  | .confidentialModeRequest _ => none
  | .setSharedRange _ _ _ => none
  | .getVersion _ => none
  | .getCapabilities _ => none
  | .negotiateAlgorithms _ => none
  | .getDigests _ => none
  | .getCertificate _ => none
  | .challenge _ _ => none
  | .getMeasurements _ _ => none
  | .keyExchange _ _ _ => none
  | .finish _ _ _ => none
  | .keyUpdate _ _ => none
  | .endSession _ _ => none
  | .patrolScrub _ => none
  | .poisonConsumed _ => none
  | .fatalError _ => none
  | .registerWrite _ _ _ _ => none
  | .illegalWord _ _ => none
  | .unitPowerGate _ => none
  | .unitPowerWake _ => none
  | .portRetrainDone _ _ => none
  | .ucieFlitReceive _ _ => none
  | .transportAckArrival _ _ _ _ => none
  | .hostLinkTraining _ _ => none

/-- The word of an instruction, its prefix apart; an event has none. -/
def wordOf (i : Instr) : Option Word :=
  match i with
  | .fadd m f => some (mkWord false m.b 0x1 (bitsLR f))
  | .fsub m f => some (mkWord false m.b 0x2 (bitsLR f))
  | .fmul m f => some (mkWord false m.b 0x3 (bitsLR f))
  | .fma m f => some (mkWord false m.b 0x4 (bitsLR f))
  | .fnma m f => some (mkWord false m.b 0x5 (bitsLR f))
  | .fmin m f => some (mkWord false m.b 0x6 (bitsLR f))
  | .fmax m f => some (mkWord false m.b 0x7 (bitsLR f))
  | .fmov m f => some (mkWord false m.b 0x8 (bitsLU f))
  | .fabs m f => some (mkWord false m.b 0x8 (bitsLU f + 0x2))
  | .fneg m f => some (mkWord false m.b 0x8 (bitsLU f + 0x4))
  | .frint m f => some (mkWord false m.b 0x8 (bitsLU f + 0x6))
  | .ffloor m f => some (mkWord false m.b 0x8 (bitsLU f + 0x8))
  | .fceil m f => some (mkWord false m.b 0x8 (bitsLU f + 0xa))
  | .ftrunc m f => some (mkWord false m.b 0x8 (bitsLU f + 0xc))
  | .fclass m f => some (mkWord false m.b 0x8 (bitsLU f + 0xe))
  | .fsat m f => some (mkWord false m.b 0x8 (bitsLU f + 0x10))
  | .fcmpeq m f => some (mkWord false m.b 0x9 (bitsLC f))
  | .fcmplt m f => some (mkWord false m.b 0x9 (bitsLC f + 0x400000))
  | .fcmple m f => some (mkWord false m.b 0x9 (bitsLC f + 0x800000))
  | .fcmpun m f => some (mkWord false m.b 0x9 (bitsLC f + 0xc00000))
  | .faddG m f => some (mkWord false m.b 0xa (bitsLGF f))
  | .fmulG m f => some (mkWord false m.b 0xa (bitsLGF f + 0x1))
  | .fmaG m f => some (mkWord false m.b 0xa (bitsLGF f + 0x2))
  | .fsubG m f => some (mkWord false m.b 0xa (bitsLGF f + 0x3))
  | .fcvt m f => some (mkWord false m.b 0xb (bitsLCvt f))
  | .qnt m f => some (mkWord false m.b 0xc (bitsLQ f))
  | .sel m f => some (mkWord false m.b 0xd (bitsR3 f))
  | .iadd m f => some (mkWord false m.b 0x10 (bitsR3 f))
  | .isub m f => some (mkWord false m.b 0x10 (bitsR3 f + 0x400000))
  | .imul m f => some (mkWord false m.b 0x10 (bitsR3 f + 0x800000))
  | .imad m f => some (mkWord false m.b 0x10 (bitsR3 f + 0xc00000))
  | .imulhs m f => some (mkWord false m.b 0x11 (bitsR3 f))
  | .imulhu m f => some (mkWord false m.b 0x11 (bitsR3 f + 0x400000))
  | .iabsd m f => some (mkWord false m.b 0x11 (bitsR3 f + 0x800000))
  | .land m f => some (mkWord false m.b 0x12 (bitsR3 f))
  | .lor m f => some (mkWord false m.b 0x12 (bitsR3 f + 0x400000))
  | .lxor m f => some (mkWord false m.b 0x12 (bitsR3 f + 0x800000))
  | .landn m f => some (mkWord false m.b 0x12 (bitsR3 f + 0xc00000))
  | .shl m f => some (mkWord false m.b 0x13 (bitsR3 f))
  | .shr m f => some (mkWord false m.b 0x13 (bitsR3 f + 0x400000))
  | .sar m f => some (mkWord false m.b 0x13 (bitsR3 f + 0x800000))
  | .rotl m f => some (mkWord false m.b 0x13 (bitsR3 f + 0xc00000))
  | .imins m f => some (mkWord false m.b 0x14 (bitsR3 f))
  | .imaxs m f => some (mkWord false m.b 0x14 (bitsR3 f + 0x400000))
  | .iminu m f => some (mkWord false m.b 0x14 (bitsR3 f + 0x800000))
  | .imaxu m f => some (mkWord false m.b 0x14 (bitsR3 f + 0xc00000))
  | .imov m f => some (mkWord false m.b 0x15 (bitsR2 f))
  | .lnot m f => some (mkWord false m.b 0x15 (bitsR2 f + 0x2))
  | .ineg m f => some (mkWord false m.b 0x15 (bitsR2 f + 0x4))
  | .iabs m f => some (mkWord false m.b 0x15 (bitsR2 f + 0x6))
  | .clz m f => some (mkWord false m.b 0x15 (bitsR2 f + 0x8))
  | .popc m f => some (mkWord false m.b 0x15 (bitsR2 f + 0xa))
  | .brev m f => some (mkWord false m.b 0x15 (bitsR2 f + 0xc))
  | .sext8 m f => some (mkWord false m.b 0x15 (bitsR2 f + 0xe))
  | .sext16 m f => some (mkWord false m.b 0x15 (bitsR2 f + 0x10))
  | .zext8 m f => some (mkWord false m.b 0x15 (bitsR2 f + 0x12))
  | .zext16 m f => some (mkWord false m.b 0x15 (bitsR2 f + 0x14))
  | .icmpeq m f => some (mkWord false m.b 0x16 (bitsLC f))
  | .icmpne m f => some (mkWord false m.b 0x16 (bitsLC f + 0x400000))
  | .icmplts m f => some (mkWord false m.b 0x16 (bitsLC f + 0x800000))
  | .icmpltu m f => some (mkWord false m.b 0x16 (bitsLC f + 0xc00000))
  | .icmples m f => some (mkWord false m.b 0x17 (bitsLC f))
  | .icmpleu m f => some (mkWord false m.b 0x17 (bitsLC f + 0x400000))
  | .iaddG m f => some (mkWord false m.b 0x18 (bitsLG f))
  | .isubG m f => some (mkWord false m.b 0x18 (bitsLG f + 0x1))
  | .imulG m f => some (mkWord false m.b 0x18 (bitsLG f + 0x2))
  | .imadG m f => some (mkWord false m.b 0x18 (bitsLG f + 0x3))
  | .landG m f => some (mkWord false m.b 0x18 (bitsLG f + 0x400000))
  | .lorG m f => some (mkWord false m.b 0x18 (bitsLG f + 0x400001))
  | .lxorG m f => some (mkWord false m.b 0x18 (bitsLG f + 0x400002))
  | .shlG m f => some (mkWord false m.b 0x18 (bitsLG f + 0x400003))
  | .shrG m f => some (mkWord false m.b 0x18 (bitsLG f + 0x800000))
  | .sarG m f => some (mkWord false m.b 0x18 (bitsLG f + 0x800001))
  | .iminsG m f => some (mkWord false m.b 0x18 (bitsLG f + 0x800002))
  | .imaxsG m f => some (mkWord false m.b 0x18 (bitsLG f + 0x800003))
  | .iminuG m f => some (mkWord false m.b 0x18 (bitsLG f + 0xc00000))
  | .imaxuG m f => some (mkWord false m.b 0x18 (bitsLG f + 0xc00001))
  | .movi m f => some (mkWord false m.b 0x19 (bitsLK f))
  | .movhi m f => some (mkWord false m.b 0x1a (bitsLK f))
  | .pand m f => some (mkWord false m.b 0x1b (bitsLP f))
  | .por m f => some (mkWord false m.b 0x1b (bitsLP f + 0x1))
  | .pxor m f => some (mkWord false m.b 0x1b (bitsLP f + 0x2))
  | .pandn m f => some (mkWord false m.b 0x1b (bitsLP f + 0x3))
  | .pnot m f => some (mkWord false m.b 0x1b (bitsLP2 f + 0x4))
  | .pcopy m f => some (mkWord false m.b 0x1b (bitsLP2 f + 0x5))
  | .pset m d b => some (mkWord false m.b 0x1b (d.toNat * 2 ^ 17 + b.toNat * 2 ^ 10 + 0x6))
  | .pmovV m f => some (mkWord false m.b 0x1c (bitsR2 f))
  | .pmovP m f => some (mkWord false m.b 0x1c (bitsR2 f + 0x2))
  | .jseed m f => some (mkWord false m.b 0x1d (bitsR3 f))
  | .jget m f => some (mkWord false m.b 0x1e (bitsLJk f))
  | .jset m f => some (mkWord false m.b 0x1e (bitsLJk f + 0x2))
  | .jder m f => some (mkWord false m.b 0x1e (bitsLJk f + 0x4))
  | .jdiff m f => some (mkWord false m.b 0x1e (bitsR2 f + 0x6))
  | .jint m f => some (mkWord false m.b 0x1e (bitsR2 f + 0x8))
  | .jtrunc m f => some (mkWord false m.b 0x1e (bitsLJk f + 0xa))
  | .ld m f => some (mkWord false m.b 0x20 (bitsLM f))
  | .st m f => some (mkWord false m.b 0x21 (bitsLST f))
  | .atom m f => some (mkWord false m.b 0x22 (bitsLAT f))
  | .sld m f => some (mkWord false m.b 0x23 (bitsLS f))
  | .sst m f => some (mkWord false m.b 0x24 (bitsLS f))
  | .satom m f => some (mkWord false m.b 0x25 (bitsLSA f))
  | .br e p o => some (mkWord false e 0x28 (p.toNat * 2 ^ 16 + o.toNat))
  | .brn e p o => some (mkWord false e 0x28 (p.toNat * 2 ^ 16 + o.toNat + 0x800000))
  | .call e o => some (mkWord false e 0x29 (o.toNat))
  | .jmp e o => some (mkWord false e 0x2a (o.toNat))
  | .ret e => some (mkWord false e 0x2b (0x0))
  | .bri e a l => some (mkWord false e 0x2b (a.toNat * 2 ^ 10 + l.toNat + 0x20000))
  | .enrol e g => some (mkWord false e 0x2b (g.toNat * 2 ^ 4 + 0x40000))
  | .rejoin e g => some (mkWord false e 0x2b (g.toNat * 2 ^ 4 + 0x60000))
  | .barg e g => some (mkWord false e 0x2b (g.toNat * 2 ^ 4 + 0x80000))
  | .exit e => some (mkWord false e 0x2b (0xa0000))
  | .trap e c => some (mkWord false e 0x2b (c.toNat + 0xc0000))
  | .yield e => some (mkWord false e 0x2b (0xe0000))
  | .lpop e a => some (mkWord false e 0x2b (a.toNat * 2 ^ 10 + 0x100000))
  | .fence e s o => some (mkWord false e 0x2b (s.toNat * 2 ^ 4 + o.toNat + 0x120000))
  | .sleep e c => some (mkWord false e 0x2b (c.toNat + 0x140000))
  | .nop e => some (mkWord false e 0x2b (0x160000))
  | .redaddF32 e f => some (mkWord false e 0x2c (bitsLXT f))
  | .redaddI32 e f => some (mkWord false e 0x2c (bitsLXT f + 0x100000))
  | .redminF32 e f => some (mkWord false e 0x2c (bitsLXT f + 0x200000))
  | .redmaxF32 e f => some (mkWord false e 0x2c (bitsLXT f + 0x300000))
  | .redminS32 e f => some (mkWord false e 0x2c (bitsLXT f + 0x400000))
  | .redmaxS32 e f => some (mkWord false e 0x2c (bitsLXT f + 0x500000))
  | .redand e f => some (mkWord false e 0x2c (bitsLXT f + 0x600000))
  | .redor e f => some (mkWord false e 0x2c (bitsLXT f + 0x700000))
  | .redxor e f => some (mkWord false e 0x2c (bitsLXT f + 0x800000))
  | .scanaddF32 e f => some (mkWord false e 0x2c (bitsLXT f + 0x900000))
  | .scanaddI32 e f => some (mkWord false e 0x2c (bitsLXT f + 0xa00000))
  | .xscanaddI32 e f => some (mkWord false e 0x2c (bitsLXT f + 0xb00000))
  | .bcast e f => some (mkWord false e 0x2c (bitsLXT f + 0xc00000))
  | .rank e f => some (mkWord false e 0x2c (bitsLXT f + 0xd00000))
  | .frcp m a => some (mkWord false m.b 0x2d (a.toNat * 2 ^ 11))
  | .frsqrt m a => some (mkWord false m.b 0x2d (a.toNat * 2 ^ 11 + 0x40000))
  | .fsqrt m a => some (mkWord false m.b 0x2d (a.toNat * 2 ^ 11 + 0x80000))
  | .fdiv m a b => some (mkWord false m.b 0x2d (a.toNat * 2 ^ 11 + b.toNat * 2 ^ 4 + 0xc0000))
  | .fexp2 m a => some (mkWord false m.b 0x2d (a.toNat * 2 ^ 11 + 0x100000))
  | .flog2 m a => some (mkWord false m.b 0x2d (a.toNat * 2 ^ 11 + 0x140000))
  | .fexp m a => some (mkWord false m.b 0x2d (a.toNat * 2 ^ 11 + 0x180000))
  | .fln m a => some (mkWord false m.b 0x2d (a.toNat * 2 ^ 11 + 0x1c0000))
  | .fsin m a => some (mkWord false m.b 0x2d (a.toNat * 2 ^ 11 + 0x200000))
  | .fcos m a => some (mkWord false m.b 0x2d (a.toNat * 2 ^ 11 + 0x240000))
  | .ftanh m a => some (mkWord false m.b 0x2d (a.toNat * 2 ^ 11 + 0x280000))
  | .fsigm m a => some (mkWord false m.b 0x2d (a.toNat * 2 ^ 11 + 0x2c0000))
  | .ferf m a => some (mkWord false m.b 0x2d (a.toNat * 2 ^ 11 + 0x300000))
  | .fpow m a b => some (mkWord false m.b 0x2d (a.toNat * 2 ^ 11 + b.toNat * 2 ^ 4 + 0x340000))
  | .mma e f => some (mkWord false e 0x2e (bitsLX f))
  | .accrd m f => some (mkWord false m.b 0x2f (bitsLACC f))
  | .accwr m f => some (mkWord false m.b 0x2f (bitsLACC f + 0x800000))
  | .gadd e f => some (mkWord true e 0x1 (bitsGR f))
  | .gsub e f => some (mkWord true e 0x1 (bitsGR f + 0x1))
  | .gmul e f => some (mkWord true e 0x1 (bitsGR f + 0x2))
  | .gmulhs e f => some (mkWord true e 0x1 (bitsGR f + 0x3))
  | .gmulhu e f => some (mkWord true e 0x1 (bitsGR f + 0x4))
  | .gand e f => some (mkWord true e 0x1 (bitsGR f + 0x5))
  | .gor e f => some (mkWord true e 0x1 (bitsGR f + 0x6))
  | .gxor e f => some (mkWord true e 0x1 (bitsGR f + 0x7))
  | .gandn e f => some (mkWord true e 0x1 (bitsGR f + 0x8))
  | .gshl e f => some (mkWord true e 0x1 (bitsGR f + 0x9))
  | .gshr e f => some (mkWord true e 0x1 (bitsGR f + 0xa))
  | .gsar e f => some (mkWord true e 0x1 (bitsGR f + 0xb))
  | .grotl e f => some (mkWord true e 0x1 (bitsGR f + 0xc))
  | .gmins e f => some (mkWord true e 0x1 (bitsGR f + 0xd))
  | .gmaxs e f => some (mkWord true e 0x1 (bitsGR f + 0xe))
  | .gminu e f => some (mkWord true e 0x1 (bitsGR f + 0xf))
  | .gmaxu e f => some (mkWord true e 0x1 (bitsGR f + 0x10))
  | .gpopc e f => some (mkWord true e 0x1 (bitsGR2 f + 0x11))
  | .gclz e f => some (mkWord true e 0x1 (bitsGR2 f + 0x12))
  | .gctz e f => some (mkWord true e 0x1 (bitsGR2 f + 0x13))
  | .gbrev e f => some (mkWord true e 0x1 (bitsGR2 f + 0x14))
  | .gnot e f => some (mkWord true e 0x1 (bitsGR2 f + 0x15))
  | .gneg e f => some (mkWord true e 0x1 (bitsGR2 f + 0x16))
  | .gmov e f => some (mkWord true e 0x1 (bitsGR2 f + 0x17))
  | .gaddi e f => some (mkWord true e 0x2 (bitsGI f))
  | .gandi e f => some (mkWord true e 0x3 (bitsGI f))
  | .gori e f => some (mkWord true e 0x4 (bitsGI f))
  | .gxori e f => some (mkWord true e 0x5 (bitsGI f))
  | .gshi e f => some (mkWord true e 0x6 (bitsGSh f))
  | .gmovk e f => some (mkWord true e 0x7 (bitsGK f))
  | .gmovz e f => some (mkWord true e 0x8 (bitsGK f))
  | .gcmpeq e f => some (mkWord true e 0x9 (bitsGR f))
  | .gcmpne e f => some (mkWord true e 0x9 (bitsGR f + 0x1))
  | .gcmplts e f => some (mkWord true e 0x9 (bitsGR f + 0x2))
  | .gcmpltu e f => some (mkWord true e 0x9 (bitsGR f + 0x3))
  | .gcmples e f => some (mkWord true e 0x9 (bitsGR f + 0x4))
  | .gcmpleu e f => some (mkWord true e 0x9 (bitsGR f + 0x5))
  | .gld e f => some (mkWord true e 0xa (bitsGMK f))
  | .gst e f => some (mkWord true e 0xb (bitsGM f))
  | .gatom e f => some (mkWord true e 0xc (bitsGAt f))
  | .gsld e f => some (mkWord true e 0xd (bitsGM f))
  | .gsst e f => some (mkWord true e 0xe (bitsGM f))
  | .gbrz e f => some (mkWord true e 0x10 (bitsGBC f))
  | .gbrnz e f => some (mkWord true e 0x11 (bitsGBC f))
  | .gjmp e o => some (mkWord true e 0x12 (o.toNat))
  | .rdsr e d r => some (mkWord true e 0x14 (d.toNat * 2 ^ 18 + r.toNat * 2 ^ 6))
  | .wrsr e a r => some (mkWord true e 0x14 (a.toNat * 2 ^ 12 + r.toNat * 2 ^ 6 + 0x1))
  | .setjo e n => some (mkWord true e 0x14 (n.toNat * 2 ^ 6 + 0x2))
  | .jxfclr e a => some (mkWord true e 0x14 (a.toNat * 2 ^ 12 + 0x3))
  | .gtrap e c => some (mkWord true e 0x14 (c.toNat * 2 ^ 6 + 0x4))
  | .gexit e => some (mkWord true e 0x14 (0x5))
  | .gyield e => some (mkWord true e 0x14 (0x6))
  | .waitn e c n => some (mkWord true e 0x15 (c.toNat * 2 ^ 22 + n.toNat * 2 ^ 14))
  | .bart e f => some (mkWord true e 0x16 (bitsGBar f))
  | .bars e f => some (mkWord true e 0x17 (bitsGBar f))
  | .qpush e f => some (mkWord true e 0x18 (bitsGQ f))
  | .qpop e d q => some (mkWord true e 0x19 (d.toNat * 2 ^ 18 + q.toNat * 2 ^ 12))
  | .give e f => some (mkWord true e 0x1a (bitsGR f))
  | .bmopAccept e f => some (mkWord true e 0x1b (bitsGR f))
  | .bmopBwait e f => some (mkWord true e 0x1b (bitsGR2 f + 0x1))
  | .bmopRelease e f => some (mkWord true e 0x1b (bitsGR2 f + 0x2))
  | .bmopStash e f => some (mkWord true e 0x1b (bitsGR f + 0x3))
  | .bmopPhase e f => some (mkWord true e 0x1b (bitsGR f + 0x4))
  | .bmopQuery e f => some (mkWord true e 0x1b (bitsGR2 f + 0x5))
  | .syncwInit e f => some (mkWord true e 0x1c (bitsGR f))
  | .syncwWait e f => some (mkWord true e 0x1c (bitsGR f + 0x1))
  | .syncwArrive e f => some (mkWord true e 0x1c (bitsGR f + 0x2))
  | .tld e f => some (mkWord true e 0x1d (bitsGT f))
  | .tst e f => some (mkWord true e 0x1e (bitsGT f))
  | .launch e f => some (mkWord true e 0x1f (bitsGR f))
  | .runStart _ => none
  | .icacheFill _ _ => none
  | .boundStallExpiry _ _ => none
  | .registerCacheFill _ _ => none
  | .laneStoreFill _ _ => none
  | .verdictArrival _ _ => none
  | .loadDataArrival _ _ _ _ => none
  | .storeReply _ _ => none
  | .atomicResultArrival _ _ _ _ => none
  | .releaseConditionsMet _ => none
  | .acquireWaitEnd _ => none
  | .retryReissue _ => none
  | .sliceRequest _ => none
  | .sliceRenewal _ _ => none
  | .homeRequest _ _ => none
  | .homeReadShared _ _ => none
  | .homeReadExclusive _ _ => none
  | .homeUpgrade _ _ => none
  | .homeDirectRequest _ _ => none
  | .invalidation _ _ _ => none
  | .invalidationAck _ _ _ _ => none
  | .forwardedSnoop _ _ _ _ => none
  | .snoopResponse _ _ _ _ => none
  | .writeBack _ _ _ _ => none
  | .writeBackAck _ _ => none
  | .cleanDropNotice _ _ _ _ => none
  | .ownershipGrant _ _ => none
  | .remoteLeaseGrant _ _ => none
  | .recallDrop _ _ => none
  | .stashFill _ _ => none
  | .stashUpgradeGrant _ _ => none
  | .stashSnoop _ _ _ _ _ => none
  | .bankWriteRetire _ => none
  | .bankZeroDone _ _ => none
  | .giveDrainDone _ _ => none
  | .sleepExpiry _ => none
  | .sfxResultArrival _ _ _ => none
  | .mmaOctetDone _ _ _ => none
  | .mmaComplete _ _ => none
  | .qmxArmMark _ _ _ _ => none
  | .qmxReportFlags _ _ => none
  | .markPost _ _ _ => none
  | .copyPlain _ => none
  | .copyStrided _ => none
  | .copyTaggedPack _ => none
  | .copyTaggedUnpack _ => none
  | .copyStripDrain _ => none
  | .gather _ => none
  | .reduceScatter _ => none
  | .allGather _ => none
  | .allReduce _ => none
  | .collectiveMatch _ _ _ => none
  | .copyWriteRetire _ => none
  | .engineCommandComplete _ => none
  | .tableUpdateDistribution _ => none
  | .tableUpdateSetList _ => none
  | .tableUpdateAperture _ => none
  | .tableUpdateDone => none
  | .regionCloseRecallDone _ => none
  | .install _ _ => none
  | .remove _ _ => none
  | .move _ _ => none
  | .recallPage _ _ => none
  | .homeRecallDone _ => none
  | .moveDrainDone _ => none
  | .moveCopyDone _ => none
  | .faultRecordWrite _ => none
  | .faultQueueCoalesce _ => none
  | .fqbaseWrite _ _ => none
  | .fqheadWrite _ _ => none
  | .replay _ _ => none
  | .cancel _ _ => none
  | .hostCxlMemRead _ _ _ => none
  | .hostCxlMemWrite _ _ _ _ => none
  | .hostStoreCompletion _ _ => none
  | .hostOwnershipRequest _ _ => none
  | .hostOwnershipGrant _ _ => none
  | .hostSnoop _ _ => none
  | .hostBiResponse _ _ _ => none
  | .launchQueueEnable _ _ _ => none
  | .lqwpWrite _ _ _ => none
  | .recordTake _ _ => none
  | .waitConditionPoll _ _ => none
  | .teamDispatch _ => none
  | .clusterSetDispatch _ => none
  | .dispatchPriorityBlock _ => none
  | .teamEnd _ => none
  | .gridComplete _ => none
  | .gridStallEvict _ => none
  | .gridStallFault _ => none
  | .softPreempt _ _ => none
  | .halt _ _ => none
  | .kill _ _ => none
  | .resume _ _ => none
  | .graceExpiry _ => none
  | .killTimerExpiry _ => none
  | .teamDeparted _ => none
  | .layoutCommit => none
  | .layoutFlip => none
  | .partitionReset _ => none
  | .partitionResetDone _ => none
  | .bezelRestart => none
  | .budgetRefill => none
  | .energyCharge => none
  | .exportBlob _ _ => none
  | .migrationRelease _ => none
  | .importBlob _ _ => none
  | .confirm _ => none
  | .fabricFlitReceive _ _ => none
  | .fabricNak _ => none
  | .portDown _ => none
  | .fabricKeyUpdate _ => none
  | .podTimeFlit _ => none
  | .podTimeLoss => none
  | .postSend _ _ _ _ _ => none
  | .postReceive _ _ _ _ => none
  | .rdmaSendArrival _ _ _ _ _ => none
  | .rdmaRequestArrival _ _ _ => none
  | .rnrNak _ _ _ => none
  | .bezelBoot _ => none
  | .fullReset => none
  | .provision => none
  | .serviceToken _ => none
  | .confidentialModeRequest _ => none
  | .setSharedRange _ _ _ => none
  | .getVersion _ => none
  | .getCapabilities _ => none
  | .negotiateAlgorithms _ => none
  | .getDigests _ => none
  | .getCertificate _ => none
  | .challenge _ _ => none
  | .getMeasurements _ _ => none
  | .keyExchange _ _ _ => none
  | .finish _ _ _ => none
  | .keyUpdate _ _ => none
  | .endSession _ _ => none
  | .patrolScrub _ => none
  | .poisonConsumed _ => none
  | .fatalError _ => none
  | .registerWrite _ _ _ _ => none
  | .illegalWord _ _ => none
  | .unitPowerGate _ => none
  | .unitPowerWake _ => none
  | .portRetrainDone _ _ => none
  | .ucieFlitReceive _ _ => none
  | .transportAckArrival _ _ _ _ => none
  | .hostLinkTraining _ _ => none

/-- The words of an instruction: its prefix word, if it has one, and its word. -/
def encode (i : Instr) : List Word :=
  match wordOf i with
  | none => []
  | some w =>
    match prefixOf i with
    | none => [w]
    | some p => [pfxWord p, w]

/-- Words the instruction occupies (R190, R192). -/
def Instr.words (i : Instr) : Nat := (encode i).length

end Sys2Proof
end

