-- ==== Sys2Proof/Config.lean ====
section
/-! DEFINITION. What an implementation fixes: the free values of the model, constants without a body. The spec names each value and
leaves it open; nothing in Lean can evaluate one. -/

namespace Sys2Proof.Config

/-- The size in 4 KiB units, less 1 and modulo 16, that the home's method gives the image of a page of these bytes (R26): the method
is implementation-defined. 15 stands for an image beyond 60 KiB. Log 7. -/
opaque csz : List (Nat × Byte) → BitVec 4
/-- The `n`-th free value, for bytes that the spec leaves open: ciphertexts, signatures, nonces, certificates. Log 4. -/
opaque freeBits : Nat → BitVec 512
/-- Bezel's energy coefficient of an activity counter (R389). Log 8. -/
opaque energy : Nat → BitVec 32

end Sys2Proof.Config
end

