-- ==== Sys2Proof/Machine/Bits.lean ====
section
/-! DEFINITION. Bit fields, signed readings and byte order (R5, R6): words as Nat numbers and as little-endian bytes. -/

namespace Sys2Proof.Machine

/-- Bits [hi:lo] of a number. -/
def bits (x hi lo : Nat) : Nat := x / 2 ^ lo % 2 ^ (hi + 1 - lo)
/-- Bit `i` of a number. -/
def bitN (x i : Nat) : Bool := x / 2 ^ i % 2 == 1
/-- Bits [hi:lo] of a 64-bit word. -/
def dbits (x : DWord) (hi lo : Nat) : Nat := bits x.toNat hi lo
/-- Bit `i` of a 64-bit word. -/
def dbit (x : DWord) (i : Nat) : Bool := bitN x.toNat i
/-- A number as a 64-bit word. -/
def dw (n : Nat) : DWord := BitVec.ofNat 64 n
/-- A number as a 32-bit word. -/
def wd (n : Nat) : Word := BitVec.ofNat 32 n
/-- All bits set: the status of R347 and R92, and `hzn` while a write is outstanding (R102). -/
def allOnes : DWord := BitVec.allOnes 64

/-- The two's-complement reading of the low `w` bits. -/
def sint (w x : Nat) : Int :=
  let y := x % 2 ^ w
  if y < 2 ^ (w - 1) then (y : Int) else (y : Int) - 2 ^ w
/-- An integer modulo 2^w. -/
def umod (w : Nat) (x : Int) : Nat := (x % 2 ^ w).toNat
/-- An integer clamped to the signed range of `w` bits (R275). -/
def clampS (w : Nat) (x : Int) : Int :=
  if x < -(2 ^ (w - 1) : Int) then -(2 ^ (w - 1)) else if (2 ^ (w - 1) : Int) - 1 < x then 2 ^ (w - 1) - 1 else x

/-- Bits set among the lowest `n`. -/
def popc (n x : Nat) : Nat := (List.range n).foldl (fun a i => a + x / 2 ^ i % 2) 0
/-- Leading zeros of an `n`-bit number. -/
def clz (n x : Nat) : Nat := if x % 2 ^ n = 0 then n else n - 1 - Nat.log2 (x % 2 ^ n)
/-- Trailing zeros of an `n`-bit number. -/
def ctz (n x : Nat) : Nat := (List.range n).foldr (fun i a => if x / 2 ^ i % 2 = 1 then i else a) n
/-- The lowest `n` bits in reverse order. -/
def brev (n x : Nat) : Nat := (List.range n).foldl (fun a i => 2 * a + x / 2 ^ i % 2) 0
/-- Positions of the set bits among the lowest `n`, ascending. -/
def setBits (n x : Nat) : List Nat := (List.range n).filter (bitN x)

/-- A shift of an element of `w` bits by `a` (R216): 0 `shl`, 1 `shr`, 2 `sar`, 3 `rotl`. -/
def shift (op w x a : Nat) : Nat :=
  let x := x % 2 ^ w
  if op = 0 then (if a < w then x * 2 ^ a % 2 ^ w else 0)
  else if op = 1 then (if a < w then x / 2 ^ a else 0)
  else if op = 2 then umod w (sint w x / 2 ^ (if a < w then a else w))
  else
    let k := a % w
    (x * 2 ^ k + x / 2 ^ (w - k)) % 2 ^ w

/-- `n` bytes, low byte first. -/
def toBytes (n x : Nat) : List Byte :=
  match n with
  | 0 => []
  | k + 1 => BitVec.ofNat 8 x :: toBytes k (x / 256)
/-- The number whose bytes, low byte first, are these (R6). -/
def ofBytes (bs : List Byte) : Nat :=
  match bs with
  | [] => 0
  | b :: t => b.toNat + 256 * ofBytes t
/-- A pointer moved by `off` bytes: bits [59:0] modulo 2^60, the key index kept (R9, R46). -/
def ptrAdd (p : DWord) (off : Int) : DWord :=
  dw (p.toNat / 2 ^ 60 * 2 ^ 60 + umod 60 ((p.toNat : Int) + off))
/-- Bits [59:0] of a pointer (R8). -/
def vaOf (p : DWord) : Nat := p.toNat % 2 ^ 60
/-- The key index of a pointer (R8). -/
def kidxOf (p : DWord) : Nat := p.toNat / 2 ^ 60
/-- The target of a branch word: its address plus 4 × the signed offset of `w` bits (R189, R193). -/
def branchTo (pc : DWord) (w off : Nat) : DWord := ptrAdd pc (4 * sint w off)

/-- The maximum of a list, at least `d`. -/
def maxL (d : Nat) (xs : List Nat) : Nat := xs.foldl Nat.max d

end Sys2Proof.Machine
end

