-- ==== Sys2Proof/Machine/Access.lean ====
section
/-! DEFINITION. Reading and changing the parts of the state: time, memories, teams, groups, threads, cores, clusters, slices, homes,
partitions; registers, each through one operation. -/

namespace Sys2Proof.Machine

/-! ## Time (R7, R93) -/

/-- Pod time by the reference copy, in ns. -/
def State.now (s : State) : Nat := s.clock / 3
/-- Pod time by the copy of die `d`: at most 2 ns ahead (R93). -/
def State.nowOn (s : State) (d : Nat) : Nat := s.now + min 2 (s.skew.getD d 0)
/-- The cycle count. -/
def State.cycle (s : State) : Nat := s.clock / 2
/-- δ of a scope (R93). -/
def delta (scope : Nat) : Nat := if scope ≤ 3 then 2 else if scope = 4 then 16 else 64
/-- The die of a cluster (R381). -/
def dieOfCluster (c : Nat) : Nat := c / 24
/-- The cluster of a core (R381). -/
def clusterOf (core : Nat) : Nat := core / 4
/-- The die of a core. -/
def dieOf (core : Nat) : Nat := core / 96
/-- Pod time at a core. -/
def State.nowAt (s : State) (core : Nat) : Nat := s.nowOn (dieOf core)
/-- The die of a home (R411). -/
def dieOfHome (home : Nat) : Nat := home / 48
/-- Pod time by a home's clock. -/
def State.nowHome (s : State) (home : Nat) : Nat := s.nowOn (dieOfHome home)

/-! ## The agenda -/

/-- `i` is to happen after what its unit already has to do. -/
def State.post (s : State) (i : Event) : State := { s with agenda := s.agenda ++ [i] }
/-- Several, in order. -/
def State.postAll (s : State) (is : List Event) : State := { s with agenda := s.agenda ++ is }
/-- `i` is to happen at tick `t`. -/
def State.postAt (s : State) (t : Nat) (i : Event) : State := { s with due := s.due ++ [(t, i)] }
/-- `i`, if it is not on the agenda already. -/
def State.postOnce (s : State) (i : Event) : State := if s.agenda.contains i then s else s.post i
/-- Something for the outside. -/
def State.out (s : State) (o : Out) : State := { s with outs := s.outs ++ [o] }
/-- The next number, and the state that has given it out. -/
def State.newId (s : State) : Nat × State := (s.nextId, { s with nextId := s.nextId + 1 })
/-- A free value, and the state that has used it. -/
def State.free (s : State) : BitVec 512 × State := (Config.freeBits s.fresh, { s with fresh := s.fresh + 1 })

/-! ## Memories -/

/-- The byte at an address; an unlisted one reads 0. -/
def Memory.get (m : Memory) (a : Nat) : Byte := SMap.getD m a 0
/-- The byte at an address replaced. -/
def Memory.set (m : Memory) (a : Nat) (b : Byte) : Memory := SMap.store m 0 a b
/-- `n` bytes from `a` on. -/
def Memory.read (m : Memory) (a n : Nat) : List Byte :=
  match n with
  | 0 => []
  | k + 1 => m.get a :: Memory.read m (a + 1) k
/-- Bytes written from `a` on. -/
def Memory.write (m : Memory) (a : Nat) (bs : List Byte) : Memory :=
  match bs with
  | [] => m
  | b :: t => Memory.write (m.set a b) (a + 1) t
/-- Every byte from `a` to `a + n − 1` zeroed. -/
def Memory.zero (m : Memory) (a n : Nat) : Memory := m.filter fun c => !(decide (a ≤ c.1) && decide (c.1 < a + n))
/-- Strictly rising addresses, none below `lo`, and no byte 0. -/
def Memory.risingFrom (lo : Nat) (m : Memory) : Bool :=
  match m with
  | [] => true
  | c :: t => decide (lo ≤ c.1) && c.2 != 0 && Memory.risingFrom (c.1 + 1) t
/-- The canonical form. -/
def Memory.wf (m : Memory) : Bool := Memory.risingFrom 0 m

/-- The 64 bytes of a line as one word. -/
def lineOf (bs : List Byte) : Line := BitVec.ofNat 512 (ofBytes bs)
/-- The bytes of a line. -/
def lineBytes (l : Line) : List Byte := toBytes 64 l.toNat
/-- `n` bytes of a line from byte `o` on, as a number. -/
def lineGet (l : Line) (o n : Nat) : Nat := l.toNat / 2 ^ (8 * o) % 2 ^ (8 * n)
/-- `n` bytes of a line from byte `o` on replaced. -/
def linePut (l : Line) (o n v : Nat) : Line :=
  BitVec.ofNat 512 (l.toNat % 2 ^ (8 * o) + v % 2 ^ (8 * n) * 2 ^ (8 * o) + l.toNat / 2 ^ (8 * (o + n)) * 2 ^ (8 * (o + n)))

/-- Where offset `off` of a bank stands in the bank memory (R70). -/
def bankAddr (cluster bank off : Nat) : Nat := (cluster * 32 + bank) * 131072 + off
/-- `n` bytes of a bank, as a number. -/
def State.bankGet (s : State) (cluster bank off n : Nat) : Nat := ofBytes (s.banks.read (bankAddr cluster bank off) n)
/-- `n` bytes of a bank replaced. -/
def State.bankPut (s : State) (cluster bank off n v : Nat) : State :=
  { s with banks := s.banks.write (bankAddr cluster bank off) (toBytes n v) }
/-- A whole bank zeroed (R76). -/
def State.bankClear (s : State) (cluster bank : Nat) : State :=
  { s with banks := s.banks.zero (bankAddr cluster bank 0) 131072 }

/-! ## Teams, groups, threads -/

/-- A resident team. -/
def State.team? (s : State) (ctx : Nat) : Option Team := s.teams.find? ctx
/-- A resident team changed. -/
def State.modTeam (s : State) (ctx : Nat) (f : Team → Team) : State :=
  match s.teams.find? ctx with
  | some t => { s with teams := s.teams.put ctx (f t) }
  | none => s
/-- A group of a resident team. -/
def State.group? (s : State) (ctx grp : Nat) : Option Group :=
  match s.teams.find? ctx with
  | some t => t.groups.find? grp
  | none => none
/-- A group of a team changed. -/
def Team.modGroup (t : Team) (grp : Nat) (f : Group → Group) : Team :=
  match t.groups.find? grp with
  | some g => { t with groups := t.groups.put grp (f g) }
  | none => t
/-- A group of a resident team changed. -/
def State.modGroup (s : State) (ctx grp : Nat) (f : Group → Group) : State := s.modTeam ctx fun t => t.modGroup grp f
/-- A thread. -/
def State.thread? (s : State) (r : ThreadRef) : Option Thread :=
  match s.group? r.ctx r.grp with
  | some g => g.threads.find? r.idx
  | none => none
/-- A thread of a group changed. -/
def Group.modThread (g : Group) (idx : Nat) (f : Thread → Thread) : Group :=
  match g.threads.find? idx with
  | some t => { g with threads := g.threads.put idx (f t) }
  | none => g
/-- A thread changed. -/
def State.modThread (s : State) (r : ThreadRef) (f : Thread → Thread) : State :=
  s.modGroup r.ctx r.grp fun g => g.modThread r.idx f
/-- Every thread changed by a function of where it stands. -/
def State.mapThreads (s : State) (f : ThreadRef → Thread → Thread) : State :=
  { s with teams := s.teams.mapVals fun c t => { t with groups := t.groups.mapVals fun g q =>
    { q with threads := q.threads.mapVals fun i x => f ⟨c, g, i⟩ x } } }
/-- Every group changed by a function of where it stands. -/
def State.mapGroups (s : State) (f : Nat → Nat → Group → Group) : State :=
  { s with teams := s.teams.mapVals fun c t => { t with groups := t.groups.mapVals fun g q => f c g q } }
/-- The threads of a group, by index. -/
def Group.refs (g : Group) (ctx grp : Nat) : List ThreadRef := g.threads.map fun p => ⟨ctx, grp, p.1⟩
/-- The threads of a team. -/
def Team.refs (t : Team) (ctx : Nat) : List ThreadRef := t.groups.flatMap fun p => p.2.refs ctx p.1
/-- Every resident thread. -/
def State.refs (s : State) : List ThreadRef := s.teams.flatMap fun p => p.2.refs p.1
/-- The threads of a list changed. -/
def State.eachThread (s : State) (rs : List ThreadRef) (f : Thread → Thread) : State :=
  s.mapThreads fun r x => if rs.contains r then f x else x
/-- The groups that threads belong to, each once, in the order met. -/
def groupsOf (rs : List ThreadRef) : List (Nat × Nat) := (rs.map fun r => (r.ctx, r.grp)).eraseDups

/-! ## Units -/

/-- A core. -/
def State.core (s : State) (n : Nat) : Core := s.cores.getD n {}
/-- A core changed. -/
def State.modCore (s : State) (n : Nat) (f : Core → Core) : State := { s with cores := s.cores.put n (f (s.core n)) }
/-- A cluster. -/
def State.cluster (s : State) (n : Nat) : Cluster := s.clusters.getD n {}
/-- A cluster changed. -/
def State.modCluster (s : State) (n : Nat) (f : Cluster → Cluster) : State :=
  { s with clusters := s.clusters.put n (f (s.cluster n)) }
/-- The lines of a pair cache. -/
def State.pair (s : State) (n : Nat) : List CLine := s.pairs.getD n []
/-- A pair cache changed. -/
def State.modPair (s : State) (n : Nat) (f : List CLine → List CLine) : State :=
  { s with pairs := s.pairs.put n (f (s.pair n)) }
/-- The number of a slice: 32 a die (R119). -/
def sliceNo (die n : Nat) : Nat := die * 32 + n
/-- A slice. -/
def State.slice (s : State) (n : Nat) : Slice := s.slices.getD n {}
/-- A slice changed. -/
def State.modSlice (s : State) (n : Nat) (f : Slice → Slice) : State := { s with slices := s.slices.put n (f (s.slice n)) }
/-- A home. -/
def State.home (s : State) (n : Nat) : Home := s.homes.getD n {}
/-- A home changed. -/
def State.modHome (s : State) (n : Nat) (f : Home → Home) : State := { s with homes := s.homes.put n (f (s.home n)) }
/-- A partition. -/
def State.part (s : State) (n : Nat) : Part := s.parts.getD n {}
/-- A partition changed. -/
def State.modPart (s : State) (n : Nat) (f : Part → Part) : State := { s with parts := s.parts.put n (f (s.part n)) }
/-- `n` counted on activity counter `c` of a partition (R389). -/
def State.count (s : State) (part c n : Nat) : State :=
  if n = 0 then s else s.modPart part fun p => { p with counts := p.counts.store 0 c (p.counts.getD c 0 + n) }
/-- Words of four bytes. -/
def words4 (n : Nat) : Nat := (n + 3) / 4
/-- A launch queue of a partition. -/
def Part.queue (p : Part) (q : Nat) : LQueue := p.queues.getD q {}
/-- A launch queue changed. -/
def Part.modQueue (p : Part) (q : Nat) (f : LQueue → LQueue) : Part := { p with queues := p.queues.put q (f (p.queue q)) }
/-- A grid changed. -/
def State.modGrid (s : State) (n : Nat) (f : Grid → Grid) : State :=
  match s.grids.find? n with
  | some g => { s with grids := s.grids.put n (f g) }
  | none => s
/-- The device changed. -/
def State.modDev (s : State) (f : Device → Device) : State := { s with dev := f s.dev }
/-- The home of a directory entry's default: it starts from the per-home floors (R125). -/
def Home.entry (h : Home) (line : Nat) : DirEntry := h.dir.getD line { fd := h.floorD, fr := h.floorR }

/-! ## Registers -/

/-- A vector register. -/
def Thread.r (t : Thread) (n : Nat) : Word := t.v.getD n 0
/-- A vector register written. -/
def Thread.setR (t : Thread) (n : Nat) (x : Word) : Thread := { t with v := t.v.store 0 n x }
/-- `k` registers from `n` on as one number, the low word first (R6). -/
def Thread.rs (t : Thread) (n k : Nat) : Nat :=
  match k with
  | 0 => 0
  | j + 1 => (t.r n).toNat + 2 ^ 32 * Thread.rs t (n + 1) j
/-- `k` registers from `n` on written with a number. -/
def Thread.setRs (t : Thread) (n k x : Nat) : Thread :=
  match k with
  | 0 => t
  | j + 1 => Thread.setRs (t.setR n (wd x)) (n + 1) j (x / 2 ^ 32)
/-- A predicate; `pt`, 127, reads 1 (R189, R280). -/
def Thread.pr (t : Thread) (p : BitVec 7) : Bool := p == 127#7 || t.p.getLsbD p.toNat
/-- A predicate written; a write of `pt` is discarded (R262). -/
def Thread.setP (t : Thread) (p : BitVec 7) (b : Bool) : Thread :=
  if p.toNat < 96 then
    { t with p := if b then t.p ||| ((1#96) <<< p.toNat) else t.p &&& ~~~((1#96) <<< p.toNat) }
  else t
/-- A uniform register. -/
def Group.gr (g : Group) (n : Nat) : DWord := g.g.getD n 0
/-- A uniform register written. -/
def Group.setG (g : Group) (n : Nat) (x : DWord) : Group := { g with g := g.g.store 0 n x }
/-- `hzn` as a program reads it (R102). -/
def Thread.hzn (t : Thread) : DWord := if t.bankW.isEmpty then dw t.hznT else allOnes
/-- The thread adopts a horizon (R101). -/
def Thread.adopt (t : Thread) (w : Nat) : Thread := { t with hzg := max t.hzg w }
/-- The thread performs no global load before `w` (R105, R114). -/
def Thread.hold (t : Thread) (w : Nat) : Thread := { t with notBefore := max t.notBefore w }
/-- The role of a group (R160). -/
def Team.role (t : Team) (g : Group) : Role := t.roles.getD g.role ⟨0, 0, 0, 0, 0⟩
/-- A role's private bytes rounded up to 64 (R158). -/
def Role.p64 (r : Role) : Nat := (r.priv + 63) / 64 * 64
/-- The flags of a group ORed with `f` (R254). -/
def Group.raise (g : Group) (f : BitVec 40) : Group := { g with jxf := g.jxf ||| f }
/-- A window slot. -/
def Team.slot (t : Team) (n : Nat) : Slot := t.window.getD n {}
/-- A window slot changed. -/
def Team.modSlot (t : Team) (n : Nat) (f : Slot → Slot) : Team := { t with window := t.window.put n (f (t.slot n)) }
/-- The issuing run. -/
def State.run? (s : State) : Option (Nat × Run) :=
  match s.cur with
  | none => none
  | some (c, rid) =>
    match (s.core c).runs.find? (fun r => r.rid == rid) with
    | some r => some (c, r)
    | none => none
/-- The issuing run changed. -/
def State.modRun (s : State) (f : Run → Run) : State :=
  match s.cur with
  | none => s
  | some (c, rid) => s.modCore c fun k => { k with runs := k.runs.map fun r => if r.rid == rid then f r else r }

end Sys2Proof.Machine
end

