-- ==== Sys2Proof/Machine/Translate.lean ====
section
/-! DEFINITION. From a pod address to its line: distribution (R13, R14, R17), slices (R119), the page table of a home (R19 to R22),
the checks of R29, the data of a page at its tier, taking lines back from caches (R25, R123, R127), W (R126), and the indivisible
accesses of agents that go to a home directly (R119) and of engines. -/

namespace Sys2Proof.Machine

/-! ## Distribution and slices -/

/-- A die's distribution-table entry of a region (R13, R16). -/
def State.distAt (s : State) (die region : Nat) : DWord := s.dist.getD (die * 8192 + region) 0
/-- A die's word of the set list (R13, R16). -/
def State.setAt (s : State) (die i : Nat) : BitVec 16 := s.setlist.getD (die * 16384 + i) 0
/-- A die's aperture entry of a domain (R11, R16). -/
def State.aptAt (s : State) (die dom : Nat) : Word := s.apt.getD (die * 4096 + dom) 0
/-- State of an address's region by a die's copy of the table: 0 invalid, 1 active, 2 closing (R13, R16). -/
def State.regionSt (s : State) (die va : Nat) : Nat := dbits (s.distAt die (va / 2 ^ 47)) 63 62
/-- Device and home of a pod address by a die's copy of the tables (R14, R16). -/
def State.homeOf (s : State) (die va : Nat) : Nat × Nat :=
  let e := s.distAt die (va / 2 ^ 47)
  let x := va / 2 ^ 16
  let h := (bits x 15 0) ^^^ (bits x 31 16) ^^^ (bits x 43 32)
  let w := (s.setAt die (dbits e 45 32 + h % (dbits e 7 0 + 1))).toNat
  (w / 256, w % 256)
/-- The home on this device that a pod address belongs to; none: the region is not active, or the home is another device's. -/
def State.ownHome (s : State) (die va : Nat) : Option Nat :=
  let h := s.homeOf die va
  if s.regionSt die va = 1 ∧ h.1 = s.dev.no ∧ h.2 < 192 then some h.2 else none
/-- The die on which an agent of no cluster sits (R16, R131): the dispatcher of partition `p` is agent `p`, its fault-queue unit
64 + `p`, Bezel 128, the network block as function `f` uses it 384 + `f`. Log 9. -/
def State.seat (s : State) (agent : Nat) : Nat := s.dev.seats.getD agent 0 % 4
/-- SLICESET of partition `p` and die `d` (R120). -/
def State.sliceMask (s : State) (p d : Nat) : Nat := (s.slicesets.getD (4 * p + d) 0).toNat
/-- The slice of die `d` that serves an address for partition `p` (R119). -/
def State.sliceFor (s : State) (p d va : Nat) : Nat :=
  let h := (bits va 21 6) ^^^ (bits va 37 22) ^^^ (bits va 53 38) ^^^ (bits va 59 54)
  let xs := setBits 32 (s.sliceMask p d)
  sliceNo d (xs.getD (h % xs.length) 0)
/-- The slices of a die that hold a line. -/
def State.holders (s : State) (die line : Nat) : List Nat :=
  (List.range 32).filterMap fun n =>
    if ((s.slice (sliceNo die n)).lines.find? line).isSome then some (sliceNo die n) else none
/-- The die of a slice. -/
def dieOfSlice (n : Nat) : Nat := n / 32

/-! ## The page table of a home -/

/-- Where a byte of a home's channel stands in HBM: DPA[39:32] home, [31:0] frame and offset (R37). -/
def chan (home a : Nat) : Nat := home * 2 ^ 32 + a
/-- LOGNB (R23). -/
def Home.logn (h : Home) : Nat := dbits h.hptc 4 0
/-- PROBE, 0 read as 1 (R23). -/
def Home.probe (h : Home) : Nat := max 1 (dbits h.hptc 11 8)
/-- The home has a page table (R23). -/
def Home.mapped (h : Home) : Bool := decide (10 ≤ h.logn) && decide (h.logn ≤ 20)
/-- The channel addresses of the entries that a lookup of `vpn` reads, in order (R19). -/
def Home.probes (h : Home) (vpn : Nat) : List Nat :=
  let n := h.logn
  let b := vpn * 0x9E3779B97F4A7C15 % 2 ^ 64 / 2 ^ (64 - n)
  (List.range h.probe).flatMap fun i =>
    (List.range 8).map fun e => dbits h.hptb 15 0 * 65536 + (b + i) % 2 ^ n * 128 + e * 16
/-- An entry's words in HBM. -/
def State.pteAt (s : State) (home a : Nat) : DWord × DWord :=
  (dw (ofBytes (s.hbm.read (chan home a) 8)), dw (ofBytes (s.hbm.read (chan home (a + 8)) 8)))
/-- An entry written. -/
def State.setPte (s : State) (home a : Nat) (w0 w1 : DWord) : State :=
  { s with hbm := (s.hbm.write (chan home a) (toBytes 8 w0.toNat)).write (chan home (a + 8)) (toBytes 8 w1.toNat) }
/-- The channel address of the entry of `vpn` in the table, if there is one (R19). -/
def State.pteFind (s : State) (home vpn : Nat) : Option Nat :=
  if (s.home home).mapped then
    ((s.home home).probes vpn).find? fun a =>
      let w := (s.pteAt home a).1
      dbit w 63 && decide (dbits w 43 0 = vpn)
  else none
/-- The entry of `vpn`: from the translation cache, else from the table (R19, R22). -/
def State.pte? (s : State) (home vpn : Nat) : Option (DWord × DWord) :=
  if (s.home home).mapped then
    match (s.home home).tcache.find? vpn with
    | some e => some e
    | none => (s.pteFind home vpn).map (s.pteAt home)
  else none
/-- The translation cache after a lookup: 16,384 valid entries (R22). DESIGN CHOICE: the spec does not say which entry leaves a full
cache; the one of the lowest VPN does. Log 57. -/
def State.cachePte (s : State) (home vpn : Nat) : State :=
  match s.pte? home vpn with
  | some e => s.modHome home fun h =>
    if (h.tcache.find? vpn).isSome then h
    else { h with tcache := (if h.tcache.length < 16384 then h.tcache else h.tcache.tail).put vpn e }
  | none => s

/-- TIER (R20). -/
def pTier (w0 : DWord) : Nat := dbits w0 62 61
/-- LC (R20). -/
def pLc (w0 : DWord) : Nat := dbits w0 60 59
/-- BSY (R20). -/
def pBsy (w0 : DWord) : Bool := dbit w0 56
/-- GKEY (R20). -/
def pGkey (w1 : DWord) : BitVec 16 := BitVec.ofNat 16 (dbits w1 63 48)
/-- DSET (R20). -/
def pDset (w1 : DWord) : Nat := dbits w1 47 36
/-- FRAME (R20). -/
def pFrame (w1 : DWord) : Nat := dbits w1 35 0
/-- The lease of a class, in ns (R58). -/
def leaseNs (lc : Nat) : Nat := if lc = 1 then 256 else if lc = 2 then 1024 else if lc = 3 then 4096 else 0

/-- The domain is in the page's DSET (R20, R21). -/
def State.domOk (s : State) (home : Nat) (w0 w1 : DWord) (dom : Nat) : Bool :=
  if dbit w0 58 then
    let i := dbits w1 45 36
    i == 0 || bitN (s.hbm.get (chan home (dbits (s.home home).hdsb 15 0 * 65536 + i * 512 + dom / 8))).toNat (dom % 8)
  else decide (pDset w1 = dom)

/-- The first failing check of R29: its cause, and word 0 of the entry. -/
def State.check (s : State) (home vpn dom : Nat) (gkid : BitVec 16) (wr : Bool) : Option (BitVec 8 × DWord) :=
  match s.pte? home vpn with
  | none => some (1#8, 0)
  | some (w0, w1) =>
    if !s.domOk home w0 w1 dom then some (2#8, w0)
    else if gkid != pGkey w1 then some (3#8, w0)
    else if wr && dbit w0 57 then some (4#8, w0)
    else if wr && pTier w0 == 1 then some (5#8, w0)
    else none

/-! ## The data of a page -/

/-- `n` bytes of a page at offset `off`, by its tier (R20, R26). -/
def State.pageRead (s : State) (home vpn : Nat) (w0 w1 : DWord) (off n : Nat) : List Byte :=
  if pTier w0 = 0 then s.hbm.read (chan home (pFrame w1 % 65536 * 65536 + off)) n
  else if pTier w0 = 1 then Memory.read (s.home home).t1 (vpn * 65536 + off) n
  else s.host.read (pFrame w1 * 65536 + off) n
/-- Bytes of a page written, by its tier. -/
def State.pageWrite (s : State) (home vpn : Nat) (w0 w1 : DWord) (off : Nat) (bs : List Byte) : State :=
  if pTier w0 = 0 then { s with hbm := s.hbm.write (chan home (pFrame w1 % 65536 * 65536 + off)) bs }
  else if pTier w0 = 1 then s.modHome home fun h => { h with t1 := Memory.write h.t1 (vpn * 65536 + off) bs }
  else { s with host := s.host.write (pFrame w1 * 65536 + off) bs }
/-- A line in memory at its home, or in its write-back buffer on the way there (R122); an unmapped page reads 0. -/
def State.memLine (s : State) (home line : Nat) : Line :=
  match (s.home home).wbbuf.reverse.find? (fun w => w.1 == line) with
  | some w => w.2.data
  | none =>
    match s.pte? home (line / 1024) with
    | some (w0, w1) => lineOf (s.pageRead home (line / 1024) w0 w1 (line % 1024 * 64) 64)
    | none => 0
/-- A line written to memory at its home; the whole of it is good data again (R408). -/
def State.setMemLine (s : State) (home line : Nat) (l : Line) : State :=
  match s.pte? home (line / 1024) with
  | some (w0, w1) => (s.pageWrite home (line / 1024) w0 w1 (line % 1024 * 64) (lineBytes l)).modHome home fun h =>
      { h with poison := h.poison.filter fun k => k != line }
  | none => s

/-- W of a store or atomic performed at pod time `t` (R126); `host`: from a host agent (R116). -/
def wTime (host : Bool) (t wl fd fr lmax : Nat) : Nat :=
  let d1 := if host then 64 else 2
  let d2 := if host then 64 else 16
  max (max wl t) (max (fd + d1) (max (fr + d2) (lmax + d1)))

/-! ## Stash lines -/

/-- The stash slot of a cluster whose range holds a pod address: team, slot, record, line of the stash (R64, R121). -/
def State.stashOf (s : State) (cluster va : Nat) : Option (Nat × Nat × StashRec × Nat) :=
  s.teams.findSome? fun p =>
    if clusterOf p.2.core = cluster then
      p.2.window.findSome? fun q =>
        match q.2.stash with
        | some r =>
          if vaOf r.ptr ≤ va ∧ va < vaOf r.ptr + r.len then some (p.1, q.1, r, (va - vaOf r.ptr) / 64) else none
        | none => none
    else none
/-- A stash record changed. -/
def State.modStash (s : State) (ctx slot : Nat) (f : StashRec → StashRec) : State :=
  s.modTeam ctx fun t => t.modSlot slot fun q => { q with stash := q.stash.map f }
/-- The data of stash line `n` in its bank. -/
def State.stashData (s : State) (ctx slot n : Nat) : Line :=
  match s.team? ctx with
  | some t => BitVec.ofNat 512 (s.bankGet (clusterOf t.core) (t.slot slot).bank (64 * n) 64)
  | none => 0

/-! ## Messages to other devices (R394, R395) -/

/-- The port that a packet for a device takes: VA[21:6] modulo the ports of the route's mask that are up (R394). -/
def State.portFor (s : State) (dev va : Nat) : Option Nat :=
  let ps := (setBits 32 (s.dev.routes.getD dev 0).toNat).filter fun p => (s.dev.ports.getD p {}).up
  if ps = [] then none else some (ps.getD (bits va 21 6 % ps.length) 0)
/-- The partition whose tag a message carries: the requester's (R388). -/
def msgPart (m : Remote) : Nat :=
  match m with
  | .request _ r => r.part
  | .verdict r _ => r.part
  | .lease r _ _ => r.part
  | .accepted r _ _ => r.part
  | .result r _ _ _ => r.part
  | .retry r => r.part
  | .grant r _ => r.part
  | .snoop _ _ _ _ p => p
  | .snoopResp _ _ _ _ _ p => p
  | .writeBack _ _ _ _ _ p => p
  | .record p _ => p
  | .replayTo _ p _ _ => p
  | .keyUpdate _ => 0
  | .withdraw _ r => r.part
  | .withdrawn r => r.part
/-- The address by which a message takes its port (R394). -/
def msgVa (m : Remote) : Nat :=
  match m with
  | .request _ r => r.va.toNat
  | .verdict r _ => r.va.toNat
  | .lease r _ _ => r.va.toNat
  | .accepted r _ _ => r.va.toNat
  | .result r _ _ _ => r.va.toNat
  | .retry r => r.va.toNat
  | .grant r _ => r.va.toNat
  | .snoop _ _ va _ _ => va.toNat
  | .snoopResp _ _ _ va _ _ => va.toNat
  | .writeBack _ _ _ va _ _ => va.toNat
  | .withdraw _ r => r.va.toNat
  | .withdrawn r => r.va.toNat
  | _ => 0
/-- The virtual channel of a message: 0 request, 1 forward, 2 reply, 3 link control (R395). -/
def msgVc (m : Remote) : BitVec 2 :=
  match m with
  | .request _ _ => 0
  | .writeBack _ _ _ _ _ _ => 0
  | .record _ _ => 0
  | .replayTo _ _ _ _ => 0
  | .withdraw _ _ => 0
  | .snoop _ _ _ _ _ => 1
  | .keyUpdate _ => 3
  | _ => 2
/-- Mesh flits of a request: 3 where it brings a line's data (R131). -/
def reqFlits (r : Req) : Nat := if r.acc = .store ∧ 16 < r.size then 3 else 1
/-- Mesh flits of a message: 3 with a line, 1 without (R131). -/
def msgFlits (m : Remote) : Nat :=
  match m with
  | .request _ r => reqFlits r
  | .lease _ _ _ => 3
  | .grant _ _ => 3
  | .snoopResp _ _ _ _ (.data _) _ => 3
  | .writeBack _ _ _ _ _ _ => 3
  | .record _ _ => 3
  | .keyUpdate _ => 0
  | _ => 1
/-- A message is for a partition of device `dev`, this one (R388, R389). -/
def msgOwn (dev : Nat) (m : Remote) : Bool :=
  match m with
  | .request _ r => r.dev == dev
  | .verdict r _ => r.dev == dev
  | .lease r _ _ => r.dev == dev
  | .accepted r _ _ => r.dev == dev
  | .result r _ _ _ => r.dev == dev
  | .retry r => r.dev == dev
  | .grant r _ => r.dev == dev
  | .withdraw _ r => r.dev == dev
  | .withdrawn r => r.dev == dev
  | .writeBack _ d _ _ _ _ => d == dev
  | .replayTo _ _ _ _ => true
  | _ => false
/-- A port. -/
def State.port (s : State) (p : Nat) : Port := s.dev.ports.getD p {}
/-- A port changed. -/
def State.modPort (s : State) (p : Nat) (f : Port → Port) : State :=
  s.modDev fun d => { d with ports := d.ports.put p (f (s.port p)) }
/-- How far a partition's turn is off, when `turn` was served last (R390). -/
def turnsOff (turn part : Nat) : Nat := (part + 63 - turn % 64) % 64
/-- The partition of a list whose turn comes first (R390). -/
def firstTurn (turn : Nat) (ps : List Nat) : Option Nat := ps.find? fun p => ps.all fun q => decide (turnsOff turn p ≤ turnsOff turn q)
/-- The flit that a port sends next, of those that wait: the oldest, or among requests the oldest of the partition whose turn it is (R390);
its place in the replay buffer. -/
def Port.nextFlit (q : Port) : Option Nat :=
  let wait := q.replay.drop q.out
  match wait with
  | [] => none
  | f :: _ =>
    if f.flit.vc ≠ 0 then some q.out
    else
      let reqs := wait.filter fun x => x.flit.vc == 0
      match firstTurn q.turn (reqs.map fun x => x.flit.ptag.toNat) with
      | some p => (wait.findIdx? fun x => x.flit.vc == 0 && x.flit.ptag.toNat == p).map fun k => q.out + k
      | none => some q.out
/-- A port with room in its replay buffer of 128 sends its next flit, with the sequence number, acknowledgement, key epoch and flit count of
that moment (R395 to R397). -/
def State.sendNext (s : State) (p : Nat) : State :=
  let q := s.port p
  if q.retraining || decide (128 ≤ q.out) then s
  else match q.nextFlit with
  | none => s
  | some k => match q.replay[k]? with
    | none => s
    | some f =>
      let f := { f with flit := { f.flit with seq := q.seq, ack := q.ack }, epoch := q.epoch, n := q.sent }
      ((s.modPort p fun q => { q with
        replay := q.replay.take q.out ++ f :: (q.replay.drop q.out).eraseIdx (k - q.out)
        turn := if f.flit.vc = 0 then f.flit.ptag.toNat else q.turn
        seq := q.seq + 1, sent := q.sent + 1, out := q.out + 1 }).out (.fabric p f.flit f.epoch f.n)).count f.flit.ptag.toNat 5
          (if f.flit.msgs.any (msgOwn s.dev.no) then 1 else 0)
/-- A port sends what waits, as far as it can. -/
def State.sendWaiting (s : State) (p : Nat) : State := (List.range (s.port p).replay.length).foldl (fun s _ => s.sendNext p) s
/-- A message goes out on a port: in the last flit that waits there, if that flit goes to the same device for the same partition on the same
virtual channel and has room among its seven mesh flits, else in a flit of its own (R395). -/
def State.sendMsg (s : State) (p dev : Nat) (m : Remote) : State :=
  let q := s.port p
  let fits := fun (f : SentFlit) => decide (q.out < q.replay.length) && f.flit.dest.toNat == dev && f.flit.ptag.toNat == msgPart m % 64 &&
    f.flit.vc == msgVc m && decide (f.flit.count.toNat + msgFlits m ≤ 7)
  let fresh : SentFlit :=
    { flit := { crcOk := true, tagOk := true, seq := 0, ack := 0, ptag := BitVec.ofNat 6 (msgPart m), vc := msgVc m
                count := BitVec.ofNat 3 (msgFlits m), src := BitVec.ofNat 8 s.dev.no, dest := BitVec.ofNat 8 dev, msgs := [m] }
      epoch := 0, n := 0 }
  let joined := match q.replay.getLast? with
    | some f => if fits f then
        q.replay.dropLast ++ [{ f with flit := { f.flit with count := f.flit.count + BitVec.ofNat 3 (msgFlits m), msgs := f.flit.msgs ++ [m] } }]
      else q.replay ++ [fresh]
    | none => [fresh]
  (s.modPort p fun q => { q with replay := joined }).sendWaiting p
/-- A message other than a request sent to another device. -/
def State.toDevice (s : State) (dev va : Nat) (m : Remote) : State :=
  match s.portFor dev va with
  | some p => s.sendMsg p dev m
  | none => s

/-- The newest data of a stash line, with what came with its grant. -/
def State.stashInfo (s : State) (ctx slot i : Nat) (y : StashLine) : LineInfo := ⟨s.stashData ctx slot i, 0, y.wl, y.tag, y.st == .M || y.st == .O⟩
/-- The owned lines of a stash on die `die` whose homes are on other devices go back to them (R68, R124). -/
def State.sendBack (s : State) (die ctx slot : Nat) (r : StashRec) : State :=
  let part := match s.team? ctx with
    | some t => t.part
    | none => 0
  r.lines.foldl (fun s l =>
    let va := vaOf r.ptr / 64 * 64 + 64 * l.1
    let h := s.homeOf die va
    if h.1 ≠ s.dev.no ∧ l.2.st ≠ .S then
      s.toDevice h.1 va (.writeBack h.2 s.dev.no die (BitVec.ofNat 60 va) (s.stashInfo ctx slot l.1 l.2) part)
    else s) s

/-! ## Taking lines back -/

/-- A line as a slice itself has it; in K, where no stash does, it may be dirty. -/
def SliceLine.info (x : SliceLine) : LineInfo :=
  ⟨x.data, x.lmax, x.wl, x.tag, match x.st with
    | .M => true
    | .O => true
    | .K _ => true
    | _ => false⟩
/-- The newest data of a line that a slice holds, with its lease record, Wl and tag: from the stash under K, else the slice's. -/
def State.heldInfo (s : State) (line : Nat) (x : SliceLine) : LineInfo :=
  match x.st with
  | .K c =>
    match s.stashOf c (line * 64) with
    | some (ctx, slot, r, n) =>
      match r.lines.find? n with
      | some y => { s.stashInfo ctx slot n y with lmax := x.lmax }
      | none => x.info
    | none => x.info
  | _ => x.info
/-- The slice is the owner of the line (R122). -/
def SliceLine.owns (x : SliceLine) : Bool :=
  match x.st with
  | .E => true
  | .M => true
  | .O => true
  | .K _ => true
  | _ => false
/-- A line dropped from a slice, and from the stash behind it. -/
def State.dropLine (s : State) (n line : Nat) : State :=
  match (s.slice n).lines.find? line with
  | some x =>
    let s := s.modSlice n fun k => { k with lines := k.lines.del line }
    match x.st with
    | .K c =>
      match s.stashOf c (line * 64) with
      | some (ctx, slot, _, i) => s.modStash ctx slot fun r => { r with lines := r.lines.del i }
      | none => s
    | _ => s
  | none => s
/-- A line dropped from every pair cache, instruction cache and read-only stash of a die (R127). -/
def State.dropNear (s : State) (die line : Nat) : State :=
  let s := { s with
    pairs := s.pairs.mapVals fun p xs => if p / 48 = die then xs.filter (fun x => x.line != line) else xs
    cores := s.cores.mapVals fun c k =>
      if dieOf c = die then
        { k with icache := k.icache.filter (fun x => x.line != line), once := k.once.filter fun o => o.2.2.line != line }
      else k }
  (s.teams.filter fun p => dieOf p.2.core = die).foldl (fun s p =>
    match s.stashOf (clusterOf p.2.core) (line * 64) with
    | some (ctx, slot, _, i) => s.modStash ctx slot fun r => { r with lines := r.lines.filter fun l => l.1 != i || l.2.st != .S }
    | none => s) s

/-- The copy of a line that slice `n` holds given back to the line's home: an owner's data in memory, Wl and tag in the entry, Lmax in its
floor, or with `near` counted 0 (R123, R125, R127). -/
def State.giveBack (s : State) (home line n : Nat) (x : SliceLine) (near : Bool) : State :=
  let i := s.heldInfo line x
  let s := if x.owns then s.setMemLine home line i.data else s
  let s := s.modHome home fun h =>
    let e := h.entry line
    let e := if near then e else { e with fd := max e.fd i.lmax }
    let e := if x.owns then { e with wl := max e.wl i.wl, tag := if e.tag < i.tag then i.tag else e.tag } else e
    { h with dir := h.dir.put line e }
  s.dropLine n line
/-- Every copy of a line in the slices and stashes of this device given back to its home; with `near`, near copies are dropped too
(R123, R125, R127). -/
def State.takeBack (s : State) (home line : Nat) (near : Bool) : State :=
  let s := (List.range 4).foldl (fun s die =>
    let s := (s.holders die line).foldl (fun s n =>
      match (s.slice n).lines.find? line with
      | some x => s.giveBack home line n x near
      | none => s) s
    if near then s.dropNear die line else s) s
  s.modHome home fun h =>
    if (h.dir.find? line).isSome then
      let e := h.entry line
      let owner := match e.owner with
        | some (.die _) => none
        | o => o
      { h with dir := h.dir.put line { e with
          st := if owner.isSome then e.st else if e.sharers.getLsbD 4 then .S else .I
          sharers := e.sharers &&& 16#5
          owner := owner } }
    else h
/-- The owner's copy of a line alone given back to its home; shared copies stay (R27). -/
def State.takeOwned (s : State) (home line : Nat) : State :=
  let s := (List.range 4).foldl (fun s die =>
    (s.holders die line).foldl (fun s n =>
      match (s.slice n).lines.find? line with
      | some x => if x.owns then s.giveBack home line n x false else s
      | none => s) s) s
  s.modHome home fun h =>
    if (h.dir.find? line).isSome then
      let e := h.entry line
      match e.owner with
      | some (.die _) => { h with dir := h.dir.put line { e with owner := none, st := if e.sharers = 0 then .I else .S } }
      | _ => h
    else h

/-- Lines of a page that have a directory entry at a home. -/
def Home.pageLines (h : Home) (vpn : Nat) : List Nat := (h.dir.map fun e => e.1).filter fun l => l / 1024 = vpn
/-- Recall of every cached line of a page (R25). -/
def State.recallPage (s : State) (home vpn : Nat) : State :=
  ((s.home home).pageLines vpn).foldl (fun s l => s.takeBack home l true) s
/-- The latest remote lease end on the lines of a page (R25, R124). -/
def Home.pageRl (h : Home) (vpn : Nat) : Nat := maxL 0 ((h.pageLines vpn).map fun l => (h.entry l).rl)
/-- The entries of a page leave the directory; their floors are kept (R125). -/
def Home.forgetPage (h : Home) (vpn : Nat) : Home :=
  let es := h.dir.filter fun e => e.1 / 1024 = vpn
  { h with
    dir := h.dir.filter fun e => e.1 / 1024 != vpn
    floorD := maxL h.floorD (es.map fun e => e.2.fd)
    floorR := maxL h.floorR (es.map fun e => e.2.fr) }

/-! ## Accesses performed at a home -/

/-- Why an access performed at a home directly does not go through now. -/
inductive DirectErr where
  /-- The region is invalid or closing (R17). -/
  | region
  /-- The home is another device's. -/
  | away
  /-- A check of R29 fails: its cause and word 0 of the entry. -/
  | denied (cause : BitVec 8) (w0 : DWord)
  /-- The page is switching, its line is in a transient state, or a copy is outside the device. -/
  | busy
  deriving DecidableEq, Repr

/-- The newest value of a line: the owner's, else memory's. -/
def State.lineNow (s : State) (home line : Nat) : Line :=
  let own := (List.range 4).findSome? fun die => (s.holders die line).findSome? fun n =>
    match (s.slice n).lines.find? line with
    | some x => if x.owns then some (s.heldInfo line x).data else none
    | none => none
  match own with
  | some d => d
  | none => s.memLine home line

/-- A line is on its way: a grant or a fill not yet arrived, a write-back not yet acknowledged, a record of leases not yet at the home
(R125, R129). -/
def State.inFlight (s : State) (line : Nat) : Bool :=
  (s.agenda.any fun e => match e with
    | .ownershipGrant r _ => decide (r.va.toNat / 64 = line)
    | .stashFill r _ => decide (r.va.toNat / 64 = line)
    | .stashUpgradeGrant r _ => decide (r.va.toNat / 64 = line)
    | .cleanDropNotice _ _ va _ => decide (va.toNat / 64 = line)
    | .writeBack _ _ va _ => decide (va.toNat / 64 = line)
    | _ => false) ||
  s.slices.any fun k => k.2.wb.any fun w => w.1 == line
/-- A home command in progress names the page: its requests wait (R25, R27). -/
def Home.busyPage (h : Home) (vpn : Nat) : Bool :=
  match h.cmd with
  | some c => if c.op = 4 then decide (c.vpn / 2 ^ 31 = vpn / 2 ^ 31) else decide (c.vpn = vpn)
  | none => false
/-- A copy outside the device: the host's, or an owner on another device. -/
def DirEntry.away (e : DirEntry) (excl : Bool) : Bool :=
  (match e.owner with
   | some .host => true
   | some (.remote _ _) => true
   | _ => false) || (excl && e.sharers.getLsbD 4)
/-- The entry is in a stable state (R122). -/
def DirEntry.stable (e : DirEntry) : Bool := e.st == .I || e.st == .S || e.st == .X || e.st == .OS
/-- The line can be served at once: its page is not switching or being recalled, its entry is stable, no copy is outside the device,
and nothing of it is in flight. -/
def State.lineFree (s : State) (home line : Nat) (excl : Bool) : Bool :=
  let e := (s.home home).entry line
  !(s.home home).busyPage (line / 1024) && e.stable && !e.away excl && !s.inFlight line

/-- The home of an address by the tables of a die, if an access to it can be performed at once, as a write with `excl`. -/
def State.direct (s : State) (die va : Nat) (excl : Bool) : Except DirectErr Nat :=
  let h := s.homeOf die va
  if s.regionSt die va ≠ 1 then .error .region
  else if h.1 ≠ s.dev.no then .error .away
  else if 192 ≤ h.2 then .error (.denied 1#8 0)
  else match s.pte? h.2 (va / 65536) with
  | none => .error (.denied 1#8 0)
  | some (w0, _) =>
    if excl && pTier w0 == 1 then .error (.denied 5#8 w0)
    else if s.lineFree h.2 (va / 64) excl then .ok h.2 else .error .busy
/-- A read at the home of an address: `n` bytes within one line (R119). -/
def State.directRead (s : State) (die va n : Nat) : Except DirectErr (List Byte) :=
  match s.direct die va false with
  | .error e => .error e
  | .ok h => .ok (toBytes n (lineGet (s.lineNow h (va / 64)) (va % 64) n))
/-- A read-modify-write at the home of an address, within one line: copies are taken back, W assigned, the tag raised to `tag`
(R104, R119, R126). The answer is the old number, W and the state. -/
def State.directRmw (s : State) (die va n : Nat) (tag : Nat) (f : Nat → Nat) : Except DirectErr (Nat × Nat × State) :=
  match s.direct die va true with
  | .error e => .error e
  | .ok h =>
    let l := va / 64
    let s := s.takeBack h l false
    let old := s.memLine h l
    let s := s.setMemLine h l (linePut old (va % 64) n (f (lineGet old (va % 64) n)))
    let e := (s.home h).entry l
    let w := wTime false (s.nowHome h) e.wl e.fd (max e.fr e.rl) 0
    .ok (lineGet old (va % 64) n, w, s.modHome h fun k =>
      { k with dir := k.dir.put l { e with wl := w, tag := if e.tag.toNat < tag then dw tag else e.tag } })

/-! ## Accesses of the agents of no cluster (R119)

Where a home can serve such an access at once, the model performs it in the step that needs it. Otherwise the agent sends a request, its
`Mail` entry keeps the outcome, and the step that needs it takes it from there. -/

/-- The entry of an agent's access, if it has been asked for. -/
def State.mailFor (s : State) (agent va n : Nat) (acc : Acc) (bytes : List Byte) : Option Mail :=
  s.mail.find? fun m => m.agent == agent && m.va == va && m.n == n && m.acc == acc && m.bytes == bytes
/-- What an agent's access has brought, once its request has been answered. -/
def State.mailDone (s : State) (agent va n : Nat) (acc : Acc) (bytes : List Byte) : Option (Nat × List Byte × Nat) :=
  match s.mailFor agent va n acc bytes with
  | some m => match m.st with
    | .done bs w => some (m.id, bs, w)
    | _ => none
  | none => none
/-- A mail entry is used up. -/
def State.mailDrop (s : State) (id : Nat) : State := { s with mail := s.mail.filter fun m => m.id != id }
/-- The pieces of a range, one for each line it touches: address and size. -/
def linePieces (fuel va n : Nat) : List (Nat × Nat) :=
  match fuel with
  | 0 => []
  | k + 1 => if n = 0 then [] else (va, min n (64 - va % 64)) :: linePieces k (va + min n (64 - va % 64)) (n - min n (64 - va % 64))
/-- Bytes within one line as an agent can have them now. -/
def State.pieceRead (s : State) (agent va n : Nat) : Option (List Byte) :=
  match s.directRead (s.seat agent) va n with
  | .ok bs => some bs
  | .error _ => (s.mailDone agent va n .load []).map fun m => m.2.1
/-- Bytes written within one line as an agent can now: at once, or where its request has been performed. -/
def State.pieceWrite (s : State) (agent va : Nat) (bs : List Byte) : Option State :=
  match s.directRmw (s.seat agent) va bs.length 0 (fun _ => ofBytes bs) with
  | .ok (_, _, s) => some s
  | .error _ => (s.mailDone agent va bs.length .store bs).map fun m => s.mailDrop m.1
/-- 8 bytes changed by an agent in one access, at once or where its request has been performed: `f` is what `acc` does with `bytes`. The
answer is the state, with W. -/
def State.podRmw (s : State) (agent va tag : Nat) (acc : Acc) (bytes : List Byte) (f : Nat → Nat) : Option (Nat × State) :=
  match s.directRmw (s.seat agent) va 8 tag f with
  | .ok (_, w, s) => some (w, s)
  | .error _ => (s.mailDone agent va 8 acc bytes).map fun m => (m.2.2, s.mailDrop m.1)
/-- Bytes read with an agent's own right, line after line; none: not to be had now. -/
def State.podRead (s : State) (agent fuel va n : Nat) : Option (List Byte) :=
  match fuel with
  | 0 => some []
  | k + 1 =>
    if n = 0 then some []
    else
      let m := min n (64 - va % 64)
      match s.pieceRead agent va m with
      | some bs => (State.podRead s agent k (va + m) (n - m)).map fun r => bs ++ r
      | none => none
/-- Bytes written with an agent's own right, line after line. -/
def State.podWrite (s : State) (agent fuel va : Nat) (bs : List Byte) : Option State :=
  match fuel with
  | 0 => some s
  | k + 1 =>
    if bs.isEmpty then some s
    else
      let m := min bs.length (64 - va % 64)
      match s.pieceWrite agent va (bs.take m) with
      | some s => State.podWrite s agent k (va + m) (bs.drop m)
      | none => none
/-- What an agent has read of a range is used up: the next read asks again. -/
def State.podTaken (s : State) (agent va n : Nat) : State :=
  { s with mail := s.mail.filter fun m => !(m.agent == agent && m.acc == .load && decide (va ≤ m.va) && decide (m.va < va + n)) }
/-- An access of an agent cannot succeed: its region is not active, its page is not mapped, or its request was refused. -/
def State.pieceFails (s : State) (agent va n : Nat) (acc : Acc) (bytes : List Byte) : Bool :=
  match s.direct (s.seat agent) va (acc != .load) with
  | .error .region => true
  | .error (.denied _ _) => true
  | _ => match s.mailFor agent va n acc bytes with
    | some m => match m.st with
      | .refused _ => true
      | _ => false
    | none => false
/-- Some piece of a range cannot be read. -/
def State.podFails (s : State) (agent fuel va n : Nat) : Bool := (linePieces fuel va n).any fun p => s.pieceFails agent p.1 p.2 .load []

/-! ## Checks at the core -/

/-- A pointer in host form relocated into the domain's aperture, under key index 0 (R10). -/
def relocate (apx : BitVec 13) (p : DWord) : DWord :=
  if p.toNat / 2 ^ 47 = 0 then dw (p.toNat ||| (apx.toNat * 2 ^ 47)) else p
/-- The pointer is in host form (R10). -/
def hostForm (p : DWord) : Bool := decide (p.toNat / 2 ^ 47 = 0)
/-- Which right an access needs: bits R 0, W 1, A 2, X 3 of a Locket word's [19:16] (R40, R43). -/
def needed (a : Acc) : Nat :=
  match a with
  | .load => 0
  | .store => 1
  | .atomic _ => 2
  | .fetch => 3
/-- The Locket word at a key index; an empty entry permits nothing (R40). -/
def locketWord (keys : List Word) (k : Nat) : Word :=
  let w := keys.getD k 0
  if w.toNat / 2 ^ 20 ≠ 0 ∨ w.toNat % 2 ^ 16 = 0 then 0 else w
/-- The Locket grants right `r` under a pointer's key index (R44). -/
def locketOk (keys : List Word) (p : DWord) (r : Nat) : Bool := bitN (locketWord keys (kidxOf p)).toNat (16 + r)
/-- The GKID a request leaves with (R44). -/
def locketGkid (keys : List Word) (p : DWord) : BitVec 16 := BitVec.ofNat 16 (locketWord keys (kidxOf p)).toNat

/-! ## Requests leave (R134) -/

/-- A request with every field at rest, on behalf of a team on a core. -/
def reqOf (dev : Nat) (t : Team) (ctx core : Nat) (client : Client) (pc next : DWord) : Req where
  id := 0
  client := client
  acc := .load
  va := 0
  kidx := 0
  gkid := 0
  dom := t.dom
  part := t.part
  own := false
  reloc := false
  dev := dev
  die := dieOf core
  core := core
  ctx := BitVec.ofNat 32 ctx
  pc := pc
  next := next
  size := 64
  data := 0
  cmp := 0
  tag := 0
  dst := 0
  szc := 0
  look := 0
  order := 0
  scope := 0
  excl := false
  upg := false
  direct := false
  mask := BitVec.allOnes 64
/-- A request at a pointer, with the key of a team's snapshot (R44); `host`: the pointer was in host form. -/
def reqAt (r : Req) (t : Team) (p : DWord) (host : Bool) : Req :=
  { r with va := BitVec.ofNat 60 p.toNat, kidx := BitVec.ofNat 4 (kidxOf p), gkid := locketGkid t.keys p, reloc := host }
/-- A request with a permit of its slice goes there, as a renewal of version `ver` or a request; without one it is held (R134). -/
def State.toSlice (s : State) (r : Req) (ver : Option Nat) : State :=
  let n := s.sliceFor r.part r.die r.va.toNat
  let used := (s.core r.core).permits.getD n 0
  if used < 16 then
    (s.modCore r.core fun k => { k with permits := k.permits.put n (used + 1) }).post (match ver with
      | some v => .sliceRenewal r v
      | none => .sliceRequest r)
  else s.modCore r.core fun k => { k with heldReqs := k.heldReqs ++ [(n, r, ver)] }
/-- The room of a core's miss table (R2). -/
def missRoom : Nat := 2048
/-- Requests of a core's threads, fetches and lane-store fills that have left and are not answered (R2, R134). -/
def State.outstanding (s : State) (core : Nat) : Nat :=
  let ids := s.teams.flatMap fun p => p.2.groups.flatMap fun g =>
    if g.2.core = core then g.2.threads.flatMap fun x => (x.2.loads.map fun l => l.id) ++ x.2.stores.map fun w => w.1 else []
  ids.eraseDups.length + (s.core core).fetching.length + (s.core core).laneAsked.length

end Sys2Proof.Machine
end

