-- ==== Sys2Proof/Machine/Ops.lean ====
section
/-! DEFINITION. The named operations: image addresses (R158, R162), the lane store (R54 to R56), banks returned to the pool, fault
records (R31), killing a grid (R367), taking a fault and leaving its handler (R364, R365), and how a run moves past an
instruction (R141 to R146). -/

namespace Sys2Proof.Machine

/-! ## The context image (R158 to R163) -/

/-- Groups of a team. -/
def groupCount (rs : List Role) : Nat := (rs.map fun r => r.groups).sum
/-- The role of group `grp`: the groups of role 0 come first (R137). -/
def roleOf (rs : List Role) (grp : Nat) : Nat :=
  match rs with
  | [] => 0
  | r :: t => if grp < r.groups then 0 else 1 + roleOf t (grp - r.groups)
/-- The sum over the groups below `grp` of a size that its role gives. -/
def sumBefore (rs : List Role) (f : Role → Nat) (grp : Nat) : Nat :=
  ((List.range grp).map fun h => f (rs.getD (roleOf rs h) ⟨0, 0, 0, 0, 0⟩)).sum
/-- The sizes of the areas, the header first (R158). -/
def areaSizes (rs : List Role) (w : Nat) : List Nat :=
  let n := groupCount rs
  let tot (f : Role → Nat) : Nat := (rs.map fun r => r.groups * f r).sum
  [1024, 576 * n, 64 * n * w, tot (fun r => r.vregs * w * 4), tot (fun r => r.tiles * 16384), tot (fun r => r.strips * 4096),
   4672 * n + 64 * n * w, tot (fun r => w * r.p64), 2097152, if tot (fun r => r.strips) > 0 then 655360 else 0]
/-- The offset of area `k`: 0 header, 1 uniform, 2 thread, 3 vector, 4 tile, 5 accumulator, 6 engine, 7 private, 8 bank save,
9 array save (R158). -/
def areaOff (rs : List Role) (w k : Nat) : Nat := ((areaSizes rs w).take k).sum
/-- The image size rounded up to 64 KiB (R157, R173). -/
def imageSize (rs : List Role) (w : Nat) : Nat := (areaOff rs w 10 + 65535) / 65536 * 65536
/-- The pod address of a thread's private segment (R162). -/
def Team.priv (t : Team) (grp idx : Nat) : Nat :=
  t.image + areaOff t.roles t.width 7 + sumBefore t.roles (fun r => t.width * r.p64) grp +
    idx * (t.roles.getD (roleOf t.roles grp) ⟨0, 0, 0, 0, 0⟩).p64
/-- The lane of a thread (R139). -/
def Group.lane (g : Group) (idx : Nat) : Nat := g.base + idx

/-! ## The lane store -/

/-- A lane-store line of a thread. -/
def Core.laneLine (k : Core) (r : ThreadRef) (line : Nat) : Option LaneLine :=
  k.lanes.find? fun x => decide (x.owner = r) && decide (x.line = line)
/-- The bits of `n` bytes from byte `o` on. -/
def byteMask (o n : Nat) : BitVec 64 := BitVec.ofNat 64 ((2 ^ n - 1) * 2 ^ o)
/-- The line that serves `n` bytes from byte `o` of it on: a line pushed to before its fill holds only some (R55, R364). -/
def Core.laneHit (k : Core) (r : ThreadRef) (line o n : Nat) : Option LaneLine :=
  match k.laneLine r line with
  | some x => if byteMask o n &&& ~~~x.valid = 0 then some x else none
  | none => none
/-- A write-back of a thread's lane-store line has not been accepted. -/
def Core.laneBusy (k : Core) (r : ThreadRef) (line : Nat) : Bool := k.laneWb.any fun w => w.1 == r && w.2.1 == line
/-- The dirty bytes of a lane-store line set out for memory with the dispatcher's own right (R54, R55, R157); a fill under way would
bring older bytes and is given up. -/
def State.laneBack (s : State) (core : Nat) (x : LaneLine) : State :=
  match s.team? x.owner.ctx with
  | none => s
  | some t =>
    let n := s.newId
    let r := { reqOf s.dev.no t x.owner.ctx core (.lane x.owner) 0 0 with
      id := n.1, acc := .store, va := BitVec.ofNat 60 (t.priv x.owner.grp x.owner.idx + 64 * x.line), own := true
      data := x.data, mask := x.dirty, excl := true }
    (n.2.modCore core fun k =>
      { k with
        laneWb := k.laneWb ++ [(x.owner, x.line, n.1)]
        laneAsked := k.laneAsked.filter fun a => !(a.1 == x.owner && a.2.1 == x.line) }).toSlice r none
/-- A line put first in its core's lane stores. A set of four of its lane that is full gives up its least recently used line, first one
of a context marked evictable, written back if dirty (R53, R55). DESIGN CHOICE: the spec gives 16 sets and no index; the set of a line is
its number within the thread's segment modulo 16. Log 58. -/
def State.laneInsert (s : State) (core : Nat) (x : LaneLine) : State :=
  let k := s.core core
  let rest := k.lanes.filter fun y => !(y.owner == x.owner && y.line == x.line)
  let same := rest.filter fun y => y.lane == x.lane && y.line % 16 == x.line % 16
  let gone := fun (y : LaneLine) => match s.team? y.owner.ctx with
    | some t => t.leaving != .no
    | none => true
  let victim := if same.length < 4 then none
    else match same.reverse.find? gone with
      | some y => some y
      | none => same.getLast?
  match victim with
  | none => s.modCore core fun k => { k with lanes := x :: rest }
  | some y =>
    let s := s.modCore core fun k => { k with lanes := x :: rest.filter fun z => z != y }
    if y.dirty = 0 then s else s.laneBack core y
/-- `n` bytes written in a thread's segment through the lane store; a line not held is allocated with those bytes alone, and its fill
brings the others (R54, R364). -/
def State.laneWrite (s : State) (core lane : Nat) (r : ThreadRef) (off n v : Nat) : State :=
  let line := off / 64
  let m := byteMask (off % 64) n
  s.laneInsert core (match (s.core core).laneLine r line with
    | some x => { x with dirty := x.dirty ||| m, valid := x.valid ||| m, data := linePut x.data (off % 64) n v }
    | none => ⟨lane, r, line, m, linePut 0 (off % 64) n v, m⟩)

/-! ## Banks -/

/-- A bank returned to its partition's pool; it is zeroed before it can be attached again (R76). -/
def State.freeBank (s : State) (cluster bank : Nat) : State :=
  (s.modCluster cluster fun c => { c with banks := c.banks.put bank ⟨none, true⟩ }).post (.bankZeroDone cluster bank)

/-! ## Fault records -/

/-- A record of R31 but for PHASE and SEQ. -/
def faultRecord (ptew0 : DWord) (unit dev : Nat) (gkey : BitVec 16) (dom : BitVec 12) (flags cause home ctx token podt : Nat)
    (pc addr : DWord) : BitVec 512 :=
  BitVec.ofNat 512 (ptew0.toNat * 2 ^ 384 + unit % 2 ^ 16 * 2 ^ 336 + dev % 256 * 2 ^ 320 + gkey.toNat * 2 ^ 304 +
    dom.toNat * 2 ^ 288 + flags % 256 * 2 ^ 280 + cause % 256 * 2 ^ 272 + home % 2 ^ 16 * 2 ^ 256 + ctx % 2 ^ 32 * 2 ^ 224 +
    token % 2 ^ 32 * 2 ^ 192 + podt % 2 ^ 64 * 2 ^ 128 + pc.toNat * 2 ^ 64 + addr.toNat)
/-- A record offered to the fault queue of partition `p` (R31, R32). -/
def State.offer (s : State) (p : Nat) (r : BitVec 512) : State :=
  (s.modPart p fun q => { q with fq := { q.fq with waiting := q.fq.waiting ++ [r] } }).postOnce (.faultRecordWrite p)

/-! ## Teams taken away -/

/-- Near copies that carry a GKID of a protected context's snapshot are zeroed (R379). -/
def State.scrubKeys (s : State) (core : Nat) (keys : List Word) : State :=
  let gs := (keys.map fun w => BitVec.ofNat 16 w.toNat)
  let keep := fun (x : CLine) => !(gs.contains x.gkid)
  let s := s.modPair (core / 2) fun xs => xs.filter keep
  [core / 2 * 2, core / 2 * 2 + 1].foldl (fun s c => s.modCore c fun k => { k with icache := k.icache.filter keep }) s
/-- An event of the agenda or a time that a team leaves behind: its octets under way, its armings, the end of a sleep (R300, R328). -/
def State.eventOfTeam (s : State) (ctx : Nat) (e : Event) : Bool :=
  match e with
  | .mmaOctetDone core op _ => (s.core core).mq.any fun o => o.id == op && o.ctx == ctx
  | .qmxArmMark c _ _ _ => c == ctx
  | .sleepExpiry q => q.ctx == ctx
  | _ => false
/-- Runs, fetches, matrix operations, commands, bank writes and times of a team leave its cores and cluster; with `keep` its clean lane-store
and register-cache lines stay until they are replaced (R164). -/
def State.clearUnits (s : State) (ctx cluster : Nat) (keep : Bool) : State :=
  let mine := fun (e : Event) => s.eventOfTeam ctx e
  let s := { s with agenda := s.agenda.filter (fun e => !mine e), due := s.due.filter fun d => !mine d.2 }
  let s := { s with cores := s.cores.mapVals fun _ (k : Core) =>
    { k with
      runs := (k.runs.map fun (r : Run) => { r with set := r.set.filter (fun t => t.ctx != ctx) }).filter (fun r => !r.set.isEmpty)
      fetching := k.fetching.filter fun r => r.ctx.toNat != ctx
      once := k.once.filter fun o => o.1 != ctx
      lanes := k.lanes.filter fun x => x.owner.ctx != ctx || (keep && x.dirty == 0)
      laneAsked := k.laneAsked.filter fun a => a.1.ctx != ctx
      laneWb := k.laneWb.filter fun a => a.1.ctx != ctx
      rc := k.rc.filter fun x => x.ctx != ctx || keep
      rcAsked := k.rcAsked.filter fun x => x.ctx != ctx
      mq := k.mq.filter fun x => x.ctx != ctx } }
  let mine := ((s.cluster cluster).cmds.filter fun x => x.ctx == ctx).map fun x => x.id
  let own := fun (w : BankWrite) => (match w.by_ with
    | some q => q.ctx == ctx
    | none => false) || match w.engine with
    | some id => mine.contains id
    | none => false
  s.modCluster cluster fun c =>
    { c with cmds := c.cmds.filter fun x => x.ctx != ctx, writes := c.writes.filter fun w => !own w }
/-- The gives that a team leaves behind: its own unmatched ones vanish, those matched to it drain on and leave their banks to the pool
(R83). -/
def State.settleGives (s : State) (ctx cluster : Nat) : State :=
  s.modCluster cluster fun c =>
    { c with gives := (c.gives.filter fun g => !(g.ctx == ctx && (g.dst.isNone || g.complete))).map fun g =>
        { g with lost := g.lost || match g.dst with
          | some d => d.1 == ctx && !g.complete
          | none => false } }
/-- A stash supplies a line that its slice holds under K: it keeps the line as O, or with `excl` drops it and the slice holds what the
stash had (R66, R67). -/
def State.stashYield (s : State) (n line : Nat) (excl : Bool) : State :=
  match (s.slice n).lines.find? line with
  | none => s
  | some x =>
    match x.st with
    | .K c =>
      let i := s.heldInfo line x
      match s.stashOf c (line * 64) with
      | none => s.modSlice n fun k => { k with lines := k.lines.put line { x with st := .M } }
      | some (ctx, slot, rec, m) =>
        match rec.lines.find? m with
        | none => s.modSlice n fun k => { k with lines := k.lines.put line { x with st := .M } }
        | some y =>
          if excl then
            let st : SliceSt := match y.st with
              | .M => .M
              | .O => .O
              | _ => .E
            let s := s.modStash ctx slot fun r => { r with lines := r.lines.del m }
            let v := s.newId
            let x := { x with st := st, data := i.data, wl := i.wl, tag := i.tag, fd := y.fd, fr := y.fr, ver := v.1 }
            v.2.modSlice n fun k => { k with lines := k.lines.put line x }
          else
            let s := s.modStash ctx slot fun r => { r with lines := r.lines.put m { y with st := .O } }
            let v := s.newId
            v.2.modSlice n fun k => { k with lines := k.lines.put line { x with data := i.data, wl := i.wl, tag := i.tag, ver := v.1 } }
    | _ => s
/-- Every line that the stashes of a team hold falls back to its slice (R67, R76). -/
def State.dropStashes (s : State) (ctx : Nat) : State :=
  match s.team? ctx with
  | none => s
  | some t =>
    t.window.foldl (fun s q => match q.2.stash with
      | some r => r.lines.foldl (fun s l =>
          let line := vaOf r.ptr / 64 + l.1
          (s.holders (dieOf t.core) line).foldl (fun s n => s.stashYield n line true) s) (s.sendBack (dieOf t.core) ctx q.1 r)
      | none => s) s
/-- A team leaves its core: its banks go to the pool, its state in the units vanishes, but for the clean lines of one that departs, with
`keep`; a protected one leaves no residue (R76, R164, R379). -/
def State.dropTeam (s : State) (ctx : Nat) (keep : Bool) : State :=
  match s.team? ctx with
  | none => s
  | some t =>
    let cl := clusterOf t.core
    let held := t.window.filterMap fun p => if p.2.mode = .empty then none else some p.2.bank
    let s := (s.dropStashes ctx).clearUnits ctx cl (keep && !t.prot)
    let s := s.settleGives ctx cl
    let s := held.foldl (fun s b => s.freeBank cl b) s
    let s := if t.prot then s.scrubKeys t.core t.keys else s
    { s with teams := s.teams.del ctx }

/-- The largest `hzg` of a team's threads (R175). -/
def Team.hzMax (t : Team) : Nat := maxL 0 (t.groups.flatMap fun g => g.2.threads.map fun x => x.2.hzg)
/-- A grid's resident, evicted and undispatched teams end, and it completes with `status` (R175, R367). -/
def State.endGrid (s : State) (grid status : Nat) : State :=
  let mine := s.teams.filter fun p => p.2.grid = grid
  let hz := maxL 0 (mine.map fun p => p.2.hzMax)
  ((mine.foldl (fun s p => s.dropTeam p.1 false) s).modGrid grid fun g =>
    { g with
      killed := true, status := some status, away := [], stalled := none
      hmax := max g.hmax (max hz (maxL 0 (g.away.map fun a => a.saved.hzMax))) }).postOnce (.gridComplete grid)
/-- A grid is killed (R367): a record is offered, and it ends. -/
def State.killGrid (s : State) (grid status cause : Nat) (addr pc : DWord) (ctx unit : Nat) : State :=
  match s.grids.find? grid with
  | none => s
  | some g =>
    if g.killed then s
    else (s.offer g.part (faultRecord 0 unit s.dev.no 0 g.dom 0 cause 0 ctx 0 s.now pc addr)).endGrid grid status

/-! ## Taking a fault (R364) and leaving its handler (R365) -/

/-- The fault codes of R360. -/
def cIllegal : Nat := 0x01
/-- Execute fault. -/
def cExecute : Nat := 0x02
/-- Key fault. -/
def cKey : Nat := 0x03
/-- Misaligned access. -/
def cMisaligned : Nat := 0x04
/-- Page fault, region. -/
def cRegion : Nat := 0x05
/-- Page fault, cancelled. -/
def cCancelled : Nat := 0x06
/-- Empty slot. -/
def cEmpty : Nat := 0x07
/-- Detached slot. -/
def cDetached : Nat := 0x08
/-- Slot mode. -/
def cSlotMode : Nat := 0x09
/-- Bank address. -/
def cBank : Nat := 0x0A
/-- Remote target. -/
def cRemote : Nat := 0x0B
/-- Stash range. -/
def cStashRange : Nat := 0x0C
/-- Stash write. -/
def cStashWrite : Nat := 0x0D
/-- Stash revoked. -/
def cStashRevoked : Nat := 0x0E
/-- Jet alignment. -/
def cJet : Nat := 0x0F
/-- Membership. -/
def cMember : Nat := 0x10
/-- Mask disagreement. -/
def cMask : Nat := 0x11
/-- Stack. -/
def cStack : Nat := 0x12
/-- Queue underflow. -/
def cUnderflow : Nat := 0x13
/-- Matrix descriptor. -/
def cMatrix : Nat := 0x14
/-- Block format. -/
def cBlock : Nat := 0x15
/-- Array residue. -/
def cResidue : Nat := 0x16
/-- Command format. -/
def cCommand : Nat := 0x17
/-- Engine error. -/
def cEngine : Nat := 0x18
/-- Grid stall. -/
def cStall : Nat := 0x19
/-- Software trap. -/
def cTrap : Nat := 0x1A

/-- `fcause` (R361). -/
def fcauseWord (cause detail top : Nat) : DWord := dw (cause + detail % 256 * 2 ^ 8 + top / 8 % 2 ^ 16 * 2 ^ 16)
/-- A thread takes a fault: the cause registers, the pushed return address, the in-handler bit, and `tvec`; without a handler, in
one, or with no room to push, its grid is killed (R364, R366, R367). `fpc` is the address of the instruction. -/
def State.takeFault (s : State) (r : ThreadRef) (cause detail : Nat) (addr fpc : DWord) : State :=
  match s.team? r.ctx, s.group? r.ctx r.grp, s.thread? r with
  | some t, some g, some x =>
    let ret := if cause = cTrap then ptrAdd fpc 4 else fpc
    if t.tvec = 0 ∨ x.handler = true ∨ (t.role g).p64 < x.top + 8 then
      s.killGrid t.grid (if cause = cStall then 6 else 7) (0x80 + cause) addr fpc r.ctx g.core
    else
      (s.laneWrite g.core (g.lane r.idx) r x.top 8 ret.toNat).modThread r fun x =>
        { x with fcause := fcauseWord cause detail x.top, faddr := addr, fpc := fpc, top := x.top + 8, handler := true,
                 pc := t.tvec, st := .ready, since := s.cycle, arr := none }
  | _, _, _ => s
/-- Results of a level of `qsf` that have not arrived, with their flags (R255). -/
def inFlightOf (q : List QsfEntry) : List (Nat × BitVec 40) := (q.filter fun e => !e.arrived).map fun e => (e.serial, e.flags)
/-- No result of a special function of the thread is in flight (R255, R309). -/
def Thread.sfxDone (x : Thread) : Bool := ((x.q0 ++ x.q1).all fun e => e.arrived) && x.flying.isEmpty
/-- A pop leaves the handler when it leaves top equal to 8 × DEPTH (R365): the in-handler bit is cleared and level 1 of `qsf`
discarded. -/
def Thread.leaveHandler (x : Thread) : Thread :=
  if x.handler && x.top == 8 * dbits x.fcause 31 16 then { x with handler := false, q1 := [], flying := x.flying ++ inFlightOf x.q1 } else x

/-! ## How a run moves -/

/-- What an instruction does for one thread of its issue set. -/
inductive Fate where
  /-- It goes on to the next instruction, with these flags. -/
  | go (t : Thread) (f : BitVec 40)
  /-- It leaves the run in the state and at the program counter given. -/
  | leave (t : Thread) (f : BitVec 40)
  /-- It does not execute the instruction now. -/
  | wait (c : Stall)
  /-- It faults. -/
  | fault (cause detail : Nat) (addr : DWord)
  deriving DecidableEq, Repr

/-- The B bit of an instruction's word; global memory instructions act as with B = 1 (R141, R196). -/
def endsRun (i : Instr) : Bool :=
  match i with
  | .ld _ _ => true
  | .st _ _ => true
  | .atom _ _ => true
  | .gld _ _ => true
  | .gst _ _ => true
  | .gatom _ _ => true
  | .bmopStash _ _ => true
  | _ =>
    match wordOf i with
    | some w => bBit w
    | none => true

/-- The issuing run after instruction `i`, with the threads of `keep` still in it: it goes on behind the instruction's words, or
ends, and its threads are ready there (R141, R146). -/
def State.finish (s : State) (i : Instr) (keep : List ThreadRef) (stop : Bool) : State :=
  match s.run? with
  | none => s
  | some (c, r) =>
    let n := i.words
    let pc := ptrAdd r.pc (4 * n)
    let code := r.code.drop n
    let ends := stop || endsRun i || decide (24 ≤ r.count + 1) || code.isEmpty || keep.isEmpty
    let s := s.mapThreads fun q x =>
      if keep.contains q then
        { x with pc := pc, st := if ends then (if x.st = .running then .ready else x.st) else .running, since := if ends then s.cycle else x.since }
      else x
    if ends then s.modCore c fun k => { k with runs := k.runs.filter fun q => q.rid != r.rid }
    else s.modRun fun q => { q with pc := pc, code := code, set := keep, count := q.count + 1, stall := none }

/-- The whole issue set stalls: in a bound run for at most 64 cycles (R144), in another until the cause is resolved (R142). -/
def State.stall (s : State) (c : Stall) : State :=
  match s.run? with
  | none => s
  | some (k, r) =>
    let s := s.modRun fun q => { q with stall := some (c, s.cycle) }
    if r.bound && !(s.due.any fun d => d.2 == .boundStallExpiry k r.rid) then s.postAt (s.clock + 128) (.boundStallExpiry k r.rid) else s

/-- Threads take faults one after another. -/
def State.takeFaults (s : State) (fs : List (ThreadRef × Nat × Nat × DWord)) (fpc : DWord) : State :=
  fs.foldl (fun s f => s.takeFault f.1 f.2.1 f.2.2.1 f.2.2.2 fpc) s

/-- The threads of a list of fates that go on. -/
def goers (fs : List (ThreadRef × Fate)) : List ThreadRef :=
  fs.filterMap fun f => match f.2 with | .go _ _ => some f.1 | _ => none
/-- The causes for which a thread leaves an issue set that is not bound (R145, R301); for any other the set waits (R142). -/
def Stall.leaves (c : Stall) : Bool :=
  match c with
  | .rcLine _ => true
  | .laneLine _ => true
  | .laneBack _ => true
  | .stashLine _ _ _ => true
  | .sfxRoom _ => true
  | .sfxEntries _ => true
  | .passes => true
  | .release _ => true
  | .acquire _ => true
  | .fenceLoad _ => true
  | _ => false
/-- The first wait of a list of fates that stalls the run. -/
def firstWait (bound : Bool) (fs : List (ThreadRef × Fate)) : Option Stall :=
  fs.findSome? fun f => match f.2 with
    | .wait c => if bound || !c.leaves then some c else none
    | _ => none
/-- The fate of a thread. -/
def fateOf (fs : List (ThreadRef × Fate)) (r : ThreadRef) : Option Fate :=
  match fs with
  | [] => none
  | f :: t => if f.1 = r then some f.2 else fateOf t r
/-- A thread as its fate leaves it; one that waits stays ready at the instruction (R145). -/
def Fate.apply (f : Fate) (pc : DWord) (now : Nat) (x : Thread) : Thread :=
  match f with
  | .go t _ => t
  | .leave t _ => t
  | .wait _ => { x with st := .ready, pc := pc, since := now }
  | .fault _ _ _ => x
/-- The flags a fate raises. -/
def Fate.flags (f : Fate) : BitVec 40 :=
  match f with
  | .go _ f => f
  | .leave _ f => f
  | _ => 0#40

/-- An instruction's fates take effect: a wait may stall the whole set; otherwise every thread meets its fate, the flags enter
`jxf`, the run goes on with the threads that do, and the faults are taken (R144 to R146, R255, R362). -/
def State.meet (s : State) (i : Instr) (fs : List (ThreadRef × Fate)) : State :=
  match s.run? with
  | none => s
  | some (_, r) =>
    match firstWait r.bound fs with
    | some c => s.stall c
    | none =>
      let s := s.mapThreads fun q x => match fateOf fs q with
        | some f => f.apply r.pc s.cycle x
        | none => x
      let s := s.mapGroups fun c g q =>
        q.raise (fs.foldl (fun a f => if f.1.ctx = c ∧ f.1.grp = g then a ||| f.2.flags else a) 0#40)
      let s := s.finish i (goers fs) false
      s.takeFaults (fs.filterMap fun f => match f.2 with
        | .fault c d a => some (f.1, c, d, a)
        | _ => none) r.pc

end Sys2Proof.Machine
end

