-- ==== Sys2Proof/Machine/Operands.lean ====
section
/-! DEFINITION. Operand forms and issue: the vector and uniform operands of a word, participation and zeroing (R190, R262), the
elements of a type or width, and what is checked when a word is issued, in the order of R362: legality (R165, R189, R197), jet
alignment (R232), lookahead windows (R149) and the register cache (R154). -/

namespace Sys2Proof.Machine

/-! ## Vector operands -/

/-- A vector operand: its first register, how many registers it opens, and whether it is a jet (R189, R231). -/
structure VOp where
  reg : Nat
  n : Nat
  jet : Bool
  deriving DecidableEq, Repr

/-- The registers of an operand. -/
def VOp.regs (o : VOp) : List Nat := (List.range o.n).map fun k => o.reg + k
/-- The least vector count under which the operand is legal: a jet needs its first register alone (R189, R232). -/
def VOp.need (o : VOp) : Nat := if o.jet then o.reg + 1 else o.reg + o.n
/-- G of R231. -/
def jetG (j : Nat) : Nat := if j = 0 then 1 else if j = 1 then 2 else if j ≤ 3 then 4 else 8
/-- A jet operand that is not aligned (R232). -/
def VOp.crooked (o : VOp) (j : Nat) : Bool := o.jet && o.reg % jetG j != 0
/-- A single register. -/
def one (r : BitVec 7) : VOp := ⟨r.toNat, 1, false⟩
/-- `n` registers. -/
def many (n : Nat) (r : BitVec 7) : VOp := ⟨r.toNat, n, false⟩
/-- A jet of order `j`. -/
def jetOp (j : Nat) (r : BitVec 7) : VOp := ⟨r.toNat, j + 1, true⟩
/-- An operand of a floating-point type: F32 is a jet, F64 a pair (R265, R267). -/
def fOp (s : BitVec 2) (j : Nat) (r : BitVec 7) : VOp :=
  if s = 0#2 then jetOp j r else if s = 3#2 then many 2 r else one r
/-- An operand of an integer width (R275). -/
def iOp (w : BitVec 2) (r : BitVec 7) : VOp := if w = 2#2 then many 2 r else one r

/-! ## Elements -/

/-- The format of a type S (R195). -/
def fmtOf (s : BitVec 2) : Fmt := if s = 0#2 then F32 else if s = 1#2 then F16 else if s = 2#2 then BF16 else F64
/-- Registers of a type. -/
def fRegs (s : BitVec 2) : Nat := if s = 3#2 then 2 else 1
/-- Registers of an integer width (R275). -/
def iRegs (w : BitVec 2) : Nat := if w = 2#2 then 2 else 1
/-- Bits of an element of a width (R275). -/
def iBits (w : BitVec 2) : Nat := if w = 2#2 then 64 else if w = 1#2 then 8 else 32
/-- The elements of a register's number: `n` of `w` bits, element 0 first. -/
def elems (w n x : Nat) : List Nat := (List.range n).map fun k => x / 2 ^ (w * k) % 2 ^ w
/-- Elements put together. -/
def joined (w : Nat) (xs : List Nat) : Nat := xs.foldr (fun x a => x % 2 ^ w + 2 ^ w * a) 0
/-- Elements in an operand of a type (R209). -/
def fCount (s : BitVec 2) : Nat := if s = 1#2 ∨ s = 2#2 then 2 else 1
/-- Elements in an operand of a width (R215, R275). -/
def iCount (w : BitVec 2) : Nat := if w = 1#2 then 4 else 1

/-- A function of elements applied to one operand: the result and the flags of every element. -/
def mapEl1 (w n : Nat) (f : Nat → Nat × Flags) (a : Nat) : Nat × Flags :=
  let rs := (elems w n a).map f
  (joined w (rs.map fun r => r.1), rs.foldl (fun x r => x ||| r.2) 0#5)
/-- A function of elements applied to two operands. -/
def mapEl2 (w n : Nat) (f : Nat → Nat → Nat × Flags) (a b : Nat) : Nat × Flags :=
  let rs := ((elems w n a).zip (elems w n b)).map fun p => f p.1 p.2
  (joined w (rs.map fun r => r.1), rs.foldl (fun x r => x ||| r.2) 0#5)
/-- A function of elements applied to three operands. -/
def mapEl3 (w n : Nat) (f : Nat → Nat → Nat → Nat × Flags) (a b d : Nat) : Nat × Flags :=
  let rs := ((elems w n a).zip ((elems w n b).zip (elems w n d))).map fun p => f p.1 p.2.1 p.2.2
  (joined w (rs.map fun r => r.1), rs.foldl (fun x r => x ||| r.2) 0#5)

/-! ## Participation (R190, R262) -/

/-- The thread takes part. -/
def takesPart (m : Mod) (x : Thread) : Bool := m.pm == 127#7 || (x.pr m.pm != m.n)
/-- A word that takes no prefix. -/
def bareMod : Mod := ⟨false, none⟩

/-! ## Issue of a lane-set word -/

/-- Where a thread stands when a word issues for it. -/
structure LaneCtx where
  ref : ThreadRef
  core : Nat
  team : Team
  group : Group
  jo : Nat
  pc : DWord
  deriving DecidableEq, Repr

/-- The rounding mode and `fmode` of an instruction in a group (R211, R213). -/
def fEnv (m : Mod) (g : Group) : FEnv := ⟨rmOf m.rm g.frm, g.ftz, g.daz⟩

/-- `faddr` of an illegal instruction: the word, or the prefix and the word after it (R360). -/
def wordsAddr (ws : List Word) : DWord :=
  match ws with
  | [] => 0
  | [w] => dw w.toNat
  | w :: x :: _ => dw (w.toNat + 2 ^ 32 * x.toNat)
/-- A load whose data an instruction must wait for: its window is used up, the instruction touches its destination, or it is a
global memory instruction (R149). -/
def Thread.blockedBy (x : Thread) (vs gs : List Nat) (gm : Bool) : Option Nat :=
  x.loads.findSome? fun l =>
    if l.left = 0 || gm || (if l.uniform then gs else vs).any (fun r => decide (l.dst ≤ r) && decide (r < l.dst + l.n)) then
      some l.id
    else none
/-- One more instruction of the thread has issued (R149). -/
def Thread.tick (x : Thread) : Thread := { x with loads := x.loads.map fun l => { l with left := l.left - 1 } }

/-- The register-cache lines of a word of a thread: its thread record, of the thread area, the vector registers `rs`, 16 threads to a
line, and the uniform registers `gs`, 8 to a line (R154). Which words look which lines up is the model's choice (log 66). -/
def rcTags (q : ThreadRef) (rs gs : List Nat) : List RcTag :=
  ⟨.thread, q.ctx, q.grp, q.idx, 0⟩ :: ((rs.map fun r => ⟨.vector, q.ctx, q.grp, r, q.idx / 16⟩) ++
    gs.map fun g => ⟨.uniform, q.ctx, q.grp, g / 8, 0⟩)
/-- Lines asked for (R154). -/
def State.askLines (s : State) (core : Nat) (ts : List RcTag) : State :=
  ts.foldl (fun s t =>
    if (s.core core).rc.contains t || (s.core core).rcAsked.contains t then s
    else (s.modCore core fun k => { k with rcAsked := k.rcAsked ++ [t] }).post (.registerCacheFill core t)) s
/-- Lines used: they become the most recently used (R154). -/
def State.useLines (s : State) (core : Nat) (ts : List RcTag) : State :=
  s.modCore core fun k => { k with rc := (ts.filter fun t => k.rc.contains t) ++ k.rc.filter fun t => !(ts.contains t) }

/-- The fate of one thread of the issue set at a lane-set word (R362): legality, jet alignment, then waits, then the word's own
effect. `gm`: a global memory instruction. -/
def State.laneFate (s : State) (core : Nat) (r : Run) (i : Instr) (m : Mod) (gm : Bool) (vs : List VOp) (gs : List Nat)
    (fate : LaneCtx → Thread → Fate) (q : ThreadRef) : Option (ThreadRef × Fate) :=
  match s.team? q.ctx, s.group? q.ctx q.grp, s.thread? q with
  | some t, some g, some x =>
    some (q,
      if !i.wf || vs.any (fun o => decide ((t.role g).vregs < o.need)) then .fault cIllegal 0 (wordsAddr (encode i))
      else match (if takesPart m x then vs.find? (fun o => o.crooked r.jo) else none) with
      | some o => .fault cJet 0 (dw o.reg)
      | none =>
        match x.blockedBy (vs.flatMap VOp.regs) gs gm with
        | some l => .wait (.loadData l)
        | none =>
          match (rcTags q (vs.flatMap VOp.regs) gs).find? (fun t => !((s.core core).rc.contains t)) with
          | some t => .wait (.rcLine t)
          | none => fate ⟨q, core, t, g, r.jo, r.pc⟩ x.tick)
  | _, _, _ => none
/-- The fates of the issue set. -/
def State.laneFates (s : State) (core : Nat) (r : Run) (i : Instr) (m : Mod) (gm : Bool) (vs : List VOp) (gs : List Nat)
    (fate : LaneCtx → Thread → Fate) : List (ThreadRef × Fate) :=
  r.set.filterMap (s.laneFate core r i m gm vs gs fate)
/-- The register-cache lines that an issue set names. -/
def runTags (r : Run) (vs : List VOp) (gs : List Nat) : List RcTag := (r.set.flatMap fun q => rcTags q (vs.flatMap VOp.regs) gs).eraseDups
/-- The register cache after a word has named its operands: lines used, and lines asked for if the word is legal. -/
def State.nameLines (s : State) (core : Nat) (r : Run) (fs : List (ThreadRef × Fate)) (vs : List VOp) (gs : List Nat) : State :=
  (s.useLines core (runTags r vs gs)).askLines core (fs.filterMap fun f => match f.2 with
    | .wait (.rcLine t) => some t
    | _ => none)
/-- A lane-set word issues: each thread meets its fate. -/
def State.issueLane (s : State) (i : Instr) (m : Mod) (vs : Nat → List VOp) (gs : List Nat) (fate : LaneCtx → Thread → Fate) :
    State :=
  match s.run? with
  | none => s
  | some (c, r) =>
    let fs := s.laneFates c r i m false (vs r.jo) gs fate
    (s.nameLines c r fs (vs r.jo) gs).meet i fs
/-- A lane-set arithmetic word issues (R262): a participating thread takes `f`'s result and flags, another keeps its destination or,
with Z = 1, has it zeroed by `z`. -/
def State.laneArith (s : State) (i : Instr) (m : Mod) (vs : Nat → List VOp) (gs : List Nat) (z : Nat → Thread → Thread)
    (f : LaneCtx → Thread → Thread × BitVec 40) : State :=
  s.issueLane i m vs gs fun c x =>
    if takesPart m x then .go (f c x).1 (f c x).2
    else if m.z then .go (z c.jo x) 0#40
    else .go x 0#40

/-- Registers from `r` on zeroed, as an operand opens them (R262). -/
def Thread.clear (x : Thread) (o : VOp) : Thread := x.setRs o.reg o.n 0
/-- An operand's registers as one number (R6). -/
def Thread.get (x : Thread) (o : VOp) : Nat := x.rs o.reg o.n
/-- An operand's registers written with a number. -/
def Thread.set (x : Thread) (o : VOp) (v : Nat) : Thread := x.setRs o.reg o.n v

/-! ## Mask pairs (R155) -/

/-- The thread is ready behind the instruction at which it waits (R147). -/
def Thread.released (x : Thread) (n now : Nat) : Thread := { x with pc := ptrAdd x.pc (4 * n), st := .ready, since := now, arr := none }
/-- Threads of a group that wait in a `rejoin` of mask register `g`. -/
def Group.inRejoin (q : Group) (g : Nat) : List Nat :=
  q.threads.filterMap fun p => if p.2.st = .waiting (.rejoin g) then some p.1 else none
/-- A mask pair whose two masks agree releases the threads waiting in its `rejoin`, and is cleared (R155). -/
def Group.rejoinAt (q : Group) (now g : Nat) : Group :=
  if q.gr g = q.gr (g + 1) ∧ q.inRejoin g ≠ [] then
    { (q.setG g 0).setG (g + 1) 0 with
      threads := q.threads.mapVals fun _ x => if x.st = .waiting (.rejoin g) then x.released 1 now else x }
  else q
/-- Every mask pair of a group settled. -/
def Group.rejoinAll (q : Group) (now : Nat) : Group :=
  if q.threads.any (fun p => match p.2.st with | .waiting (.rejoin _) => true | _ => false) then
    (List.range 32).foldl (fun q k => q.rejoinAt now (2 * k)) q
  else q

/-! ## Issue of a uniform-set word -/

/-- What a uniform-set word finds: the core and the run, the group, and the threads of the issue set (R186, R330). -/
structure UniCtx where
  core : Nat
  run : Run
  ctx : Nat
  grp : Nat
  team : Team
  group : Group
  ts : List ThreadRef
  deriving DecidableEq, Repr

/-- What a uniform-set word does (R146, R330). -/
inductive UFate where
  /-- The run goes on behind it. -/
  | go (s : State)
  /-- The run ends and its threads are ready at the target. -/
  | jump (s : State) (pc : DWord)
  /-- The run ends; the word has put its threads where they go. -/
  | leave (s : State)
  /-- It waits; the issue set stalls. -/
  | wait (s : State) (c : Stall)
  /-- Every thread of the issue set faults. -/
  | fault (cause detail : Nat) (addr : DWord)
  /-- Every thread of the issue set faults, in a state already changed. -/
  | faultIn (s : State) (cause detail : Nat) (addr : DWord)
  deriving DecidableEq, Repr

/-- The issuing run ends. -/
def State.dropRun (s : State) : State :=
  match s.cur with
  | none => s
  | some (c, rid) => s.modCore c fun k => { k with runs := k.runs.filter fun r => r.rid != rid }
/-- A uniform-set word's fate takes effect. -/
def State.meetUni (s : State) (i : Instr) (u : UniCtx) (f : UFate) : State :=
  match f with
  | .go s' => ((s'.modGroup u.ctx u.grp fun g => g.rejoinAll s.cycle).eachThread u.ts Thread.tick).finish i u.ts false
  | .jump s' pc =>
    (s'.eachThread u.ts fun x => { x.tick with pc := pc, st := .ready, since := s.cycle }).dropRun
  | .leave s' => s'.dropRun
  | .wait s' c => s'.stall c
  | .fault c d a => (s.dropRun).takeFaults (u.ts.map fun q => (q, c, d, a)) u.run.pc
  | .faultIn s' c d a => (s'.dropRun).takeFaults (u.ts.map fun q => (q, c, d, a)) u.run.pc
/-- What a uniform-set word finds, if a run issues. -/
def State.uniCtx (s : State) : Option UniCtx :=
  match s.run? with
  | none => none
  | some (c, r) =>
    match r.set with
    | [] => none
    | q :: _ =>
      match s.team? q.ctx, s.group? q.ctx q.grp with
      | some t, some g => some ⟨c, r, q.ctx, q.grp, t, g, r.set⟩
      | _, _ => none
/-- A word that names the group's engine record (R154, R163, R345, R351, R352). -/
def namesEngine (i : Instr) : Bool :=
  match i with
  | .qpush _ _ | .qpop _ _ _ | .waitn _ _ _ => true
  | _ => false
/-- The register-cache lines of a uniform-set word: those of the uniform registers `gs`, and the first of the group's engine record where
the word names that (R154, log 66). -/
def uniTags (i : Instr) (u : UniCtx) (gs : List Nat) : List RcTag :=
  (gs.map fun g => ⟨.uniform, u.ctx, u.grp, g / 8, 0⟩) ++ if namesEngine i then [⟨.engine, u.ctx, u.grp, 0, 0⟩] else []
/-- The lines that a word used become the most recently used, where the word is done (R154). -/
def UFate.used (f : UFate) (core : Nat) (ts : List RcTag) : UFate :=
  match f with
  | .go s => .go (s.useLines core ts)
  | .jump s pc => .jump (s.useLines core ts) pc
  | .leave s => .leave (s.useLines core ts)
  | f => f
/-- A uniform-set word issues (R330, R362): legality, lookahead windows, the register cache, then its own effect. `gs`: the uniform
registers it names. -/
def State.issueUni (s : State) (i : Instr) (gm : Bool) (gs : List Nat) (sem : UniCtx → State → UFate) : State :=
  match s.uniCtx with
  | none => s
  | some u =>
    s.meetUni i u
      (if !i.wf then .fault cIllegal 0 (wordsAddr (encode i))
       else match u.ts.findSome? (fun q => (s.thread? q).bind fun x => x.blockedBy [] gs gm) with
       | some l => .wait s (.loadData l)
       | none =>
         match (uniTags i u gs).find? (fun t => !((s.core u.core).rc.contains t)) with
         | some t => .wait (s.askLines u.core [t]) (.rcLine t)
         | none => (sem u s).used u.core (uniTags i u gs))
/-- A uniform-set word that only writes one uniform register (R330). -/
def State.uniWrite (s : State) (i : Instr) (gs : List Nat) (d : Nat) (f : Group → DWord) : State :=
  s.issueUni i false (d :: gs) fun u s => .go (s.modGroup u.ctx u.grp fun g => g.setG d (f u.group))

end Sys2Proof.Machine
end

