-- ==== Sys2Proof/Machine/Request.lean ====
section
/-! DEFINITION. Global requests between a core, its slices and other devices: permits (R134), lookups in the pair cache (R57), the
port a packet takes (R394), atomics (R287, R288), and the replies that a request's outcome sends back (R100, R148, R149). -/

namespace Sys2Proof.Machine

/-! ## Requests -/

/-- The effective address of a request, key index included (R31). -/
def reqEa (r : Req) : DWord := dw (r.kidx.toNat * 2 ^ 60 + r.va.toNat)
/-- The line a request falls in. -/
def reqLine (r : Req) : Nat := r.va.toNat / 64
/-- Stores and atomics (R29). -/
def reqWrites (r : Req) : Bool :=
  match r.acc with
  | .store => true
  | .atomic _ => true
  | _ => r.excl
/-- The request is a thread's or a group's: its outcome resumes threads. -/
def clientThreads (c : Client) : List ThreadRef :=
  match c with
  | .thread q => [q]
  | .group ctx grp ts => ts.map fun i => ⟨ctx, grp, i⟩
  | .stashSet ctx grp ts => ts.map fun i => ⟨ctx, grp, i⟩
  | .stash _ _ q => [q]
  | .lane q => [q]
  | .fetch _ q => [q]
  | _ => []
/-- The request enters the slice's miss table: its permit goes back, and a held request may leave (R134). -/
def State.returnPermit (s : State) (r : Req) : State :=
  let n := s.sliceFor r.part r.die r.va.toNat
  match (s.core r.core).heldReqs.find? (fun h => h.1 == n) with
  | some h => (s.modCore r.core fun k => { k with heldReqs := k.heldReqs.erase h }).post (match h.2.2 with
    | some v => .sliceRenewal h.2.1 v
    | none => .sliceRequest h.2.1)
  | none => s.modCore r.core fun k => { k with permits := k.permits.store 0 n (k.permits.getD n 0 - 1) }
/-! ## Other devices -/

/-- A request that ends as uncorrectable: the contexts it was made for consume poison, directly or through their engines (R397, R408). -/
def State.uncorrectable (s : State) (r : Req) : State :=
  match r.client with
  | .engine _ => match s.team? r.ctx.toNat with
    | some t => s.postAll (((t.refs r.ctx.toNat).take 1).map fun q => .poisonConsumed q)
    | none => s
  | .net _ _ => s.post (.verdictArrival r (.cancelled 0))
  | .agent _ => s.post (.verdictArrival r (.cancelled 0))
  | c => s.postAll ((clientThreads c).map fun q => .poisonConsumed q)
/-- A request sent to another device's home. -/
def State.askDevice (s : State) (dev home : Nat) (r : Req) : State :=
  match s.portFor dev r.va.toNat with
  | some p =>
    ((s.modDev fun d => { d with asked := d.asked ++ [(dev, p, r)] }).sendMsg p dev (.request home r))
  | none => s.uncorrectable r
/-! ## Atomics -/

/-- The new value of an atomic's word (R287, R288): operation, old value, operand, expected value. -/
def atomFn (op : BitVec 4) (old v cmp : Nat) : Nat :=
  match op.toNat with
  | 0 => (old + v) % 2 ^ 32
  | 1 => (fAdd F32 FEnv.plain old v).1
  | 2 => if sint 32 v < sint 32 old then v else old
  | 3 => if sint 32 old < sint 32 v then v else old
  | 4 => min old v
  | 5 => max old v
  | 6 => old &&& v
  | 7 => old ||| v
  | 8 => old ^^^ v
  | 9 => v
  | 10 => if old = cmp then v else old
  | 11 => (old + v) % 2 ^ 64
  | _ => if old = cmp then v else old
/-- The bytes that a store or atomic leaves in place of `old`. -/
def reqNew (r : Req) (old : Nat) : Nat :=
  match r.acc with
  | .atomic op => atomFn op old r.data.toNat r.cmp.toNat
  | _ => r.data.toNat % 2 ^ (8 * r.size)
/-- A line with the bytes of `m` taken from `d`. -/
def lineMerge (l d : Line) (m : BitVec 64) : Line :=
  (setBits 64 m.toNat).foldl (fun l i => linePut l i 1 (lineGet d i 1)) l
/-- A line after a store or atomic, and the old bytes. -/
def reqApply (r : Req) (l : Line) : Line × Nat :=
  let o := r.va.toNat % 64
  let old := lineGet l o r.size
  match r.client with
  | .lane _ => (lineMerge l r.data r.mask, old)
  | _ => (linePut l o r.size (reqNew r old), old)
/-- The release tag of a line after the request (R104). -/
def reqTag (r : Req) (tag : DWord) : DWord := if tag < r.tag then r.tag else tag

/-! ## Outcomes -/

/-- A verdict goes to the requester (R148). -/
def State.tell (s : State) (r : Req) (v : Verdict) : State :=
  if r.dev ≠ s.dev.no then s.toDevice r.dev r.va.toNat (.verdict r v)
  else match r.client with
    | .thread _ => s.post (.verdictArrival r v)
    | .group _ _ _ => s.post (.verdictArrival r v)
    | .stashSet _ _ _ => s.post (.verdictArrival r v)
    | .fetch _ _ =>
      match v with
      | .pass => s
      | .held => s.post (.icacheFill r .held)
      | .cancelled c => s.post (.icacheFill r (.denied c))
      | .region => s.post (.icacheFill r .region)
    | .stash _ _ _ =>
      match v with
      | .pass => s
      | .held => s.post (.stashFill r .held)
      | .cancelled c => s.post (.stashFill r (.denied c))
      | .region => s.post (.stashFill r .region)
    | .engine _ => s.post (.verdictArrival r v)
    | .net _ _ => s.post (.verdictArrival r v)
    | .agent _ => s.post (.verdictArrival r v)
    | .lane _ =>
      match v with
      | .region => s.postAt (s.clock + 4096) (.retryReissue r)
      | _ => s
/-- A store or atomic has been performed and has its W: the issuing pair's copy is updated, or dropped by an atomic, and the reply
travels back (R60, R100). -/
def State.accepted (s : State) (r : Req) (old w : Nat) (tag : DWord) : State :=
  if r.dev ≠ s.dev.no then
    match r.acc with
    | .atomic _ => s.toDevice r.dev r.va.toNat (.result r (BitVec.ofNat 128 old) w tag)
    | _ => s.toDevice r.dev r.va.toNat (.accepted r w tag)
  else
    match r.acc with
    | .atomic _ =>
      (s.modPair (r.core / 2) fun xs => xs.filter fun x => x.line != reqLine r).post
        (.atomicResultArrival r (BitVec.ofNat 128 old) w tag)
    | _ =>
      (s.modPair (r.core / 2) fun xs => xs.map fun x =>
        if x.line = reqLine r then { x with data := (reqApply r x.data).1, tag := if x.tag < tag then tag else x.tag } else x).post
          (.storeReply r w)
/-- A set of the pair cache after a line has come in: at most 8 lines with the same VA[15:6], the least recently used leaving (R53). -/
def pairPut (xs : List CLine) (x : CLine) : List CLine :=
  let rest := xs.filter fun y => !(y.line == x.line)
  let same := rest.filter fun y => y.line % 1024 == x.line % 1024
  x :: (if same.length < 8 then rest else match same.getLast? with
    | some y => rest.filter fun z => z.line != y.line
    | none => rest)
/-- A set of the instruction cache after a line has come in: at most 4 lines with the same VA[14:6] (R53). -/
def icachePut (xs : List CLine) (x : CLine) : List CLine :=
  let rest := xs.filter fun y => !(y.line == x.line)
  let same := rest.filter fun y => y.line % 512 == x.line % 512
  x :: (if same.length < 4 then rest else match same.getLast? with
    | some y => rest.filter fun z => z.line != y.line
    | none => rest)
/-- Loads of threads, groups and lane stores look in the pair cache and fill it (R54, R55, R57); engines and agents never do (R113, R119). -/
def clientPaired (c : Client) : Bool :=
  match c with
  | .thread _ => true
  | .group _ _ _ => true
  | .lane _ => true
  | _ => false
/-- The clients whose slice grants them a lease (R57, R61, R65). -/
def clientLeased (c : Client) : Bool :=
  match c with
  | .fetch _ _ => true
  | .stash _ _ _ => true
  | c => clientPaired c
/-- A line sets out for the requester that asked for it. -/
def State.handOver (s : State) (r : Req) (g : Grant) (lend ver : Nat) : State :=
  match r.client with
  | .fetch _ _ => s.post (.icacheFill r (.filled g lend))
  | .stash _ _ _ => s.post (.stashFill r (.filled g lend))
  | .lane _ => s.post (.laneStoreFill r g.data)
  | _ => s.post (.loadDataArrival r g lend ver)
/-- The data of a line goes to the requester of a load, with the lease that ends at `lend`, 0 for none (R57, R58). -/
def State.deliver (s : State) (r : Req) (g : Grant) (lend ver : Nat) : State :=
  if r.dev ≠ s.dev.no then s.toDevice r.dev r.va.toNat (.lease r g lend)
  else
    let s := if lend = 0 ∨ clientPaired r.client = false then s
      else s.modPair (r.core / 2) fun xs => pairPut xs ⟨reqLine r, g.gkid, lend, ver, g.data, g.tag⟩
    s.handOver r g lend ver
/-- The pair cache's line for a load, by its line and key (R57); the dispatcher's own right needs no key (R54). -/
def State.pairLine (s : State) (r : Req) : Option CLine :=
  (s.pair (r.core / 2)).find? fun x => decide (x.line = reqLine r) && (x.gkid == r.gkid || r.own)
/-- A load leaves its core: served by the pair cache under a live lease, renewed there, or sent to the slice (R57, R119). -/
def State.sendLoad (s : State) (r : Req) : State :=
  match s.pairLine r with
  | some x =>
    if s.nowAt r.core < x.lend then
      let s := s.modPair (r.core / 2) fun xs => x :: xs.erase x
      (s.tell r .pass).handOver r ⟨x.data, 0, 0, 0, x.tag, 0, x.gkid, false⟩ x.lend x.ver
    else s.toSlice r (some x.ver)
  | none => s.toSlice r none
/-- A request leaves its core. -/
def State.send (s : State) (r : Req) : State :=
  match r.acc with
  | .load => if r.excl || !clientPaired r.client then s.toSlice r none else s.sendLoad r
  | _ => s.toSlice r none

/-! ## Lane-store fills -/

/-- A lane-store line is asked for, once, unless its last write-back is still under way (R55): it fills through the pair cache with the
dispatcher's own right. -/
def State.laneAsk (s : State) (core : Nat) (q : ThreadRef) (line : Nat) : State :=
  match s.team? q.ctx with
  | none => s
  | some t =>
    let k := s.core core
    if k.laneBusy q line || k.laneAsked.any (fun a => a.1 == q && a.2.1 == line) || decide (missRoom ≤ s.outstanding core) then s
    else
      let n := s.newId
      let va := t.priv q.grp q.idx + 64 * line
      let r := { reqOf s.dev.no t q.ctx core (.lane q) 0 0 with id := n.1, va := BitVec.ofNat 60 va, own := true }
      (n.2.modCore core fun k => { k with laneAsked := k.laneAsked ++ [(q, line, n.1)] }).send r

end Sys2Proof.Machine
end

