-- ==== Sys2Proof/Machine/Coherence.lean ====
section
/-! DEFINITION. The die-cache slices: lookup and performance of requests (R119, R121), renewals (R57), snoops (R67, R129), invalidations
(R128), grants (R125), and the stash lines behind them (R65 to R67). -/

namespace Sys2Proof.Machine

/-! ## Lines of a slice -/

/-- The sets of a slice and their ways: 2 MiB, 16-way (R2). -/
def sliceSets : Nat := 2048
/-- Ways of a set (R2). -/
def sliceWays : Nat := 16
/-- A slice gives a line up: a line it owns, from the stash behind it if there is one, goes to its home as a write-back and waits in the
write-back buffer; a line in S leaves with a notice of its Lmax (R121, R125, R129). -/
def State.giveUp (s : State) (n line : Nat) : State :=
  match (s.slice n).lines.find? line with
  | none => s
  | some x =>
    let i := s.heldInfo line x
    let h := s.homeOf (dieOfSlice n) (64 * line)
    let va := BitVec.ofNat 60 (64 * line)
    let s := s.dropLine n line
    if x.owns then
      if h.1 = s.dev.no then
        (s.modSlice n fun k => { k with wb := k.wb ++ [(line, i)] }).post (.writeBack h.2 (dieOfSlice n) va i)
      else s.toDevice h.1 (64 * line) (.writeBack h.2 s.dev.no (dieOfSlice n) va i 0)
    else match x.st with
      | .S => s.post (.cleanDropNotice h.2 (dieOfSlice n) va i.lmax)
      | _ => s
/-- The line that makes room in a full set: one that no stash holds and that is not dirty for others, else one in O, else one in K.
DESIGN CHOICE: the spec states neither the set of a line, here its number modulo 2,048, nor which line is replaced. Log 22. -/
def sliceVictim (ls : List (Nat × SliceLine)) : Option Nat :=
  let plain := ls.find? fun p => match p.2.st with
    | .O => false
    | .K _ => false
    | _ => true
  match plain, ls.find? (fun p => p.2.st == .O), ls.head? with
  | some p, _, _ => some p.1
  | none, some p, _ => some p.1
  | none, none, some p => some p.1
  | none, none, none => none
/-- A line put into a slice; a full set gives one up. -/
def State.slicePut (s : State) (n line : Nat) (x : SliceLine) : State :=
  let same := (s.slice n).lines.filter fun p => p.1 % sliceSets == line % sliceSets && p.1 != line
  let s := if same.length < sliceWays then s
    else match sliceVictim same with
      | some l => s.giveUp n l
      | none => s
  s.modSlice n fun k => { k with lines := k.lines.put line x }
/-- The line as a slice has it, if its key matches (R57). -/
def State.sliceHit (s : State) (n : Nat) (r : Req) : Option SliceLine :=
  match (s.slice n).lines.find? (reqLine r) with
  | some x => if x.gkid = r.gkid ∨ r.own = true then some x else none
  | none => none
/-- A lease is granted on a line: its end, 0 for none, and Lmax raised (R58). -/
def State.grantLease (s : State) (n line : Nat) : Nat × State :=
  match (s.slice n).lines.find? line with
  | none => (0, s)
  | some x =>
    let l := leaseNs x.lc.toNat
    let e0 := s.nowOn (dieOfSlice n) + l
    let e := match x.st with
      | .L m => min e0 m
      | _ => e0
    if l = 0 then (0, s) else (e, s.modSlice n fun k => { k with lines := k.lines.put line { x with lmax := max x.lmax e } })
/-- A slice's line goes to the requester of a load, with a lease if it takes one (R57, R58). -/
def State.serveLoad (s : State) (n : Nat) (r : Req) (x : SliceLine) : State :=
  let g := if clientLeased r.client then s.grantLease n (reqLine r) else (0, s)
  (g.2.tell r .pass).deliver r ⟨x.data, x.fd, x.fr, x.wl, x.tag, x.lc, x.gkid, false⟩ g.1 x.ver
/-- A store or atomic performed at a slice that owns the line (R121, R126). -/
def State.performAt (s : State) (n : Nat) (r : Req) (x : SliceLine) : State :=
  let w := wTime false (s.nowOn (dieOfSlice n)) x.wl x.fd x.fr x.lmax
  let d := reqApply r x.data
  let tag := reqTag r x.tag
  let v := s.newId
  (v.2.modSlice n fun k => { k with lines := k.lines.put (reqLine r) { x with st := .M, data := d.1, wl := w, tag := tag, ver := v.1 } }).accepted
    r d.2 w tag
/-- A request that its slice cannot serve, or of an agent that uses none, goes to the line's home by the requester's die's copy of the
tables; a region that is not active answers at once (R16, R17). -/
def State.toHome (s : State) (r : Req) : State :=
  let h := s.homeOf r.die r.va.toNat
  if s.regionSt r.die r.va.toNat ≠ 1 then s.tell r .region
  else if h.1 = s.dev.no then s.post (.homeRequest h.2 r)
  else s.askDevice h.1 h.2 r

/-! ## Requests of the agents of no cluster (R119) -/

/-- The request of a mail entry. -/
def State.mailReq (s : State) (part : Nat) (m : Mail) : Req where
  id := m.id
  client := .agent m.id
  acc := m.acc
  va := BitVec.ofNat 60 m.va
  kidx := 0
  gkid := m.gkid
  dom := m.dom
  part := part
  own := decide (m.n ≠ 0)
  reloc := false
  dev := s.dev.no
  die := s.seat m.agent
  core := 0
  ctx := 0
  pc := 0
  next := 0
  size := m.n
  data := BitVec.ofNat 512 (ofBytes m.bytes)
  cmp := 0
  tag := dw m.tag
  dst := 0
  szc := 0
  look := 0
  order := 0
  scope := 0
  excl := m.acc != .load
  upg := false
  direct := true
  mask := BitVec.allOnes 64
/-- An agent asks for an access, once. -/
def State.mailAsk (s : State) (part : Nat) (m : Mail) : State :=
  if (s.mailFor m.agent m.va m.n m.acc m.bytes).isSome then s
  else
    let n := s.newId
    let m := { m with id := n.1, st := .asked }
    { n.2 with mail := n.2.mail ++ [m] }.toHome (n.2.mailReq part m)
/-- An agent asks for what it cannot read of a range at once. -/
def State.podAsk (s : State) (part agent fuel va n : Nat) : State :=
  (linePieces fuel va n).foldl (fun s p =>
    if (s.pieceRead agent p.1 p.2).isSome || s.pieceFails agent p.1 p.2 .load [] then s
    else s.mailAsk part ⟨0, agent, p.1, p.2, .load, 0, 0, [], 0, .asked⟩) s
/-- An agent asks for what it cannot write of a range at once. -/
def State.podAskW (s : State) (part agent fuel va : Nat) (bs : List Byte) : State :=
  (linePieces fuel va bs.length).foldl (fun s p =>
    let b := (bs.drop (p.1 - va)).take p.2
    if (s.pieceWrite agent p.1 b).isSome || s.pieceFails agent p.1 p.2 .store b then s
    else s.mailAsk part ⟨0, agent, p.1, p.2, .store, 0, 0, b, 0, .asked⟩) s
/-- An agent asks for a change of 8 bytes that it cannot make at once. -/
def State.rmwAsk (s : State) (part agent va tag : Nat) (acc : Acc) (bytes : List Byte) : State :=
  s.mailAsk part ⟨0, agent, va, 8, acc, 0, 0, bytes, tag, .asked⟩
/-- Some piece of a range cannot be written. -/
def State.podFailsW (s : State) (agent fuel va : Nat) (bs : List Byte) : Bool :=
  (linePieces fuel va bs.length).any fun p => s.pieceFails agent p.1 p.2 .store ((bs.drop (p.1 - va)).take p.2)
/-- The outcome of an agent's request is noted. -/
def State.mailNote (s : State) (id : Nat) (st : MailSt) : State :=
  { s with mail := s.mail.map fun m => if m.id = id then { m with st := st } else m }

/-! ## Stash lines as the slices reach them (R67) -/

/-- The cluster of a stash client. -/
def stashCluster (c : Client) : Option Nat :=
  match c with
  | .stash k _ _ => some k
  | _ => none
/-- A line is on its way from its slice to a stash of a cluster (R65, R66). -/
def State.travels (s : State) (c line : Nat) : Bool :=
  s.agenda.any fun e => match e with
    | .stashFill r (.filled _ _) => r.excl && stashCluster r.client == some c && decide (reqLine r = line)
    | .stashUpgradeGrant r _ => stashCluster r.client == some c && decide (reqLine r = line)
    | _ => false
/-- A line that a slice owns is handed to a stash of its cluster (R65, R121). -/
def State.handToStash (s : State) (n : Nat) (r : Req) (x : SliceLine) (c : Nat) : State :=
  (s.modSlice n fun k => { k with lines := k.lines.put (reqLine r) { x with st := .K c } }).post
    (.stashFill r (.filled ⟨x.data, x.fd, x.fr, x.wl, x.tag, x.lc, x.gkid, x.info.dirty⟩ 0))

/-! ## Requests -/

/-- A slice serves a request (R119, R121, R148): from its line, as its coherence point, by an upgrade, or through the home. -/
def State.serveSlice (s : State) (r : Req) : State :=
  let n := s.sliceFor r.part r.die r.va.toNat
  let line := reqLine r
  match r.client with
  | .stashSet _ _ _ => s.toHome r
  | _ =>
    match s.sliceHit n r with
    | none => s.toHome r
    | some x0 =>
      let late := match x0.st with
        | .K c => !r.upg && s.travels c line
        | _ => false
      if late then s.modSlice n fun k => { k with wait := k.wait ++ [r] }
      else
      let s := match x0.st with
        | .K _ => if r.upg then s else s.stashYield n line (reqWrites r)
        | _ => s
      match s.sliceHit n r with
      | none => s.toHome r
      | some x =>
        match x.st with
        | .L e => if reqWrites r || decide (e ≤ s.nowOn r.die) then s.toHome r else s.serveLoad n r x
        | .K _ => if reqWrites r then s.toHome { r with upg := true } else s.serveLoad n r x
        | .S => if reqWrites r then s.toHome { r with upg := true } else s.serveLoad n r x
        | .O => if reqWrites r then s.toHome { r with upg := true } else s.serveLoad n r x
        | _ =>
          if reqWrites r then
            match stashCluster r.client with
            | some c => s.handToStash n r x c
            | none => (s.tell r .pass).performAt n r x
          else s.serveLoad n r x
/-- Requests that waited for a line on its way to a stash are served (R67). -/
def State.serveWaiting (s : State) (n line : Nat) : State :=
  let rs := (s.slice n).wait.filter fun r => reqLine r == line
  rs.foldl State.serveSlice (s.modSlice n fun k => { k with wait := k.wait.filter fun r => reqLine r != line })
/-- SLICE_REQUEST (R119, R134). -/
def execSliceRequest (r : Req) (s : State) : Host.Outcome State Fault Refusal :=
  .next ((s.returnPermit r).serveSlice r)
/-- SLICE_RENEWAL (R57): an unchanged copy receives a new lease only. -/
def execSliceRenewal (r : Req) (ver : Nat) (s : State) : Host.Outcome State Fault Refusal :=
  let s := s.returnPermit r
  let n := s.sliceFor r.part r.die r.va.toNat
  match s.sliceHit n r, s.pairLine r with
  | some x, some y =>
    let live := match x.st with
      | .K _ => false
      | .L e => decide (s.nowOn r.die < e)
      | _ => true
    if x.ver = ver ∧ y.ver = ver ∧ live = true then
      let g := s.grantLease n (reqLine r)
      if g.1 = 0 then .next (s.serveSlice r)
      else .next (((g.2.modPair (r.core / 2) fun ys => { y with lend := g.1 } :: ys.erase y).tell r .pass).handOver r
        ⟨y.data, 0, 0, 0, y.tag, 0, y.gkid, false⟩ g.1 ver)
    else .next (s.serveSlice r)
  | _, _ => .next (s.serveSlice r)

/-! ## Messages from the home -/

/-- The home ID as the set list has it (R13). -/
def homeId (dev home : Nat) : Nat := dev * 256 + home

/-- The slices of a die drop a line, but slice `keep`: the largest Lmax of those that did. -/
def State.clearDie (s : State) (die line : Nat) (keep : Option Nat) : Nat × State :=
  let hs := (s.holders die line).filter fun n => keep != some n
  (maxL 0 (hs.filterMap fun n => ((s.slice n).lines.find? line).map fun x => x.lmax), hs.foldl (fun s n => s.dropLine n line) s)
/-- INVALIDATION (R125, R128). -/
def execInvalidation (home die : Nat) (va : VAddr) (s : State) : Host.Outcome State Fault Refusal :=
  let c := s.clearDie die (va.toNat / 64) none
  .next (c.2.post (.invalidationAck home die va c.1))
/-- A line as its owner sends it away, every copy of the die gone: the largest Lmax goes with it. -/
def State.sendAway (s : State) (die line : Nat) (i : LineInfo) : LineInfo × State :=
  let c := s.clearDie die line none
  ({ i with lmax := max i.lmax c.1 }, c.2)
/-- The slice of a die that owns a line. -/
def State.ownerSlice (s : State) (die line : Nat) : Option (Nat × SliceLine) :=
  (s.holders die line).findSome? fun n =>
    match (s.slice n).lines.find? line with
    | some x => if x.owns then some (n, x) else none
    | none => none
/-- FORWARDED_SNOOP (R123, R129): the owner supplies the line, keeps O or drops it; under K the stash does; a line on its way to the home
is answered as in flight. -/
def execForwardedSnoop (home die : Nat) (va : VAddr) (excl : Bool) (s : State) : Host.Outcome State Fault Refusal :=
  let line := va.toNat / 64
  match s.ownerSlice die line with
  | none => .next (s.post (.snoopResponse home die va .inFlight))
  | some (n, x) =>
    match x.st with
    | .K c =>
      match s.stashOf c va.toNat with
      | some (ctx, slot, _, _) =>
        match s.team? ctx with
        | some t => .next (s.post (.stashSnoop (homeId s.dev.no home) t.part ⟨c, (t.slot slot).bank⟩ va excl))
        | none => .next (s.post (.snoopResponse home die va .inFlight))
      | none =>
        let i := s.heldInfo line x
        let a := if excl then s.sendAway die line i else (i, s)
        .next (a.2.post (.snoopResponse home die va (.data a.1)))
    | _ =>
      let i := s.heldInfo line x
      let a := if excl then s.sendAway die line i
        else (i, s.modSlice n fun k => { k with lines := k.lines.put line { x with st := .O } })
      .next (a.2.post (.snoopResponse home die va (.data a.1)))
/-- A stash of this device that owns a line homed on device `src` answers a snoop made for its partition `part` (R67, R124, R388). -/
def State.remoteSnoop (s : State) (src home part cluster : Nat) (va : VAddr) (excl : Bool) : State :=
  let die := dieOfCluster cluster
  let miss := s.toDevice src va.toNat (.snoopResp home s.dev.no die va .inFlight part)
  match s.stashOf cluster va.toNat with
  | none => miss
  | some (ctx, slot, r, i) =>
    match r.lines.find? i with
    | none => miss
    | some y =>
      if y.st = .S then miss
      else
        let d := s.stashInfo ctx slot i y
        let s := s.modStash ctx slot fun r => { r with lines := if excl then r.lines.del i else r.lines.put i { y with st := .O } }
        s.toDevice src va.toNat (.snoopResp home s.dev.no die va (.data d) part)
/-- STASH_SNOOP (R67): the stash supplies the line to its slice, which answers the home; `home` is a home ID of R13, and a home of another
device is answered over the fabric. -/
def execStashSnoop (home part : Nat) (stash : StashAt) (va : VAddr) (excl : Bool) (s : State) : Host.Outcome State Fault Refusal :=
  let cluster := stash.cluster
  if 96 ≤ cluster ∨ 32 ≤ stash.bank then .fault .noSuchUnit
  else if home / 256 ≠ s.dev.no then .next (s.remoteSnoop (home / 256) (home % 256) part cluster va excl)
  else
    let home := home % 256
    let die := dieOfCluster cluster
    let line := va.toNat / 64
    match s.ownerSlice die line with
    | none => .next (s.post (.snoopResponse home die va .inFlight))
    | some (n, x) =>
      let i := s.heldInfo line x
      let s := s.stashYield n line excl
      let a := if excl then s.sendAway die line i else (i, s)
      .next (a.2.post (.snoopResponse home die va (.data a.1)))
/-- WRITE_BACK_ACK (R129). -/
def execWriteBackAck (die : Nat) (va : VAddr) (s : State) : Host.Outcome State Fault Refusal :=
  .next { s with slices := s.slices.mapVals fun n (k : Slice) =>
    if dieOfSlice n = die then { k with wb := match k.wb.find? (fun w => w.1 == va.toNat / 64) with
      | some w => k.wb.erase w
      | none => k.wb } else k }
/-- OWNERSHIP_GRANT (R123, R125): the slice owns the line; it performs the waiting store or atomic, or hands the line to the stash. -/
def execOwnershipGrant (r : Req) (g : Grant) (s : State) : Host.Outcome State Fault Refusal :=
  let n := s.sliceFor r.part r.die r.va.toNat
  let line := reqLine r
  let v := s.newId
  let c := v.2.clearDie r.die line (some n)
  let s := c.2
  let g := { g with fd := max g.fd c.1 }
  let base : SliceLine := ⟨if g.dirty then .M else .E, g.gkid, g.lc, g.data, 0, g.wl, g.tag, g.fd, g.fr, v.1⟩
  let x : SliceLine := match (s.slice n).lines.find? line with
    | some y =>
      match y.st with
      | .E => { y with fd := g.fd, fr := g.fr, wl := max y.wl g.wl, lc := g.lc, gkid := g.gkid }
      | .M => { y with fd := g.fd, fr := g.fr, wl := max y.wl g.wl, lc := g.lc, gkid := g.gkid }
      | .O => { y with st := .M, fd := g.fd, fr := g.fr, wl := max y.wl g.wl, lc := g.lc, gkid := g.gkid }
      | .K _ => { y with fd := g.fd, fr := g.fr, wl := max y.wl g.wl, lc := g.lc, gkid := g.gkid }
      | .S => { base with lmax := y.lmax }
      | _ => base
    | none => base
  match stashCluster r.client, x.st with
  | some _, .K _ =>
    .next ((s.slicePut n line x).post (.stashUpgradeGrant r { g with fd := x.fd, fr := x.fr, wl := x.wl }))
  | some c, _ => .next ((s.slicePut n line x).handToStash n r x c)
  | none, _ => .next ((s.slicePut n line x).performAt n r x)
/-- RECALL_DROP (R127). -/
def execRecallDrop (unit : NearUnit) (va : VAddr) (s : State) : Host.Outcome State Fault Refusal :=
  let line := va.toNat / 64
  match unit with
  | .pairCache p => .next (s.modPair p fun xs => xs.filter fun x => x.line != line)
  | .icache c => .next (s.modCore c fun k =>
      { k with icache := k.icache.filter (fun x => x.line != line), once := k.once.filter fun o => o.2.2.line != line })
  | .stash cl bank =>
    match s.stashOf cl va.toNat with
    | some (ctx, slot, rec, i) =>
      match s.team? ctx with
      | some t =>
        if (t.slot slot).bank = bank ∧ rec.wr = false then .next (s.modStash ctx slot fun r => { r with lines := r.lines.del i })
        else .next s
      | none => .next s
    | none => .next s

/-! ## Stash fills -/

/-- A thread waits for a stash line: by itself, with its set, or in a run that stalls for it (R65, R144). -/
def State.waitsStash (s : State) (q : ThreadRef) (c : Stall) : Bool :=
  match s.thread? q, s.group? q.ctx q.grp with
  | some x, some g => (match x.st with
    | .parked d _ => d == c
    | _ => false) || (s.core g.core).runs.any fun r => r.set.contains q && (match r.stall with
      | some (d, _) => d == c
      | none => false)
  | _, _ => false
/-- A thread leaves the run it is in; a run without threads is over. -/
def State.outOfRun (s : State) (q : ThreadRef) : State :=
  match s.group? q.ctx q.grp with
  | some g => s.modCore g.core fun k =>
    { k with runs := (k.runs.map fun (r : Run) => { r with set := r.set.filter fun t => t != q }).filter fun r => !r.set.isEmpty }
  | none => s
/-- A bound issue set that stalls for a cause gives up its place at once: a request it waits for is held at its home (R144, R363). -/
def State.giveUpPlace (s : State) (core : Nat) (c : Stall) : State :=
  let rs := (s.core core).runs.filter fun r => match r.stall with
    | some (d, _) => d == c
    | none => false
  rs.foldl (fun s r => (s.eachThread r.set fun x => { x with st := .parked c true, pc := r.pc }).modCore core fun k =>
    { k with runs := k.runs.filter fun q => q.rid != r.rid }) s
/-- The bank line of a stash takes data and a state. -/
def State.stashTake (s : State) (cl bank ctx slot i : Nat) (st : StashSt) (g : Grant) (lend : Nat) : State :=
  (s.bankPut cl bank (64 * i) 64 g.data.toNat).modStash ctx slot fun q => { q with lines := q.lines.put i ⟨st, lend, g.wl, g.tag, g.fd, g.fr⟩ }
/-- The slice of a die that holds a line under K for a cluster, or none is needed: the home is another device's (R121, R124). -/
def State.stashBacked (s : State) (cl line : Nat) : Bool :=
  decide ((s.homeOf (dieOfCluster cl) (64 * line)).1 ≠ s.dev.no) || match s.ownerSlice (dieOfCluster cl) line with
    | some (_, x) => x.st == .K cl
    | none => false
/-- STASH_FILL (R65, R67, R69): the line arrives in the bank, or the refusal is kept for the next access. A request held at its home keeps
its threads out of every issue set; a cancelled one faults its thread. -/
def execStashFill (r : Req) (res : FillRes) (s : State) : Host.Outcome State Fault Refusal :=
  match r.client with
  | .stash cl bank t =>
    match s.stashOf cl r.va.toNat with
    | none => .next (s.serveWaiting (s.sliceFor r.part r.die r.va.toNat) (reqLine r))
    | some (ctx, slot, _, i) =>
      if res = .held then .next (s.giveUpPlace r.core (.stashLine cl bank i))
      else
      let waits := s.waitsStash t (.stashLine cl bank i)
      let s := s.modStash ctx slot fun q => { q with asked := q.asked.erase i }
      match res with
      | .region => .next (s.modStash ctx slot fun q => { q with closed := i :: q.closed })
      | .denied c =>
        if c = 5#8 then .next (if waits then (s.outOfRun t).takeFault t cCancelled 5 (reqEa r) r.pc else s)
        else .next (s.modStash ctx slot fun q => { q with revoked := i :: q.revoked })
      | .filled g lend =>
        let here := match s.team? ctx with
          | some tm => (tm.slot slot).bank == bank
          | none => false
        let s := if !here then s
          else if !r.excl then s.stashTake cl bank ctx slot i .S g lend
          else if s.stashBacked cl (reqLine r) then s.stashTake cl bank ctx slot i (if g.dirty then .M else .E) g 0
          else s
        .next (s.serveWaiting (s.sliceFor r.part r.die r.va.toNat) (reqLine r))
      | .held => .next s
  | _ => .fault .noSuchUnit
/-- STASH_UPGRADE_GRANT (R66): the line is the stash's again, with the data of the grant if a snoop has taken its own copy meanwhile. -/
def execStashUpgradeGrant (r : Req) (g : Grant) (s : State) : Host.Outcome State Fault Refusal :=
  match r.client with
  | .stash cl bank _ =>
    match s.stashOf cl r.va.toNat with
    | none => .next (s.serveWaiting (s.sliceFor r.part r.die r.va.toNat) (reqLine r))
    | some (ctx, slot, rec, i) =>
      let s := s.modStash ctx slot fun q => { q with asked := q.asked.erase i }
      let s := if !s.stashBacked cl (reqLine r) then s
        else match rec.lines.find? i with
        | some y => s.modStash ctx slot fun q => { q with lines := q.lines.put i { y with st := .M, wl := max y.wl g.wl, fd := g.fd, fr := g.fr } }
        | none => s.stashTake cl bank ctx slot i .M g 0
      .next (s.serveWaiting (s.sliceFor r.part r.die r.va.toNat) (reqLine r))
  | _ => .fault .noSuchUnit

end Sys2Proof.Machine
end

