-- ==== Sys2Proof/Machine/Home.lean ====
section
/-! DEFINITION. The homes: the directory and its transitions (R122 to R125, R128, R129), the checks and negative replies (R29 to R31),
accesses performed at the home (R119), replay and cancel (R33 to R36), and the host's accesses (R37, R116, R130). -/

namespace Sys2Proof.Machine

/-! ## The directory -/

/-- An entry changed. -/
def State.modEntry (s : State) (home line : Nat) (f : DirEntry → DirEntry) : State :=
  s.modHome home fun h => { h with dir := h.dir.put line (f (h.entry line)) }
/-- Bits of dies in a sharer mask. -/
def dieBit (d : Nat) : BitVec 5 := BitVec.ofNat 5 (2 ^ d)
/-- The request is performed at the home or answered to another device: it joins no sharer mask (R119, R124). -/
def goesDirect (dev : Nat) (r : Req) : Bool :=
  r.direct || match r.client with
  | .stash _ _ _ => false
  | _ => r.dev != dev
/-- The event by which a request that passed its checks meets the directory (R119, R123, R124, R128). -/
def homeEvent (dev home : Nat) (r : Req) : Event :=
  if goesDirect dev r then (if reqWrites r || r.direct then .homeDirectRequest home r else .remoteLeaseGrant home r)
  else if !reqWrites r then (if r.dev = dev then .homeReadShared home r else .remoteLeaseGrant home r)
  else if r.upg then .homeUpgrade home r
  else .homeReadExclusive home r
/-- Events that happen before what else is on the agenda of their unit. -/
def State.postFront (s : State) (es : List Event) : State := { s with agenda := es ++ s.agenda }
/-- Requests held for an entry are served once it is stable (R122). -/
def State.wake (s : State) (home line : Nat) : State :=
  let e := (s.home home).entry line
  if e.stable ∧ e.held ≠ [] then
    (s.modEntry home line fun e => { e with held := [] }).postFront (e.held.map (homeEvent s.dev.no home))
  else s
/-- The device physical address of a line (R37). -/
def State.lineDpa (s : State) (home line : Nat) : Nat :=
  match s.pte? home (line / 1024) with
  | some (w0, w1) => if pTier w0 = 0 then chan home (pFrame w1 % 65536 * 65536 + line % 1024 * 64) else pFrame w1 * 65536 + line % 1024 * 64
  | none => 0
/-- The host is asked for its copy (R130). -/
def State.backInvalidate (s : State) (home line : Nat) (pend : Option Req) : State :=
  (s.modEntry home line fun e => { e with st := .BI, pend := pend }).out (.hostBackInvalidate (s.lineDpa home line))
/-- A snoop goes to the owner of a line (R123, R124). -/
def State.snoopOwner (s : State) (home line : Nat) (o : Owner) (excl : Bool) (pend : Option Req) : State :=
  let va := BitVec.ofNat 60 (64 * line)
  let part := match pend with
    | some r => r.part
    | none => 0
  let s := s.modEntry home line fun e => { e with st := .XF, pend := pend }
  match o with
  | .die d => s.post (.forwardedSnoop home d va excl)
  | .remote dev die => s.toDevice dev (64 * line) (.snoop home die va excl part)
  | .host => s
/-- Who owns a line after a grant of ownership to a request (R122). -/
def ownerOf (dev : Nat) (r : Req) : Owner := if r.dev = dev then .die r.die else .remote r.dev r.die
/-- The page's lease class and key (R20). -/
def State.pageInfo (s : State) (home line : Nat) : BitVec 2 × BitVec 16 :=
  match s.pte? home (line / 1024) with
  | some (w0, w1) => (BitVec.ofNat 2 (pLc w0), pGkey w1)
  | none => (0, 0)
/-- Nothing stands in a request's way: it is granted, answered or performed with the line's data (R119, R123 to R126). `owned`: an owner
keeps the line; `dirty`: memory does not have the data. -/
def State.grantHome (s : State) (home : Nat) (r : Req) (data : Line) (owned dirty : Bool) : State :=
  let line := reqLine r
  let e := (s.home home).entry line
  let p := s.pageInfo home line
  let g : Grant := ⟨data, e.fd, e.fr, e.wl, e.tag, p.1, p.2, dirty⟩
  let s :=
    if reqWrites r then
      if goesDirect s.dev.no r then
        let d := reqApply r data
        let w := wTime false (s.nowHome home) e.wl e.fd (max e.fr e.rl) 0
        let tag := reqTag r e.tag
        ((s.setMemLine home line d.1).modEntry home line fun e =>
          { e with st := .I, sharers := 0, owner := none, wl := w, tag := tag, pend := none }).accepted r d.2 w tag
      else
        let own := ownerOf s.dev.no r
        let s := s.modEntry home line fun e => { e with st := .X, sharers := 0, owner := some own, pend := none }
        if r.dev = s.dev.no then s.post (.ownershipGrant r g) else s.toDevice r.dev r.va.toNat (.grant r g)
    else
      let st : DirSt := if owned then .OS else if e.sharers = 0 then .I else .S
      if r.direct then (s.modEntry home line fun e => { e with st := st, pend := none }).deliver r g 0 0
      else if r.dev ≠ s.dev.no then
        let lend := s.nowHome home + leaseNs p.1.toNat
        (s.modEntry home line fun e =>
          { e with st := st, pend := none, rl := max e.rl lend, fr := max e.fr (max e.rl lend) }).toDevice r.dev r.va.toNat
            (.lease r g lend)
      else
        let n := s.sliceFor r.part r.die r.va.toNat
        let v := s.newId
        let old := (s.slice n).lines.find? line
        let keeps := match old with
          | some y => y.owns
          | none => false
        let s := v.2.modEntry home line fun e =>
          if keeps then { e with st := if e.sharers = 0 then .X else .OS, pend := none }
          else { e with st := if owned then .OS else .S, pend := none, sharers := e.sharers ||| dieBit r.die }
        let lmax := match old with
          | some y => y.lmax
          | none => 0
        let s := if keeps then s else s.slicePut n line ⟨.S, g.gkid, g.lc, data, lmax, g.wl, g.tag, g.fd, g.fr, v.1⟩
        let l := if clientLeased r.client then s.grantLease n line else (0, s)
        l.2.deliver r g l.1 v.1
  s.wake home line
/-- A request meets the directory (R123, R128, R130). -/
def State.serveHome (s : State) (home : Nat) (r : Req) : State :=
  let line := reqLine r
  let va := BitVec.ofNat 60 (64 * line)
  let e := (s.home home).entry line
  let w := reqWrites r
  if !e.stable then s.modEntry home line fun e => { e with held := e.held ++ [r] }
  else if e.owner = some .host ∨ (w && e.sharers.getLsbD 4) then s.backInvalidate home line (some r)
  else
    let mine : BitVec 5 := if goesDirect s.dev.no r || r.dev != s.dev.no then 0 else dieBit r.die
    let ownBit : BitVec 5 := match e.owner with
      | some (.die d) => dieBit d
      | _ => 0
    let others := e.sharers &&& ~~~mine &&& ~~~ownBit &&& 15#5
    if w && others != 0 then
      (s.modEntry home line fun e => { e with st := .IXA, acks := others, pend := some r }).postAll
        ((setBits 4 others.toNat).map fun d => .invalidation home d va)
    else
      match e.owner with
      | none =>
        if (s.home home).poison.contains line && r.dev == s.dev.no then (s.uncorrectable r).wake home line
        else s.grantHome home r (s.memLine home line) false false
      | some o =>
        let held := match (s.slice (s.sliceFor r.part r.die r.va.toNat)).lines.find? line with
          | some x => x.owns
          | none => false
        let upgrade := w && r.upg && o == ownerOf s.dev.no r && !goesDirect s.dev.no r && (held || r.dev != s.dev.no)
        if upgrade then s.grantHome home r (s.memLine home line) false false else s.snoopOwner home line o w (some r)
/-- The request in service goes on after acknowledgements or data (R123, R129). -/
def State.resumeHome (s : State) (home line : Nat) : State :=
  let e := (s.home home).entry line
  let st : DirSt := match e.owner with
    | some _ => if e.sharers = 0 then .X else .OS
    | none => if e.sharers = 0 then .I else .S
  let s := s.modEntry home line fun e => { e with st := st, pend := none, acks := 0, wbSeen := false }
  match e.pend with
  | some r => s.serveHome home r
  | none => s.wake home line

/-- A home serves a request, which is its partition's turn (R390). -/
def State.serveTurn (s : State) (home : Nat) (r : Req) : State := (s.modHome home fun h => { h with turn := r.part }).serveHome home r

/-- HOME_READ_SHARED (R123). -/
def execHomeReadShared (home : Nat) (r : Req) (s : State) : Host.Outcome State Fault Refusal :=
  if 192 ≤ home then .fault .noSuchUnit else .next (s.serveTurn home r)
/-- HOME_READ_EXCLUSIVE (R123). -/
def execHomeReadExclusive (home : Nat) (r : Req) (s : State) : Host.Outcome State Fault Refusal :=
  if 192 ≤ home then .fault .noSuchUnit else .next (s.serveTurn home { r with excl := true, upg := false })
/-- HOME_UPGRADE (R128): one that lost a race is a read exclusive. -/
def execHomeUpgrade (home : Nat) (r : Req) (s : State) : Host.Outcome State Fault Refusal :=
  if 192 ≤ home then .fault .noSuchUnit else .next (s.serveTurn home { r with excl := true, upg := true })
/-- HOME_DIRECT_REQUEST (R119). -/
def execHomeDirectRequest (home : Nat) (r : Req) (s : State) : Host.Outcome State Fault Refusal :=
  if 192 ≤ home then .fault .noSuchUnit else .next (s.serveTurn home r)
/-- REMOTE_LEASE_GRANT (R124). -/
def execRemoteLeaseGrant (home : Nat) (r : Req) (s : State) : Host.Outcome State Fault Refusal :=
  if 192 ≤ home then .fault .noSuchUnit else .next (s.serveTurn home r)
/-- INVALIDATION_ACK (R125). -/
def execInvalidationAck (home die : Nat) (va : VAddr) (lmax : Nat) (s : State) : Host.Outcome State Fault Refusal :=
  if 192 ≤ home then .fault .noSuchUnit
  else
    let line := va.toNat / 64
    let s := s.modEntry home line fun e =>
      { e with fd := max e.fd lmax, acks := e.acks &&& ~~~(dieBit die), sharers := e.sharers &&& ~~~(dieBit die) }
    let e := (s.home home).entry line
    if e.st = .IXA ∧ e.acks = 0 then .next (s.resumeHome home line) else .next s
/-- Data of an owner that gives the line up enters its entry and memory (R125, R129). -/
def State.takeData (s : State) (home line : Nat) (own : Bool) (i : LineInfo) : State :=
  (s.setMemLine home line i.data).modEntry home line fun e =>
    { e with
      wl := max e.wl i.wl
      tag := if e.tag < i.tag then i.tag else e.tag
      fd := if own then max e.fd i.lmax else e.fd
      fr := if own then e.fr else max e.fr i.lmax }
/-- The same while the page switches tiers: the data waits in the write-back buffer (R27, R122). -/
def State.takeLate (s : State) (home line : Nat) (own : Bool) (i : LineInfo) : State :=
  (s.modHome home fun h => { h with wbbuf := h.wbbuf ++ [(line, i)] }).modEntry home line fun e =>
    { e with
      wl := max e.wl i.wl
      tag := if e.tag < i.tag then i.tag else e.tag
      fd := if own then max e.fd i.lmax else e.fd
      fr := if own then e.fr else max e.fr i.lmax }
/-- An owner's answer to a snoop: `own` when it is a slice of this package. -/
def State.snooped (s : State) (home line : Nat) (own : Bool) (resp : SnoopResp) : State :=
  let e := (s.home home).entry line
  if e.st ≠ .XF then s
  else match resp with
  | .inFlight =>
    if e.wbSeen then s.resumeHome home line else s.modEntry home line fun e => { e with st := .XW }
  | .data i =>
    match e.pend with
    | some r =>
      if reqWrites r then
        let direct := goesDirect s.dev.no r
        let s := if direct then s.takeData home line own i
          else s.modEntry home line fun e =>
            { e with
              wl := max e.wl i.wl
              tag := if e.tag < i.tag then i.tag else e.tag
              fd := if own then max e.fd i.lmax else e.fd
              fr := if own then e.fr else max e.fr i.lmax }
        let s := s.modEntry home line fun e => { e with st := .I, owner := none, sharers := 0 }
        s.grantHome home r i.data false (i.dirty && !direct)
      else
        let s := s.modEntry home line fun e => { e with st := .OS, tag := if e.tag < i.tag then i.tag else e.tag, wl := max e.wl i.wl }
        s.grantHome home r i.data true i.dirty
    | none =>
      let s := (s.takeData home line own i).modEntry home line fun e => { e with owner := none, pend := none }
      s.resumeHome home line
/-- SNOOP_RESPONSE (R129). -/
def execSnoopResponse (home die : Nat) (va : VAddr) (resp : SnoopResp) (s : State) : Host.Outcome State Fault Refusal :=
  if 192 ≤ home ∨ 4 ≤ die then .fault .noSuchUnit else .next (s.snooped home (va.toNat / 64) true resp)
/-- A write-back applied at its home (R122, R129): `o` has given the line up. -/
def State.applyBack (s : State) (home line : Nat) (o : Owner) (i : LineInfo) : State :=
  let own := match o with
    | .die _ => true
    | _ => false
  let busy := match s.pte? home (line / 1024) with
    | some (w0, _) => pBsy w0
    | none => false
  let s := (if busy then s.takeLate home line own i else s.takeData home line own i).modEntry home line fun e => if e.owner = some o then { e with owner := none } else e
  let e := (s.home home).entry line
  match e.st with
  | .XF => s.modEntry home line fun e => { e with wbSeen := true }
  | .XW => s.resumeHome home line
  | .X => s.modEntry home line fun e => { e with st := if e.owner.isSome then .X else if e.sharers = 0 then .I else .S }
  | .OS => s.modEntry home line fun e => { e with st := if e.owner.isSome then .OS else if e.sharers = 0 then .I else .S }
  | _ => s
/-- WRITE_BACK (R27, R122): acknowledged on arrival; applied, or buffered while its page switches. -/
def execWriteBack (home die : Nat) (va : VAddr) (i : LineInfo) (s : State) : Host.Outcome State Fault Refusal :=
  if 192 ≤ home ∨ 4 ≤ die then .fault .noSuchUnit
  else .next ((s.post (.writeBackAck die va)).applyBack home (va.toNat / 64) (.die die) i)
/-- CLEAN_DROP_NOTICE (R125); the die leaves the mask unless another of its slices holds the line. -/
def execCleanDropNotice (home die : Nat) (va : VAddr) (lmax : Nat) (s : State) : Host.Outcome State Fault Refusal :=
  if 192 ≤ home ∨ 4 ≤ die then .fault .noSuchUnit
  else
    let alone := (s.holders die (va.toNat / 64)).isEmpty
    .next (s.modEntry home (va.toNat / 64) fun e =>
    let sh := if alone then e.sharers &&& ~~~(dieBit die) else e.sharers
    { e with fd := max e.fd lmax, sharers := sh, st := if e.st = .S ∧ sh = 0 then .I else if e.st = .OS ∧ sh = 0 then .X else e.st })

/-! ## Checks and negative replies (R29 to R31) -/

/-- FLAGS of a record (R31). -/
def reqFlags (r : Req) : Nat :=
  let k := match r.acc with
    | .store => 1
    | .atomic _ => 2
    | .fetch => 4
    | .load => if r.excl then 1 else 0
  let g := match r.client with
    | .engine _ => 8
    | _ => 0
  k + g + (if r.reloc then 16 else 0)
/-- REQUNIT (R31). -/
def reqUnit (r : Req) : Nat :=
  match r.client with
  | .engine _ => 2 ^ 15 + r.core
  | _ => r.core
/-- The record of a new token (R31). -/
def State.tokenRecord (s : State) (home : Nat) (r : Req) (cause : BitVec 8) (w0 : DWord) (token : Nat) : BitVec 512 :=
  let eng := match r.client with
    | .engine _ => true
    | _ => false
  faultRecord w0 (reqUnit r) r.dev r.gkid r.dom (reqFlags r) cause.toNat (homeId s.dev.no home) r.ctx.toNat token (s.nowHome home)
    (if eng then 0 else r.pc) (reqEa r)
/-- Requests held by a home's tokens. -/
def Home.tokenLoad (h : Home) : Nat := (h.tokens.map fun t => t.2.held.length).sum
/-- A negative reply reaches those who act on it: a fetch, whose thread is suspended, a stash's refill, and another device (R30, R143, R150,
R363). -/
def State.tellHeld (s : State) (r : Req) : State :=
  if r.dev ≠ s.dev.no then s.tell r .held
  else match r.client with
  | .fetch _ _ => s.tell r .held
  | .stash _ _ _ => s.tell r .held
  | _ => s
/-- A failing request (R30, R67): a stash's refill is refused but for cause 0x05; another joins its page's token, takes a new one, or
receives a retry reply. -/
def State.deny (s : State) (home : Nat) (r : Req) (cause : BitVec 8) (w0 : DWord) : State :=
  let h := s.home home
  let refill := match r.client with
    | .stash _ _ _ => cause != 5#8
    | .agent _ => true
    | _ => false
  let retry := if r.dev = s.dev.no then s.postAt (s.clock + 4096) (.retryReissue r) else
    (s.modDev fun d => { d with served := d.served.filter fun q => q != (r.dev, r.id) }).toDevice r.dev r.va.toNat (.retry r)
  if refill then s.tell r (.cancelled cause)
  else if 4096 ≤ h.tokenLoad then retry
  else
    let vpn := r.va.toNat / 65536
    match List.find? (fun (t : Nat × Token) => t.2.vpn == vpn && t.2.dom == r.dom) h.tokens with
    | some t => (s.modHome home fun h => { h with tokens := h.tokens.put t.1 { t.2 with held := t.2.held ++ [(r, cause)] } }).tellHeld r
    | none =>
      match (List.range 1024).find? (fun k => (h.tokens.find? k).isNone) with
      | none => retry
      | some k =>
        let gen := h.gens.getD k 0
        let s := s.modHome home fun h => { h with tokens := h.tokens.put k ⟨gen, vpn, r.dom, r.part, r.dev, [(r, cause)]⟩ }
        let rec_ := s.tokenRecord home r cause w0 (gen * 1024 + k)
        (if r.dev = s.dev.no then s.offer r.part rec_ else s.toDevice r.dev r.va.toNat (.record r.part rec_)).tellHeld r
/-- Frame window of a partition (R382). -/
def Part.frames (p : Part) : Nat × Nat := (dbits p.live.memw 15 0, dbits p.live.memw 38 22)
/-- Domain window of a partition (R382). -/
def Part.doms (p : Part) : Nat × Nat := (dbits p.live.memw 50 39, dbits p.live.memw 63 51)
/-- A number lies in a window of a base and a count. -/
def inWindow (w : Nat × Nat) (n : Nat) : Bool := decide (w.1 ≤ n) && decide (n < w.1 + w.2)
/-- The entry belongs to a partition's memory: at tier 0 its frame lies in the frame window, else its domain is one of the partition's and
DM is 0 (R387, R391). -/
def Part.ownsPage (p : Part) (w0 w1 : DWord) : Bool :=
  if pTier w0 = 0 then inWindow p.frames (pFrame w1) else !dbit w0 58 && inWindow p.doms (pDset w1)
/-- A page of a home belongs to a partition's memory. -/
def State.tenantPage (s : State) (part home vpn : Nat) : Bool :=
  match s.pte? home vpn with
  | some (w0, w1) => (s.part part).ownsPage w0 w1
  | none => false
/-- Requests for a page wait at the home: a command names it, it is recalled with a partition's memory, or its region is closing and the
request is another device's (R25, R27, R387). -/
def State.holdsPage (s : State) (home vpn : Nat) (r : Req) : Bool :=
  (s.home home).busyPage vpn || (r.dev != s.dev.no && s.dev.dtClosing == some (vpn / 2 ^ 31) && s.dev.dtLeft.isEmpty) ||
    match s.dev.recalling with
    | some p => s.tenantPage p home vpn
    | none => false
/-- The checks that an agent asks for by themselves (`Mail.n` 0): all of R29, or without the key the domain and the tier (R41, R170, R173,
R174). -/
def State.checkAlone (s : State) (home vpn : Nat) (r : Req) : Option (BitVec 8 × DWord) :=
  match s.pte? home vpn with
  | none => some (1#8, 0)
  | some (w0, w1) =>
    if !r.tag.getLsbD 3 then s.check home vpn r.dom.toNat r.gkid (reqWrites r)
    else if !r.tag.getLsbD 4 && !s.domOk home w0 w1 r.dom.toNat then some (2#8, w0)
    else if r.tag.toNat % 8 ≠ 0 ∧ r.tag.getLsbD (pTier w0) = false then some (5#8, w0)
    else none
/-- The first failing check of a request (R29). An agent's own right is not limited by key or domain, but its page must be mapped. -/
def State.checkReq (s : State) (home vpn : Nat) (r : Req) : Option (BitVec 8 × DWord) :=
  let alone := match r.client with
    | .agent _ => r.size == 0
    | _ => false
  if alone then s.checkAlone home vpn r
  else if !r.own then s.check home vpn r.dom.toNat r.gkid (reqWrites r)
  else match r.client with
  | .agent _ => match s.pte? home vpn with
    | none => some (1#8, 0)
    | some (w0, _) => if reqWrites r && pTier w0 == 1 then some (5#8, w0) else none
  | _ => none
/-- The request makes its checks alone (R64, R174). -/
def checksOnly (r : Req) : Bool :=
  match r.client with
  | .stashSet _ _ _ => true
  | .agent _ => r.size == 0
  | _ => false
/-- A home takes a request (R27 to R30): held while its page switches or is recalled, checked, then sent on to the directory or refused. -/
def State.takeIn (s : State) (home : Nat) (r : Req) : State :=
  let vpn := r.va.toNat / 65536
  if s.holdsPage home vpn r then s.modHome home fun h => { h with heldReqs := h.heldReqs ++ [r] }
  else
    match s.checkReq home vpn r with
    | some (c, w0) => s.deny home r c w0
    | none =>
      let s := (s.cachePte home vpn).tell r .pass
      if checksOnly r then s else s.post (homeEvent s.dev.no home r)
/-- HOME_REQUEST (R27 to R30). -/
def execHomeRequest (home : Nat) (r : Req) (s : State) : Host.Outcome State Fault Refusal :=
  if 192 ≤ home then .fault .noSuchUnit else .next (s.takeIn home r)

/-! ## Replay and cancel (R33 to R36) -/

/-- A live token that a replay or cancel write names (R36). -/
def State.liveToken (s : State) (home dev part token : Nat) : Option (Nat × Token) :=
  let k := token % 1024
  match (s.home home).tokens.find? k with
  | some t => if t.gen = token / 1024 % 2 ^ 22 ∧ t.part = part ∧ t.dev = dev then some (k, t) else none
  | none => none
/-- A token is freed (R30). -/
def State.freeToken (s : State) (home k : Nat) : State :=
  s.modHome home fun h => { h with tokens := h.tokens.del k, gens := h.gens.store 0 k ((h.gens.getD k 0 + 1) % 2 ^ 22) }
/-- A replay or cancel of partition `part` of device `dev` reaches its home; a replay checks the held requests again in the order in which
they came (R34 to R36). -/
def State.tokenWrite (s : State) (home dev part token : Nat) (cancel : Bool) : State :=
  match s.liveToken home dev part token with
  | none => s.modHome home fun h => { h with stale := min 65535 (h.stale + 1) }
  | some (k, t) =>
    let s := s.freeToken home k
    if cancel then t.held.foldl (fun s q => s.tell q.1 (.cancelled q.2)) s
    else t.held.foldl (fun s q => s.takeIn home q.1) s
/-- A write to REPLAY of a partition's fault block (R33). -/
def State.replayWrite (s : State) (part : Nat) (v : DWord) (cancel : Bool) : State :=
  let id := dbits v 47 32
  let token := dbits v 31 0
  if dbits v 63 62 ≠ (if cancel then 2 else 1) then s
  else if id / 256 = s.dev.no then
    (if id % 256 < 192 then s.tokenWrite (id % 256) s.dev.no part token cancel else s)
  else s.toDevice (id / 256) 0 (.replayTo (id % 256) part token cancel)
/-- REPLAY (R34). -/
def execReplay (part : Nat) (v : DWord) (s : State) : Host.Outcome State Fault Refusal :=
  if 64 ≤ part then .fault .noSuchUnit else .next (s.replayWrite part v false)
/-- CANCEL (R35). -/
def execCancel (part : Nat) (v : DWord) (s : State) : Host.Outcome State Fault Refusal :=
  if 64 ≤ part then .fault .noSuchUnit else .next (s.replayWrite part v true)

/-! ## The host (R37, R116, R130) -/

/-- A channel frame lies in the home's page table (R23, R27). -/
def Home.inTable (h : Home) (frame : Nat) : Bool :=
  let tb := dbits h.hptb 15 0
  h.mapped && decide (tb ≤ frame) && decide (frame * 65536 < tb * 65536 + 2 ^ h.logn * 128)
/-- A range of 4 KiB units overlaps a frame. -/
def unitsHit (start n frame : Nat) : Bool := decide (start < frame * 16 + 16) && decide (frame * 16 < start + n)
/-- A channel frame lies in the home's compressed pool (R23, R27). -/
def Home.inPool (h : Home) (frame : Nat) : Bool := unitsHit (dbits h.hcpl 19 0) (dbits h.hcpl 51 32) frame
/-- The home, the line and the offset that a device physical address names; none: no tier-0 page stands there, or the page table or the
compressed pool does (R37). -/
def State.dpaLine (s : State) (dpa : Nat) : Option (Nat × Nat × Nat) :=
  let home := bits dpa 39 32
  let frame := bits dpa 31 16
  if 192 ≤ home ∨ (s.home home).inTable frame = true ∨ (s.home home).inPool frame = true then none
  else match (s.home home).rev.find? frame with
    | some vpn => some (home, vpn * 1024 + bits dpa 15 6, bits dpa 5 0)
    | none => none
/-- A host access that meets no tier-0 page is logged (R37). -/
def State.logHost (s : State) (dpa : Nat) : State :=
  if bits dpa 39 32 < 192 then s.modHome (bits dpa 39 32) fun h => { h with errlog := h.errlog ++ [dpa] } else s
/-- In confidential mode what the host sends must arrive in an IDE stream whose keys have been set (R392, R404). -/
def State.ideOk (s : State) (ide : Bool) : Bool := !s.dev.conf || (ide && s.dev.ide.isSome)
/-- Something that arrives outside an IDE stream is dropped and logged (R404). -/
def State.ideDrop (s : State) : State := s.out (.log 2)
/-- A partition's shared range (R404). -/
def Part.shared (p : Part) : Nat × Nat := (p.sharedBase, p.sharedCount)
/-- The firewall lets the host reach a frame: in confidential mode one of a partition's shared range alone (R404). -/
def State.hostMay (s : State) (dpa : Nat) : Bool := !s.dev.conf || s.parts.any fun p => inWindow p.2.shared (bits dpa 31 16)
/-- Something outside or a slice holds what a host access needs: it is asked for, and the access is made again later. -/
def State.hostNeeds (s : State) (home line : Nat) (excl : Bool) : State :=
  let e := (s.home home).entry line
  if !e.stable then s
  else match e.owner with
    | some (.remote d k) => s.snoopOwner home line (.remote d k) excl none
    | _ => s
/-- HOST_CXL_MEM_READ (R37). -/
def execHostCxlMemRead (dpa size : Nat) (ide : Bool) (s : State) : Host.Outcome State Fault Refusal :=
  let n := max 1 (min size (64 - dpa % 64))
  if !s.ideOk ide then .next s.ideDrop
  else if !s.hostMay dpa then .next (s.out (.hostRead dpa (List.replicate n 0) true))
  else match s.dpaLine dpa with
  | none => .next ((s.logHost dpa).out (.hostRead dpa (List.replicate n 0) true))
  | some (home, line, off) =>
    let free := s.lineFree home line false || ((s.home home).entry line).owner == some .host
    if free then .next (s.out (.hostRead dpa (toBytes n (lineGet (s.lineNow home line) off n)) ((s.home home).poison.contains line)))
    else .next ((s.hostNeeds home line false).postAt (s.clock + 64) (.hostCxlMemRead dpa size ide))
/-- HOST_CXL_MEM_WRITE (R116): ordered at the home after every copy of a slice has been taken back; W is no smaller than an earlier
host store's at the home. -/
def execHostCxlMemWrite (dpa size : Nat) (data : BitVec 512) (ide : Bool) (s : State) : Host.Outcome State Fault Refusal :=
  let n := max 1 (min size (64 - dpa % 64))
  if !s.ideOk ide then .next s.ideDrop
  else if !s.hostMay dpa then .next s
  else match s.dpaLine dpa with
  | none => .next (s.logHost dpa)
  | some (home, line, off) =>
    let e := (s.home home).entry line
    let away := match e.owner with
      | some (.remote _ _) => true
      | _ => false
    if (s.home home).busyPage (line / 1024) || !e.stable || away || s.inFlight line then
      .next ((s.hostNeeds home line true).postAt (s.clock + 64) (.hostCxlMemWrite dpa size data ide))
    else
      let s := s.takeBack home line false
      let s := s.setMemLine home line (linePut (s.memLine home line) off n data.toNat)
      let e := (s.home home).entry line
      let w := max (s.home home).hostW (wTime true (s.nowHome home) e.wl e.fd (max e.fr e.rl) 0)
      let s := (s.modEntry home line fun e => { e with wl := w }).modHome home fun h =>
        { h with hostW := w, poison := h.poison.filter fun l => l != line }
      .next (s.postAt (3 * w) (.hostStoreCompletion dpa w))
/-- HOST_STORE_COMPLETION (R116). -/
def execHostStoreCompletion (dpa w : Nat) (s : State) : Host.Outcome State Fault Refusal :=
  if s.nowHome (bits dpa 39 32) < w then .next (s.postAt (max (3 * w) (s.clock + 2)) (.hostStoreCompletion dpa w)) else .next (s.out (.hostDone dpa))
/-- HOST_OWNERSHIP_REQUEST (R26, R116): copies of slices are taken back; the grant waits for the largest lease end and δ(sys). -/
def execHostOwnershipRequest (dpa : Nat) (ide : Bool) (s : State) : Host.Outcome State Fault Refusal :=
  if !s.ideOk ide then .next s.ideDrop
  else if !s.hostMay dpa then .next s
  else match s.dpaLine dpa with
  | none => .next (s.logHost dpa)
  | some (home, line, _) =>
    let e := (s.home home).entry line
    let away := match e.owner with
      | some (.remote _ _) => true
      | _ => false
    if (s.home home).busyPage (line / 1024) || !e.stable || away || s.inFlight line then
      .next ((s.hostNeeds home line true).postAt (s.clock + 64) (.hostOwnershipRequest dpa ide))
    else
      let s := s.takeBack home line false
      let e := (s.home home).entry line
      let t := max e.fd (max e.fr e.rl) + 64
      let s := s.modEntry home line fun e => { e with st := .RC, hostWant := true }
      .next (s.postAt (3 * t) (.hostOwnershipGrant home (BitVec.ofNat 60 (64 * line))))
/-- HOST_OWNERSHIP_GRANT (R116). -/
def execHostOwnershipGrant (home : Nat) (va : VAddr) (s : State) : Host.Outcome State Fault Refusal :=
  if 192 ≤ home then .fault .noSuchUnit
  else
    let line := va.toNat / 64
    let e := (s.home home).entry line
    let t := max e.fd (max e.fr e.rl) + 64
    if e.st ≠ .RC ∨ e.hostWant = false then .next s
    else if s.nowHome home < t then .next (s.postAt (3 * t) (.hostOwnershipGrant home va))
    else
      let s := s.modEntry home line fun e => { e with st := .X, sharers := 0, owner := some .host, hostWant := false }
      .next ((s.wake home line).out (.hostOwned (s.lineDpa home line)))
/-- The home and the line of a host physical address at tier 2 (R130). -/
def State.hpaLine (s : State) (hpa : Nat) : Option (Nat × Nat) :=
  (List.range 192).findSome? fun h =>
    ((s.home h).dir.map fun e => e.1).findSome? fun l =>
      match s.pte? h (l / 1024) with
      | some (w0, w1) => if pTier w0 = 2 ∧ pFrame w1 * 1024 + l % 1024 = hpa / 64 then some (h, l) else none
      | none => none
/-- HOST_SNOOP (R116, R130): a tier-2 line is recalled from every slice before the answer, which for a snoop that takes the line away
waits for the largest lease end and δ(sys). -/
def execHostSnoop (hpa : Nat) (excl : Bool) (s : State) : Host.Outcome State Fault Refusal :=
  if !s.ideOk true then .next s.ideDrop
  else match s.hpaLine hpa with
  | none => .next (s.out (.hostSnooped hpa))
  | some (home, line) =>
    let e := (s.home home).entry line
    if !s.lineFree home line true then .next ((s.hostNeeds home line true).postAt (s.clock + 64) (.hostSnoop hpa excl))
    else
      let t := if excl then max e.fd (max e.fr e.rl) + 64 else e.rl + 16
      let s := s.takeBack home line true
      if (excl && decide (s.nowHome home < t)) || (decide (e.rl ≠ 0) && decide (s.nowHome home < e.rl + 16)) then
        .next (s.postAt (3 * t) (.hostSnoop hpa excl))
      else .next (s.out (.hostSnooped hpa))
/-- HOST_BI_RESPONSE (R116, R130): modified data is written; for a device read the host keeps a clean shared copy. -/
def execHostBiResponse (home : Nat) (va : VAddr) (dirty : Option Line) (s : State) : Host.Outcome State Fault Refusal :=
  if 192 ≤ home then .fault .noSuchUnit
  else if !s.ideOk true then .next s.ideDrop
  else
    let line := va.toNat / 64
    let e := (s.home home).entry line
    if e.st ≠ .BI then .next s
    else
      let s := match dirty with
        | some d => s.setMemLine home line d
        | none => s
      let keep := match e.pend with
        | some r => !reqWrites r
        | none => false
      let s := s.modEntry home line fun e =>
        { e with
          owner := if e.owner = some .host then none else e.owner
          sharers := if keep then e.sharers ||| 16#5 else e.sharers &&& 15#5 }
      .next (s.resumeHome home line)

end Sys2Proof.Machine
end

