-- ==== Sys2Proof/Machine/Admin.lean ====
section
/-! DEFINITION. System software at the tables and the homes: table updates (R11 to R18), home commands (R23 to R27), recalls (R25, R127) and
the fault queue (R31, R32). -/

namespace Sys2Proof.Machine

/-! ## Recalls (R25, R127) -/

/-- Lines with a directory entry at a home whose page `p` names. -/
def Home.linesOf (h : Home) (p : Nat → Bool) : List Nat := (h.dir.map fun e => e.1).filter fun l => p (l / 1024)
/-- Something of the lines that `p` names is on its way to or from a home. -/
def State.linesMove (s : State) (home : Nat) (p : Nat → Bool) : Bool :=
  let mine := fun (k : Nat) (r : Req) => decide (k = home) && p (r.va.toNat / 65536)
  let at_ := fun (k : Nat) (va : VAddr) => decide (k = home) && p (va.toNat / 65536)
  (s.agenda.any fun e => match e with
    | .homeReadShared k r => mine k r
    | .homeReadExclusive k r => mine k r
    | .homeUpgrade k r => mine k r
    | .homeDirectRequest k r => mine k r
    | .remoteLeaseGrant k r => mine k r
    | .ownershipGrant r _ => p (r.va.toNat / 65536)
    | .icacheFill r _ => p (r.va.toNat / 65536)
    | .stashFill r _ => p (r.va.toNat / 65536)
    | .stashUpgradeGrant r _ => p (r.va.toNat / 65536)
    | .laneStoreFill r _ => p (r.va.toNat / 65536)
    | .writeBack k _ va _ => at_ k va
    | .cleanDropNotice k _ va _ => at_ k va
    | .recallDrop _ va => p (va.toNat / 65536)
    | _ => false) ||
  s.slices.any fun k => k.2.wb.any fun w => p (w.1 / 1024)
/-- Lines that `p` names are on their way or in a transient state (R18, R27). -/
def State.homeBusy (s : State) (home : Nat) (p : Nat → Bool) : Bool :=
  s.linesMove home p || ((s.home home).linesOf p).any fun l => !((s.home home).entry l).stable
/-- Copies outside the package that a recall or a move takes back first; `host`: the host's shared copies too. -/
def State.awayLines (s : State) (home : Nat) (p : Nat → Bool) (host : Bool) : List Nat :=
  ((s.home home).linesOf p).filter fun l => ((s.home home).entry l).stable && ((s.home home).entry l).away host
/-- The host or the device that holds a line is told to give it up (R25, R130). -/
def State.fetchAway (s : State) (home : Nat) (ls : List Nat) : State :=
  ls.foldl (fun s l => match ((s.home home).entry l).owner with
    | some (.remote d k) => s.snoopOwner home l (.remote d k) true none
    | _ => s.backInvalidate home l none) s
/-- Drop messages go to the near units that hold a line (R127). -/
def State.dropMessages (s : State) (line : Nat) : State :=
  let va := BitVec.ofNat 60 (64 * line)
  let ps := s.pairs.filterMap fun p => if p.2.any fun x => x.line == line then some (Event.recallDrop (.pairCache p.1) va) else none
  let cs := s.cores.filterMap fun c => if c.2.icache.any (fun x => x.line == line) || c.2.once.any (fun o => o.2.2.line == line) then some (Event.recallDrop (.icache c.1) va) else none
  let ts := s.teams.flatMap fun t => t.2.window.filterMap fun q => match q.2.stash with
    | some r => if vaOf r.ptr ≤ 64 * line ∧ 64 * line < vaOf r.ptr + r.len ∧ r.wr = false then
        some (Event.recallDrop (.stash (clusterOf t.2.core) q.2.bank) va) else none
    | none => none
  s.postAll (ps ++ cs ++ ts)
/-- The latest remote lease end on the lines that `p` names. -/
def Home.rlOf (h : Home) (p : Nat → Bool) : Nat := maxL 0 ((h.linesOf p).map fun l => (h.entry l).rl)
/-- Entries of the lines that `p` names that the recall has yet to take. -/
def State.recallOpen (s : State) (home : Nat) (p : Nat → Bool) : List Nat :=
  ((s.home home).linesOf p).filter fun l => ((s.home home).entry l).stable
/-- A recall takes the entries that it finds stable: a copy outside the package is asked back first, another entry stands in RC from then
on, and drop messages leave (R25, R122, R127). -/
def State.recallEnter (s : State) (home : Nat) (p : Nat → Bool) : State :=
  let away := s.awayLines home p true
  let near := (s.recallOpen home p).filter fun l => !away.contains l
  near.foldl (fun s l => (s.modEntry home l fun e => { e with st := .RC }).dropMessages l) (s.fetchAway home away)
/-- Every entry of the lines that `p` names stands in RC, and every lease of another device on them has ended, by the home's clock (R25). -/
def State.recallDue (s : State) (home : Nat) (p : Nat → Bool) : Bool :=
  let rl := (s.home home).rlOf p
  (((s.home home).linesOf p).all fun l => ((s.home home).entry l).st == .RC && !((s.home home).entry l).hostWant) &&
    (decide (rl = 0) || decide (rl + 16 ≤ s.nowHome home))
/-- Every copy of the lines that `p` names goes back to its home. -/
def State.recallLines (s : State) (home : Nat) (p : Nat → Bool) : State :=
  ((s.home home).linesOf p).foldl (fun s l => s.takeBack home l true) s
/-- Requests held at a home that nothing holds any longer are served, in the order in which they came (R25, R27). -/
def State.serveHeld (s : State) (home : Nat) : State :=
  let rs := (s.home home).heldReqs.filter fun r => !s.holdsPage home (r.va.toNat / 65536) r
  rs.foldl (fun s r => s.takeIn home r) (s.modHome home fun h => { h with heldReqs := h.heldReqs.filter fun r => !rs.contains r })

/-! ## Home commands (R23, R24) -/

/-- Pages of a region: VPN[43:31] (R23). -/
def inRegion (region vpn : Nat) : Bool := decide (vpn / 2 ^ 31 = region)
/-- The pages that a command names. -/
def HomeCmd.names (c : HomeCmd) (vpn : Nat) : Bool := if c.op = 4 then inRegion (c.vpn / 2 ^ 31) vpn else vpn == c.vpn
/-- A command ends with a RESULT (R23). -/
def State.homeResult (s : State) (home r : Nat) : State := s.modHome home fun h => { h with cmd := none, result := r }
/-- A command is in progress at a home (R23). -/
def State.homeBegins (s : State) (home : Nat) (c : HomeCmd) : State := s.modHome home fun h => { h with cmd := some c }
/-- A command that finds the home busy is dropped with RESULT 5 (R23); `f` carries it out else. -/
def State.homeCommand (s : State) (home : Nat) (f : State → State) : Host.Outcome State Fault Refusal :=
  if 192 ≤ home then .fault .noSuchUnit
  else if (s.home home).cmd.isSome then .next (s.modHome home fun h => { h with result := 5 })
  else .next (f s)
/-- An entry written, in the table and in the translation cache (R22); a word 0 with V = 0 leaves the cache. -/
def State.changePte (s : State) (home a vpn : Nat) (w0 w1 : DWord) : State :=
  (s.setPte home a w0 w1).modHome home fun h =>
    { h with tcache := if dbit w0 63 then (if (h.tcache.find? vpn).isSome then h.tcache.put vpn (w0, w1) else h.tcache) else h.tcache.del vpn }
/-- A frame lies in the right window for an entry's DM and DSET (R27, R383). -/
def State.frameWindowOk (s : State) (dm : Bool) (dset frame : Nat) : Bool :=
  match (if dm then none else List.find? (fun (p : Nat × Part) => inWindow p.2.doms dset) s.parts) with
  | some p => inWindow p.2.frames frame
  | none => !(s.parts.any fun p => inWindow p.2.frames frame)
/-- The tier-0 frame tests of R27 for page `vpn`. -/
def State.frameOk (s : State) (home vpn frame : Nat) (own dm : Bool) (dset : Nat) : Bool :=
  let h := s.home home
  let db := dbits h.hdsb 15 0
  let free := match h.rev.find? frame with
    | some v => own && v == vpn
    | none => true
  decide (frame ≤ 65535) && free && !h.inTable frame && !(decide (db ≤ frame) && decide (frame < db + 8)) && !h.inPool frame &&
    s.frameWindowOk dm dset frame
/-- HARG0 as INSTALL writes it: VPN the command's, BSY, CSZ and reserved bits 0, the others as they stand (R20, R24). -/
def installW0 (w0 : DWord) (vpn : Nat) : DWord := dw (dbits w0 63 57 * 2 ^ 57 + vpn)
/-- The cases in which INSTALL ends with RESULT 6 (R24). -/
def State.installBad (s : State) (home vpn : Nat) (w0 w1 : DWord) : Bool :=
  let old := s.pte? home vpn
  let own := match old with
    | some e => pTier e.1 == 0
    | none => false
  !(s.home home).mapped || pTier w0 == 3 || pTier w0 == 1 || (dbit w0 58 && decide (dbits w1 47 46 ≠ 0)) ||
    (pTier w0 == 0 && !s.frameOk home vpn (pFrame w1) own (dbit w0 58) (pDset w1))
/-- What an entry held is given back: its frame's reverse entry, its pool units and their bytes (R24, R37). -/
def Home.release (h : Home) (vpn : Nat) (w0 w1 : DWord) : Home :=
  if pTier w0 = 0 then { h with rev := h.rev.del (pFrame w1) }
  else if pTier w0 = 1 then { h with pool := h.pool.del vpn, t1 := Memory.zero h.t1 (vpn * 65536) 65536 }
  else h
/-- What a valid entry holds is noted: the reverse entry of a tier-0 frame (R37). -/
def Home.occupy (h : Home) (vpn : Nat) (w0 w1 : DWord) : Home := if dbit w0 63 = true ∧ pTier w0 = 0 then { h with rev := h.rev.put (pFrame w1) vpn } else h
/-- INSTALL (R24). -/
def execInstall (home : Nat) (vpn : BitVec 44) (s : State) : Host.Outcome State Fault Refusal :=
  s.homeCommand home fun s =>
    let h := s.home home
    let v := vpn.toNat
    let w0 := installW0 h.harg0 v
    if s.installBad home v w0 h.harg1 then s.homeResult home 6
    else match s.pteFind home v with
    | some _ => s.homeBegins home ⟨1, v, false, w0, h.harg1⟩
    | none =>
      match (h.probes v).find? (fun a => !dbit (s.pteAt home a).1 63) with
      | none => s.homeResult home 1
      | some a => ((s.changePte home a v w0 h.harg1).modHome home fun h => h.occupy v w0 h.harg1).homeResult home 0
/-- REMOVE (R24). -/
def execRemove (home : Nat) (vpn : BitVec 44) (s : State) : Host.Outcome State Fault Refusal :=
  s.homeCommand home fun s =>
    let v := vpn.toNat
    match s.pteFind home v with
    | none => s.homeResult home 2
    | some _ => s.homeBegins home ⟨2, v, false, 0, 0⟩
/-- RECALL (R24): every line of the region at this home. -/
def execRecall (home : Nat) (vpn : BitVec 44) (s : State) : Host.Outcome State Fault Refusal :=
  s.homeCommand home fun s => s.homeBegins home ⟨4, vpn.toNat, false, 0, 0⟩
/-- The recall of a home can go on: nothing of its lines is on its way, and there are entries to take or none left to wait for. -/
def State.recallReady (s : State) (home : Nat) (p : Nat → Bool) : Bool :=
  !s.linesMove home p && (!(s.recallOpen home p).isEmpty || s.recallDue home p)
/-- HOME_RECALL_DONE (R24, R25): entries are taken, copies outside the package first; once all stand in RC and no lease of another device
runs, the lines are home, the entry is replaced or cleared, and the held requests are served. -/
def execHomeRecallDone (home : Nat) (s : State) : Host.Outcome State Fault Refusal :=
  match (s.home home).cmd with
  | none => .next s
  | some c =>
    if c.op = 3 ∨ s.recallReady home c.names = false then .next s
    else if s.recallOpen home c.names ≠ [] then .next (s.recallEnter home c.names)
    else
      let s := s.recallLines home c.names
      if c.op = 4 then .next ((s.homeResult home 0).serveHeld home)
      else match s.pteFind home c.vpn with
      | none => .next ((s.homeResult home 0).serveHeld home)
      | some a =>
        let e := s.pteAt home a
        let s := s.modHome home fun h => { (h.release c.vpn e.1 e.2).forgetPage c.vpn with harg1 := e.2 }
        let s := if c.op = 1 then (s.changePte home a c.vpn c.w0 c.w1).modHome home fun h => h.occupy c.vpn c.w0 c.w1
          else s.changePte home a c.vpn (e.1 &&& dw (2 ^ 63 - 1)) e.2
        .next ((s.homeResult home 0).serveHeld home)

/-! ## MOVE (R26, R27) -/

/-- The refusals of a MOVE (R27): a RESULT. -/
def State.moveBad (s : State) (home vpn : Nat) (tier : Nat) (w1 : DWord) : Option Nat :=
  match s.pteFind home vpn with
  | none => some 2
  | some a =>
    let e := s.pteAt home a
    if tier = 3 ∨ tier = pTier e.1 then some 6
    else if tier = 0 ∧ (dbits w1 63 36 ≠ 0 ∨ s.frameOk home vpn (pFrame w1) false (dbit e.1 58) (pDset e.2) = false) then some 6
    else if tier = 2 ∧ dbits w1 63 36 ≠ 0 then some 6
    else none
/-- MOVE (R27): the page begins to switch. -/
def execMove (home : Nat) (vpn : BitVec 44) (s : State) : Host.Outcome State Fault Refusal :=
  s.homeCommand home fun s =>
    let h := s.home home
    let v := vpn.toNat
    match s.moveBad home v (dbits h.harg0 1 0) h.harg1, s.pteFind home v with
    | some r, _ => s.homeResult home r
    | none, none => s.homeResult home 2
    | none, some a =>
      let e := s.pteAt home a
      (s.changePte home a v (e.1 ||| dw (2 ^ 56)) e.2).homeBegins home ⟨3, v, false, h.harg0, h.harg1⟩
/-- Lines of a page that a slice owns. -/
def State.ownedLines (s : State) (home : Nat) (p : Nat → Bool) : List Nat :=
  ((s.home home).linesOf p).filter fun l => match ((s.home home).entry l).owner with
    | some (.die _) => true
    | _ => false
/-- Nothing stands in the way of the step of R27 that waits for the accesses to the old frame. -/
def State.moveDrained (s : State) (home : Nat) (c : HomeCmd) : Bool := !s.homeBusy home c.names
/-- MOVE_DRAIN_DONE (R27): accesses to the old frame have completed; for tier 1, owned copies are taken back, and the host's. -/
def execMoveDrainDone (home : Nat) (s : State) : Host.Outcome State Fault Refusal :=
  match (s.home home).cmd with
  | none => .next s
  | some c =>
    if c.op ≠ 3 ∨ c.drained = true ∨ s.moveDrained home c = false then .next s
    else
      let toOne := decide (dbits c.w0 1 0 = 1)
      let away := if toOne then s.awayLines home c.names false else []
      if away ≠ [] then .next (s.fetchAway home away)
      else
        let s := if toOne then (s.ownedLines home c.names).foldl (fun s l => s.takeOwned home l) s else s
        .next (s.modHome home fun h => { h with cmd := some { c with drained := true } })
/-- The first run of `n` free units of a compressed pool (R27). -/
def Home.poolFit (h : Home) (n : Nat) : Option Nat :=
  let lo := dbits h.hcpl 19 0
  let hi := lo + dbits h.hcpl 51 32
  let starts := (lo :: h.pool.map fun p => p.2.1 + p.2.2).mergeSort fun a b => decide (a ≤ b)
  starts.find? fun a => decide (lo ≤ a) && decide (a + n ≤ hi) &&
    h.pool.all fun p => decide (a + n ≤ p.2.1) || decide (p.2.1 + p.2.2 ≤ a)
/-- The size that a page compresses to, in 4 KiB units; 16 for one beyond 60 KiB (R26): a page of zeros takes 1. -/
def imageUnits (bs : List Byte) : Nat :=
  let cells := ((List.range bs.length).zip bs).filter fun c => c.2 != 0
  if cells = [] then 1 else (Config.csz cells).toNat + 1
/-- Word 0 after a move: TIER and CSZ new, BSY 0 (R27). -/
def movedW0 (w0 : DWord) (tier csz : Nat) : DWord :=
  dw (dbits w0 63 63 * 2 ^ 63 + tier * 2 ^ 61 + dbits w0 60 57 * 2 ^ 57 + csz * 2 ^ 52 + dbits w0 43 0)
/-- Word 1 with another FRAME. -/
def movedW1 (w1 : DWord) (frame : Nat) : DWord := dw (dbits w1 63 36 * 2 ^ 36 + frame % 2 ^ 36)
/-- Write-backs buffered for a page land in its memory, then the requests held for it are served (R27). -/
def State.endMove (s : State) (home vpn : Nat) (r : Nat) : State :=
  let mine := (s.home home).wbbuf.filter fun w => w.1 / 1024 == vpn
  let s := s.modHome home fun h => { h with wbbuf := h.wbbuf.filter fun w => w.1 / 1024 != vpn }
  let s := mine.foldl (fun s w => s.setMemLine home w.1 w.2.data) s
  (s.homeResult home r).serveHeld home
/-- MOVE_COPY_DONE (R27): the page stands at its new tier, or stays where it was. -/
def execMoveCopyDone (home : Nat) (s : State) : Host.Outcome State Fault Refusal :=
  match (s.home home).cmd with
  | none => .next s
  | some c =>
    if c.op ≠ 3 ∨ c.drained = false then .next s
    else match s.pteFind home c.vpn with
    | none => .next (s.endMove home c.vpn 2)
    | some a =>
      let e := s.pteAt home a
      let tier := dbits c.w0 1 0
      let bs := s.pageRead home c.vpn e.1 e.2 0 65536
      let n := imageUnits bs
      let stay := fun (r : Nat) =>
        ((s.changePte home a c.vpn (e.1 &&& ~~~(dw (2 ^ 56))) e.2).modHome home fun h => { h with harg1 := e.2 }).endMove home c.vpn r
      let go := fun (frame csz : Nat) =>
        let w0 := movedW0 e.1 tier csz
        let w1 := movedW1 e.2 frame
        let s := s.modHome home fun h => (h.release c.vpn e.1 e.2).occupy c.vpn w0 w1
        let s := (s.changePte home a c.vpn w0 w1).pageWrite home c.vpn w0 w1 0 bs
        let s := s.modHome home fun h =>
          { h with harg1 := e.2, pool := if tier = 1 then h.pool.put c.vpn (frame, csz) else h.pool }
        s.endMove home c.vpn 0
      if tier = 1 then
        if 15 < n then .next (stay 4)
        else match (s.home home).poolFit n with
        | none => .next (stay 3)
        | some u => .next (go u n)
      else .next (go (pFrame c.w1) 0)

/-! ## Table updates (R11 to R18) -/

/-- A table update that finds one running is dropped with RESULT 4; else `f` (R15). -/
def State.tableUpdate (s : State) (f : State → State) : Host.Outcome State Fault Refusal :=
  .next (if s.dev.dtBusy then s.modDev fun d => { d with dtResult := 4 } else f s)
/-- A table update is refused (R15). -/
def State.tableRefuse (s : State) (r : Nat) : State := s.modDev fun d => { d with dtResult := r }
/-- A table update has been accepted: table 0 distribution, 1 set list, 2 aperture; BUSY clears when every die's copy holds the value
(R15, R16). -/
def State.tableAccept (s : State) (table i : Nat) (v : DWord) : State :=
  (s.modDev fun d => { d with dtBusy := true, dtResult := 0, dtLeft := List.range 4, dtTable := table, dtIndex := i, dtValue := v }).postAll
    ((List.range 4).map Event.tableCopy)
/-- TABLE_UPDATE_DISTRIBUTION (R12, R13, R18). -/
def execTableUpdateDistribution (v : DWord) (s : State) : Host.Outcome State Fault Refusal :=
  s.tableUpdate fun s =>
    let i := dbits v 13 0
    let x := s.dev.dtdata
    let old := s.distAt 0 i
    let from_ := dbits old 63 62
    let want := dbits x 63 62
    if i = 0 ∨ 8192 ≤ i ∨ want = 3 ∨ dbits x 61 46 ≠ 0 ∨ dbits x 31 8 ≠ 0 ∨ 16383 < dbits x 45 32 + dbits x 7 0 then s.tableRefuse 1
    else if (from_ = 0 ∧ want = 1) ∨ (from_ = 2 ∧ want = 0) ∨ (from_ = 2 ∧ want = 1) then
      s.tableAccept 0 i x
    else if from_ = 1 ∧ want = 2 then
      (s.tableAccept 0 i (dw (2 * 2 ^ 62 + old.toNat % 2 ^ 62))).modDev fun d => { d with dtClosing := some i }
    else s.tableRefuse 2
/-- A set-list index lies in the set of an active or closing entry (R15). -/
def State.setInUse (s : State) (i : Nat) : Bool :=
  s.dist.any fun e => decide (e.1 < 8192) && (dbits e.2 63 62 == 1 || dbits e.2 63 62 == 2) && decide (dbits e.2 45 32 ≤ i) &&
    decide (i ≤ dbits e.2 45 32 + dbits e.2 7 0)
/-- TABLE_UPDATE_SET_LIST (R13, R15). -/
def execTableUpdateSetList (v : DWord) (s : State) : Host.Outcome State Fault Refusal :=
  s.tableUpdate fun s =>
    let i := dbits v 13 0
    let x := s.dev.dtdata
    if x.toNat / 2 ^ 16 ≠ 0 ∨ 192 ≤ x.toNat % 256 then s.tableRefuse 1
    else if s.setInUse i then s.tableRefuse 3
    else s.tableAccept 1 i x
/-- TABLE_UPDATE_APERTURE (R11). -/
def execTableUpdateAperture (v : DWord) (s : State) : Host.Outcome State Fault Refusal :=
  s.tableUpdate fun s =>
    let i := dbits v 13 0
    let x := s.dev.dtdata
    if 4096 ≤ i ∨ x.toNat / 2 ^ 13 ≠ 0 then s.tableRefuse 1
    else s.tableAccept 2 i x
/-- A die's copy of a table takes a value (R16). -/
def State.tableWrite (s : State) (die table i : Nat) (v : DWord) : State :=
  if table = 0 then { s with dist := s.dist.store 0 (die * 8192 + i) v }
  else if table = 1 then { s with setlist := s.setlist.store 0 (die * 16384 + i) (BitVec.ofNat 16 v.toNat) }
  else { s with apt := s.apt.store 0 (die * 4096 + i) (wd v.toNat) }
/-- A die's copy takes the accepted value; with the last one the update is done, unless a region closes: then its recall begins (R16, R18). -/
def State.tableCopy (s : State) (die : Nat) : State :=
  if s.dev.dtLeft.contains die then
    let s := (s.tableWrite die s.dev.dtTable s.dev.dtIndex s.dev.dtValue).modDev fun d => { d with dtLeft := d.dtLeft.erase die }
    if s.dev.dtLeft.isEmpty && s.dev.dtClosing.isNone then s.post .tableUpdateDone else s
  else s
/-- TABLE_UPDATE_DONE (R15): all four dies' copies hold the new value, and BUSY clears. -/
def execTableUpdateDone (s : State) : Host.Outcome State Fault Refusal :=
  .next (if s.dev.dtLeft.isEmpty && s.dev.dtClosing.isNone then s.modDev fun d => { d with dtBusy := false } else s)
/-- The homes with an entry of a region's lines. -/
def State.regionHomes (s : State) (region : Nat) : List Nat :=
  s.homes.filterMap fun h => if (h.2.linesOf (inRegion region)).isEmpty then none else some h.1
/-- Requests of a region on their way to or from a home, held at one but for a request of another device that the recall holds, or asked of
another device (R18). DEDUCED: a request under a replay token is one that its home still has to serve. Log 59. -/
def State.regionBusy (s : State) (region : Nat) : Bool :=
  let mine := fun (r : Req) => inRegion region (r.va.toNat / 65536)
  (s.agenda.any fun e => match e with
    | .homeRequest _ r => mine r
    | .homeReadShared _ r => mine r
    | .homeReadExclusive _ r => mine r
    | .homeUpgrade _ r => mine r
    | .homeDirectRequest _ r => mine r
    | .remoteLeaseGrant _ r => mine r
    | .ownershipGrant r _ => mine r
    | .icacheFill r _ => mine r
    | .stashFill r _ => mine r
    | .stashUpgradeGrant r _ => mine r
    | .laneStoreFill r _ => mine r
    | _ => false) ||
  s.dev.asked.any (fun a => mine a.2.2) ||
  s.homes.any fun h => (h.2.heldReqs.any fun r => r.dev == s.dev.no && mine r) || h.2.tokens.any fun t => t.2.held.any fun q => mine q.1
/-- A line of a region whose home is on another device, by the tables of a die. -/
def State.farLine (s : State) (region die line : Nat) : Bool :=
  inRegion region (line / 1024) && decide ((s.homeOf die (64 * line)).1 ≠ s.dev.no)
/-- Every lease on lines of a region that homes on other devices granted has ended (R18, R127). -/
def State.leasesOver (s : State) (region : Nat) : Bool :=
  (s.slices.all fun k => k.2.lines.all fun l => match l.2.st with
    | .L e => !inRegion region (l.1 / 1024) || decide (e ≤ s.nowOn (dieOfSlice k.1))
    | _ => true) &&
  (s.pairs.all fun p => p.2.all fun x => !s.farLine region (p.1 / 48) x.line || decide (x.lend ≤ s.nowOn (p.1 / 48))) &&
  (s.cores.all fun c => c.2.icache.all fun x => !s.farLine region (dieOf c.1) x.line || decide (x.lend ≤ s.nowAt c.1)) &&
  s.teams.all fun t => t.2.window.all fun q => match q.2.stash with
    | some r => r.lines.all fun l => l.2.st != .S || !s.farLine region (dieOf t.2.core) (vaOf r.ptr / 64 + l.1) || decide (l.2.lend ≤ s.nowAt t.2.core)
    | none => true
/-- The stashes give the owned lines of a region back to homes on other devices (R18, R124). -/
def State.regionBack (s : State) (region : Nat) : State :=
  s.teams.foldl (fun s t => t.2.window.foldl (fun s q => match q.2.stash with
    | some r =>
      let far := fun (l : Nat × StashLine) => l.2.st != .S && s.farLine region (dieOf t.2.core) (vaOf r.ptr / 64 + l.1)
      (s.sendBack (dieOf t.2.core) t.1 q.1 { r with lines := r.lines.filter far }).modStash t.1 q.1 fun r =>
        { r with lines := r.lines.filter fun l => !far l }
    | none => s) s) s
/-- Homes whose recall of a closing region has entries to take. -/
def State.regionOpen (s : State) (region : Nat) : List Nat :=
  (s.regionHomes region).filter fun h => !s.linesMove h (inRegion region) && s.recallOpen h (inRegion region) != []
/-- Every home of a closing region can report done (R18, R25). -/
def State.regionReady (s : State) (region : Nat) : Bool :=
  ((s.regionHomes region).all fun h => !s.linesMove h (inRegion region) && s.recallDue h (inRegion region)) && s.leasesOver region
/-- REGION_CLOSE_RECALL_DONE (R18): the homes take their entries, copies outside the package first; when the last one reports done, no copy
of the region's lines is left and BUSY clears. -/
def execRegionCloseRecallDone (region : Nat) (s : State) : Host.Outcome State Fault Refusal :=
  if s.dev.dtClosing ≠ some region ∨ s.dev.dtLeft ≠ [] ∨ s.regionBusy region = true then .next s
  else if s.regionOpen region ≠ [] then .next ((s.regionOpen region).foldl (fun s h => s.recallEnter h (inRegion region)) s)
  else if !s.regionReady region then .next s
  else
    let s := (s.regionHomes region).foldl (fun s h => s.recallLines h (inRegion region)) s
    let s := (s.regionBack region).modDev fun d => { d with dtBusy := false, dtClosing := none }
    .next (s.homes.foldl (fun s h => s.serveHeld h.1) s)

/-! ## The fault queue (R31, R32) -/

/-- m of a ring (R32). -/
def FaultQ.logn (q : FaultQ) : Nat := min 10 (dbits q.cfg 3 0) + 6
/-- Unread records. -/
def FaultQ.unread (q : FaultQ) : Nat := (q.tail + 2 ^ q.logn - q.head) % 2 ^ q.logn
/-- The ring is full. -/
def FaultQ.full (q : FaultQ) : Bool := (q.tail + 1) % 2 ^ q.logn == q.head
/-- THR. -/
def FaultQ.thr (q : FaultQ) : Nat := max 1 (dbits q.cfg 39 32)
/-- COAL in ns. -/
def FaultQ.coal (q : FaultQ) : Nat := 1000 * dbits q.cfg 47 40
/-- The unit is to raise its vector now: it is armed, and THR records are unread or the oldest is COAL old (R32). -/
def FaultQ.raises (q : FaultQ) (now : Nat) : Bool :=
  q.armed && decide (0 < q.unread) && (decide (q.thr ≤ q.unread) || match q.times with
    | t :: _ => decide (t + q.coal ≤ now)
    | [] => false)
/-- The vector is raised if it is due, which disarms the unit; else a coalescing time is set (R32). -/
def State.fqInterrupt (s : State) (p : Nat) : State :=
  let q := (s.part p).fq
  if q.raises s.now then (s.modPart p fun k => { k with fq := { k.fq with armed := false } }).out (.msix (p + 1) (dbits q.cfg 26 16))
  else match q.times with
  | t :: _ => if q.armed && !(s.due.any fun d => d.2 == .faultQueueCoalesce p) then s.postAt (3 * (t + q.coal)) (.faultQueueCoalesce p) else s
  | [] => s
/-- A record as written: PHASE and SEQ beside it (R31). -/
def ringRecord (q : FaultQ) (r : BitVec 512) : BitVec 512 :=
  BitVec.ofNat 512 (r.toNat + (if q.pass then 2 ^ 504 else 0) + q.seq % 2 ^ 32 * 2 ^ 352)
/-- The agent that the fault-queue unit of a partition is (R119). -/
def fqAgent (part : Nat) : Nat := 64 + part
/-- The page of a ring cannot be written: it is not mapped, or at tier 1 (R32). -/
def State.ringBad (s : State) (part va : Nat) (bs : List Byte) : Bool :=
  s.podFailsW (fqAgent part) 2 va bs || match s.ownHome (s.seat (fqAgent part)) va with
    | some h => match s.pte? h (va / 65536) with
      | some e => pTier e.1 == 1
      | none => true
    | none => false
/-- FAULT_RECORD_WRITE (R32): the oldest waiting record, if there is room. -/
def execFaultRecordWrite (part : Nat) (s : State) : Host.Outcome State Fault Refusal :=
  if 64 ≤ part then .fault .noSuchUnit
  else
    let q := (s.part part).fq
    match q.waiting with
    | [] => .next s
    | r :: t =>
      if q.err || q.full then .next s
      else
        let va := vaOf q.base + 64 * q.tail
        let bs := toBytes 64 (ringRecord q r).toNat
        if s.ringBad part va bs then .next (s.modPart part fun k => { k with fq := { k.fq with err := true } })
        else match s.podWrite (fqAgent part) 2 va bs with
        | none => .next ((s.podAskW part (fqAgent part) 2 va bs).postAt (s.clock + 64) (.faultRecordWrite part))
        | some s =>
          let tail := (q.tail + 1) % 2 ^ q.logn
          let s := s.modPart part fun k => { k with fq :=
            { k.fq with tail := tail, pass := if tail = 0 then !q.pass else q.pass, seq := (q.seq + 1) % 2 ^ 32, waiting := t, times := q.times ++ [s.now] } }
          let s := s.fqInterrupt part
          .next (if t.isEmpty then s else s.postOnce (.faultRecordWrite part))
/-- FAULT_QUEUE_COALESCE (R32). -/
def execFaultQueueCoalesce (part : Nat) (s : State) : Host.Outcome State Fault Refusal :=
  if 64 ≤ part then .fault .noSuchUnit else .next (s.fqInterrupt part)
/-- FQBASE_WRITE (R32): the ring is emptied and the pass bit set; a write under way to the old ring counts no longer. -/
def execFqbaseWrite (part : Nat) (v : DWord) (s : State) : Host.Outcome State Fault Refusal :=
  if 64 ≤ part then .fault .noSuchUnit
  else
    let size : Nat := 64 * 2 ^ (s.part part).fq.logn
    let s := { s with mail := s.mail.filter fun m => m.agent != fqAgent part }
    .next ((s.modPart part fun k => { k with fq :=
      { k.fq with base := dw (v.toNat / size * size), head := 0, tail := 0, err := false, pass := true, times := [] } }).postOnce
        (.faultRecordWrite part))
/-- FQHEAD_WRITE (R32): records are read, and the interrupt is armed again. -/
def execFqheadWrite (part : Nat) (v : DWord) (s : State) : Host.Outcome State Fault Refusal :=
  if 64 ≤ part then .fault .noSuchUnit
  else
    let q := (s.part part).fq
    let n : Nat := 2 ^ q.logn
    let step := (v.toNat % n + n - q.head) % n
    let s := s.modPart part fun k => { k with fq :=
      if step ≤ q.unread then { k.fq with head := v.toNat % n, times := q.times.drop step, armed := true } else { k.fq with armed := true } }
    .next ((s.fqInterrupt part).postOnce (.faultRecordWrite part))

end Sys2Proof.Machine
end

