-- ==== Sys2Proof/Machine/LaneMem.lean ====
section
/-! DEFINITION. Lane-set memory instructions: `ld`, `st` and `atom` (R282 to R288) with the lane store (R54, R55), and `sld`, `sst`
and `satom` (R289 to R292) with the slot checks of R71, R77 and R88, the passes of R72 and the stash (R65, R66). -/

namespace Sys2Proof.Machine

/-! ## Release and acquire (R103, R105) -/

/-- The conditions of a release at a scope hold for a thread, by the clock of its core (R103). -/
def releaseOk (now : Nat) (x : Thread) (scope : Nat) : Bool :=
  x.loads.isEmpty && x.stores.isEmpty && x.bankW.isEmpty && decide (x.hznT ≤ now) &&
    (decide (scope ≤ 1) || decide (x.hzg + delta scope ≤ now))
/-- A thread has read a value with a release tag as an acquire at a scope (R105): it adopts the tag, and from clu on performs no
later global load before tag + δ. -/
def Thread.acquire (x : Thread) (tag scope : Nat) : Thread :=
  let x := x.adopt tag
  if scope ≤ 1 then x else x.hold (tag + delta scope)
/-- The tag that a store or atomic of the thread carries (R104, R106). -/
def Thread.storeTag (x : Thread) (release : Bool) : DWord := dw (if release then max x.fenceTag x.hzg else x.fenceTag)

/-! ## Shared steps of the global accesses (R282) -/

/-- Where a thread of the issue set stands, as its fate was computed. -/
def State.laneCtx? (s : State) (core : Nat) (r : Run) (q : ThreadRef) : Option LaneCtx :=
  match s.team? q.ctx, s.group? q.ctx q.grp with
  | some t, some g => some ⟨q, core, t, g, r.jo, r.pc⟩
  | _, _ => none
/-- The thread waits, out of every run, at the instruction. -/
def Thread.park (x : Thread) (c : Stall) (pc : DWord) : Thread := { x with st := .parked c false, pc := pc }
/-- The thread is suspended at the instruction (R148). -/
def Thread.suspend (x : Thread) (pc : DWord) : Thread := { x with st := .suspended, pc := pc }
/-- The address lies in the thread's own private segment (R282). -/
def LaneCtx.inPriv (c : LaneCtx) (ea : DWord) : Bool :=
  let b := c.team.priv c.ref.grp c.ref.idx
  decide (b ≤ vaOf ea) && decide (vaOf ea < b + (c.team.role c.group).p64)
/-- The offset of an address in the thread's own segment. -/
def LaneCtx.privOff (c : LaneCtx) (ea : DWord) : Nat := vaOf ea - c.team.priv c.ref.grp c.ref.idx
/-- The pointer in v(2n):v(2n+1) moved by an offset, before relocation (R9). -/
def gPointer (x : Thread) (n : BitVec 6) (off : Nat) : DWord := ptrAdd (dw (x.rs (2 * n.toNat) 2)) off
/-- The pair of registers that holds an address. -/
def addrOp (n : BitVec 6) : VOp := ⟨2 * n.toNat, 2, false⟩
/-- The first check that fails at the core, of alignment and Locket, as a fault (R282 steps 4, 6). DEDUCED: the region of step 7 is that
of a request that misses: the slice's verdict brings its fault (R16, R17). Log 60. -/
def gFault (t : Team) (ea : DWord) (size right : Nat) (priv : Bool) : Option Fate :=
  if vaOf ea % size ≠ 0 then some (.fault cMisaligned 0 ea)
  else if priv then none
  else if !locketOk t.keys ea right then some (.fault cKey 0 ea)
  else none
/-- A line of the thread's own segment that memory must have before an access leaves: dirty in the lane store, or written back and not yet
accepted (R283). -/
def State.laneFirst (s : State) (c : LaneCtx) (ea : DWord) : Option Nat :=
  let line := c.privOff ea / 64
  let dirty := match (s.core c.core).laneLine c.ref line with
    | some y => y.dirty != 0
    | none => false
  if c.inPriv ea = true ∧ (dirty || (s.core c.core).laneBusy c.ref line) = true then some line else none
/-- The lane-store line of a thread's own segment is dropped, and a fill of it under way is given up (R283). -/
def State.laneDrop (s : State) (c : LaneCtx) (line : Nat) : State :=
  s.modCore c.core fun k =>
    { k with
      lanes := k.lanes.filter fun x => !(x.owner == c.ref && x.line == line)
      laneAsked := k.laneAsked.filter fun a => !(a.1 == c.ref && a.2.1 == line) }
/-- The lane-store line of a thread's own segment is written back, if it is dirty, and dropped (R283). -/
def State.laneFlush (s : State) (c : LaneCtx) (line : Nat) : State :=
  match (s.core c.core).laneLine c.ref line with
  | some y => (if y.dirty = 0 then s else s.laneBack c.core y).laneDrop c line
  | none => s.laneDrop c line
/-- The rest of a global access that leaves the core: waits of R105, R98 and R103, then suspension. `load`: it returns a value. -/
def State.gLeave (s : State) (c : LaneCtx) (x : Thread) (ea : DWord) (load : Bool) (order scope : Nat) : Fate :=
  let now := s.nowAt c.core
  if load && decide (now < x.notBefore) then .leave (x.park (.acquire x.notBefore) c.pc) 0#40
  else if x.stores.any (fun p => decide (p.2 = vaOf ea / 64)) then .leave (x.park (.ownStore (vaOf ea / 64)) c.pc) 0#40
  else if 2 ≤ order && !releaseOk now x scope then .leave (x.park (.release (BitVec.ofNat 3 scope)) c.pc) 0#40
  else match s.laneFirst c ea with
  | some l => .wait (.laneBack l)
  | none => .leave (x.suspend c.pc) 0#40
/-- A relaxed access of a thread to its own segment, or a pop or push there: it waits for its own stores to the line (R98, R283), then is
served by a lane-store line that holds the bytes, or waits for its fill (R55). -/
def State.ownFate (s : State) (c : LaneCtx) (x : Thread) (off n : Nat) (ok : LaneLine → Fate) : Fate :=
  let line := (c.team.priv c.ref.grp c.ref.idx + off) / 64
  if x.stores.any (fun p => decide (p.2 = line)) then .wait (.ownStore line)
  else match (s.core c.core).laneHit c.ref (off / 64) (off % 64) n with
  | some y => ok y
  | none => .wait (.laneLine (off / 64))
/-- Threads that leave for a request. -/
def leavers (fs : List (ThreadRef × Fate)) : Nat :=
  (fs.filter fun f => match f.2 with
    | .leave y _ => y.st == .suspended
    | _ => false).length
/-- What the waits of a list of fates ask of the lane stores: a fill, or a write-back (R55, R283). -/
def State.laneWaits (s : State) (k : Nat) (r : Run) (fs : List (ThreadRef × Fate)) : State :=
  fs.foldl (fun s f => match s.laneCtx? k r f.1, f.2 with
    | some c, .wait (.laneLine l) => s.laneAsk c.core f.1 l
    | some c, .wait (.laneBack l) => if (s.core c.core).laneBusy f.1 l then s else s.laneFlush c l
    | _, _ => s) s
/-- A global memory word issues: every thread meets its fate; then, unless the set stalls, `after` acts for each thread in turn, and
what is missing in the lane stores is asked for in any case (R55, R148). The set waits while the core's miss table lacks room for its
requests (R2, R134). -/
def State.issueMem (s : State) (i : Instr) (m : Mod) (gm : Bool) (vs : List VOp) (fate : LaneCtx → Thread → Fate)
    (after : State → LaneCtx → Thread → Fate → State) : State :=
  match s.run? with
  | none => s
  | some (k, r) =>
    let fs := s.laneFates k r i m gm vs [] fate
    if leavers fs ≠ 0 ∧ missRoom < s.outstanding k + leavers fs then s.stall .missTable
    else
      let s1 := ((s.nameLines k r fs vs []).meet i fs).laneWaits k r fs
      if (firstWait r.bound fs).isSome then s1
      else fs.foldl (fun s2 f =>
        match s.laneCtx? k r f.1, s.thread? f.1 with
        | some c, some x => after s2 c x.tick f.2
        | _, _ => s2) s1
/-- A request leaves for a thread that is suspended: the lane-store line of its own segment is dropped, the request gets its number, and
the thread remembers what it waits for. -/
def State.sendFor (s : State) (c : LaneCtx) (ea : DWord) (mk : Nat → Req) (note : Nat → Thread → Thread) : State :=
  let s := if c.inPriv ea then s.laneDrop c (c.privOff ea / 64) else s
  let n := s.newId
  ((n.2.modThread c.ref (note n.1)).send (mk n.1))
/-- The request of a thread at an address, before its own fields. -/
def State.laneReq (s : State) (c : LaneCtx) (i : Instr) (p : DWord) (id : Nat) : Req :=
  { reqAt (reqOf s.dev.no c.team c.ref.ctx c.core (.thread c.ref) c.pc (ptrAdd c.pc (4 * i.words))) c.team (relocate c.team.apx p)
      (hostForm p) with id := id }

/-! ## Sizes -/

/-- A loaded value as its registers hold it (R285). -/
def loaded (szc : BitVec 3) (x : Nat) : Nat :=
  if szc = 1#3 then umod 32 (sint 8 x) else if szc = 3#3 then umod 32 (sint 16 x) else x

/-! ## ld, st, atom -/

/-- The byte offset of an `ld` (R285). -/
def ldOffset (m : Mod) (f : LM) : Nat := f.i.toNat * sizeBytes f.s + m.vc.toNat * 16
/-- LD (R285). -/
def execLd (m : Mod) (f : LM) (s : State) : Host.Outcome State Fault Refusal :=
  let d := many (sizeRegs f.s) f.d
  let size := sizeBytes f.s
  .next (s.issueMem (.ld m f) m true [d, addrOp f.n]
    (fun c x =>
      if !takesPart m x then .go (if m.z then x.clear d else x) 0#40
      else
        let ea := relocate c.team.apx (gPointer x f.n (ldOffset m f))
        let priv := c.inPriv ea && m.order == 0#2
        match gFault c.team ea size 0 priv with
        | some e => e
        | none =>
          if priv then
            s.ownFate c x (c.privOff ea) size fun y => .go (x.set d (loaded f.s (lineGet y.data (c.privOff ea % 64) size))) 0#40
          else s.gLeave c x ea true m.order.toNat m.scope.toNat)
    (fun s c x fa =>
      let p := gPointer x f.n (ldOffset m f)
      let ea := relocate c.team.apx p
      match fa with
      | .go _ _ =>
        if takesPart m x && c.inPriv ea then
          match (s.core c.core).laneLine c.ref (c.privOff ea / 64) with
          | some y => s.laneInsert c.core y
          | none => s
        else s
      | .leave y _ =>
        if y.st = .suspended then
          s.sendFor c ea
            (fun id => { s.laneReq c (.ld m f) p id with
              size := size, dst := f.d.toNat, szc := f.s, look := f.k.toNat, order := m.order, scope := m.scope })
            fun id x => { x with loads := [⟨id, f.d.toNat, sizeRegs f.s, f.k.toNat, m.order == 1#2, false⟩] }
        else s
      | _ => s))

/-- The byte offset of an `st` (R286). -/
def stOffset (m : Mod) (f : LST) : Nat := f.i.toNat * sizeBytes f.s + m.vc.toNat * 16
/-- ST (R286). -/
def execSt (m : Mod) (f : LST) (s : State) : Host.Outcome State Fault Refusal :=
  let v := many (sizeRegs f.s) f.v
  let size := sizeBytes f.s
  .next (s.issueMem (.st m f) m true [v, addrOp f.n]
    (fun c x =>
      if !takesPart m x then .go x 0#40
      else
        let ea := relocate c.team.apx (gPointer x f.n (stOffset m f))
        let priv := c.inPriv ea && m.order == 0#2
        match gFault c.team ea size 1 priv with
        | some e => e
        | none =>
          if priv then s.ownFate c x (c.privOff ea) size fun _ => .go x 0#40
          else s.gLeave c x ea false m.order.toNat m.scope.toNat)
    (fun s c x fa =>
      let p := gPointer x f.n (stOffset m f)
      let ea := relocate c.team.apx p
      match fa with
      | .go _ _ =>
        if takesPart m x && c.inPriv ea then
          s.laneWrite c.core (c.group.lane c.ref.idx) c.ref (c.privOff ea) size (x.get v)
        else s
      | .leave y _ =>
        if y.st = .suspended then
          s.sendFor c ea
            (fun id => { s.laneReq c (.st m f) p id with
              acc := .store, size := size, data := BitVec.ofNat 512 (x.get v), tag := x.storeTag (m.order == 2#2),
              order := m.order, scope := m.scope, excl := true })
            fun id x => { x with stores := x.stores ++ [(id, vaOf ea / 64)] }
        else s
      | _ => s))

/-- Bytes of an atomic's word (R287). -/
def atomSize (o : BitVec 4) : Nat := if o = 11#4 ∨ o = 12#4 then 8 else 4
/-- An atomic's operand and expected value, from its operand registers as one number (R287). -/
def atomOperand (o : BitVec 4) (v : Nat) : Nat × Nat :=
  if o = 10#4 then (v / 2 ^ 32, v % 2 ^ 32) else if o = 12#4 then (v / 2 ^ 64, v % 2 ^ 64) else (v, 0)
/-- ATOM (R287, R288). -/
def execAtom (m : Mod) (f : LAT) (s : State) : Host.Outcome State Fault Refusal :=
  let d := many (atomRegs f.o) f.d
  let size := atomSize f.o
  .next (s.issueMem (.atom m f) m true [d, addrOp f.n]
    (fun c x =>
      if !takesPart m x then .go (if m.z then x.clear d else x) 0#40
      else
        let ea := relocate c.team.apx (gPointer x f.n (m.vc.toNat * 16))
        match gFault c.team ea size 2 false with
        | some e => e
        | none => s.gLeave c x ea true m.order.toNat m.scope.toNat)
    (fun s c x fa =>
      let p := gPointer x f.n (m.vc.toNat * 16)
      let ea := relocate c.team.apx p
      let v := atomOperand f.o (x.get d)
      match fa with
      | .leave y _ =>
        if y.st = .suspended then
          s.sendFor c ea
            (fun id => { s.laneReq c (.atom m f) p id with
              acc := .atomic f.o, size := size, data := BitVec.ofNat 512 v.1, cmp := dw v.2, dst := f.d.toNat,
              tag := x.storeTag (m.order == 2#2 || m.order == 3#2), order := m.order, scope := m.scope, excl := true })
            fun id x => { x with stores := x.stores ++ [(id, vaOf ea / 64)] }
        else s
      | _ => s))

/-! ## Bank addresses (R70, R71, R77, R88) -/

/-- What a bank access is for (R77). -/
inductive Use where
  | load | store | atomic
  /-- A sync word or barrier word. -/
  | word
  /-- A copy destination. -/
  | dest
  /-- A gather destination. -/
  | gathered
  /-- A `tst` (R350). -/
  | tile
  /-- Any other use by an engine or the matrix array. -/
  | engine
  deriving DecidableEq, Repr

/-- Where a bank address leads. -/
inductive Place where
  /-- A bank of a cluster. -/
  | bank (cluster bank off : Nat)
  /-- A phase-shadow slot of a team, by a remote access. -/
  | remote (ctx slot cluster bank off : Nat)
  /-- A line of a stash: team, slot, record, line, and where it stands in the bank. -/
  | stash (ctx slot : Nat) (rec : StashRec) (line cluster bank off : Nat)
  deriving DecidableEq, Repr

/-- The team that a remote store targets (R88). -/
def State.remoteTeam (s : State) (ctx : Nat) (t : Team) (tcore : Nat) : Option (Nat × Team) :=
  if t.cset then List.find? (fun (p : Nat × Team) => p.2.cset && p.2.leader == t.leader && p.2.core % 4 == tcore) s.teams
  else if t.pspan then (if t.core % 4 = tcore ∨ t.core % 4 + 1 = tcore then some (ctx, t) else none)
  else if t.core % 4 = tcore then some (ctx, t) else none
/-- A mode serves a use (R77); the stash is settled before. -/
def modeServes (m : SlotMode) (u : Use) : Bool :=
  match m with
  | .priv => true
  | .pair => true
  | .front => true
  | .shadow => match u with
    | .store => true
    | .dest => true
    | .gathered => true
    | .tile => true
    | _ => false
  | _ => false
/-- The checks of R71 on an address in order, for `size` bytes aligned to `align`: a place, or a cause. -/
def State.bankPlace (s : State) (ctx : Nat) (t : Team) (a size align : Nat) (u : Use) : Except Nat Place :=
  let rmt := bitN a 27
  let off := bits a 16 0
  let slot := bits a 20 17
  let cl := clusterOf t.core
  if bits a 31 28 ≠ 0 ∨ bits a 23 21 ≠ 0 ∨ (rmt = false ∧ bits a 26 24 ≠ 0) ∨ (rmt = true ∧ bitN a 26 = true) ∨
      (rmt = true ∧ u ≠ .store ∧ u ≠ .dest) ∨ off % align ≠ 0 then .error cBank
  else if rmt then
    match s.remoteTeam ctx t (bits a 25 24) with
    | some (c, r) =>
      if (r.slot slot).mode ≠ .shadow then .error cRemote
      else if 131072 < off + size then .error cBank
      else .ok (.remote c slot (clusterOf r.core) (r.slot slot).bank off)
    | none => .error cRemote
  else
    let q := t.slot slot
    if q.mode = .empty then .error (if q.det then cDetached else cEmpty)
    else if q.mode = .stash then
      match u, q.stash with
      | .load, some r => if r.len < off + size then .error cStashRange else .ok (.stash ctx slot r (off / 64) cl q.bank off)
      | .store, some r => if r.len < off + size then .error cStashRange else .ok (.stash ctx slot r (off / 64) cl q.bank off)
      | .atomic, some r => if r.len < off + size then .error cStashRange else .ok (.stash ctx slot r (off / 64) cl q.bank off)
      | _, _ => .error cSlotMode
    else if !modeServes q.mode u then .error cSlotMode
    else if 131072 < off + size then .error cBank
    else .ok (.bank cl q.bank off)

/-! ## Passes (R72) -/

/-- The words that a pass serves in the sub-banks: sub-bank key and word. -/
abbrev Pass := List (Nat × Nat)
/-- The words of an access: sub-bank key (over every bank of the cluster) and word address. -/
def accessWords (bank off size : Nat) : List (Nat × Nat) :=
  (List.range ((size + 3) / 4)).map fun k => (bank * 32 + (off / 4 + k) % 32, bank * 32768 + off / 4 + k)
/-- The pass can serve the words too; threads reading one word are served together. -/
def Pass.fits (p : Pass) (share : Bool) (ws : List (Nat × Nat)) : Bool :=
  ws.all fun w => p.all fun q => q.1 != w.1 || (share && q.2 == w.2)
/-- The access is put into the first of the passes that can serve it; false: none can. -/
def placePass (ps : List Pass) (share : Bool) (ws : List (Nat × Nat)) : List Pass × Bool :=
  match ps with
  | [] => ([], false)
  | p :: t =>
    if p.fits share ws then ((ws ++ p) :: t, true)
    else
      let r := placePass t share ws
      (p :: r.1, r.2)
/-- Which accesses, in the order given, are served within 4 passes. -/
def served (share : Bool) (as : List (ThreadRef × List (Nat × Nat))) : List ThreadRef :=
  (as.foldl (fun st a =>
    let r := placePass st.1 share a.2
    (r.1, if r.2 then st.2 ++ [a.1] else st.2)) (([[], [], [], []] : List Pass), ([] : List ThreadRef))).2

/-! ## Stash lines (R65, R66) -/

/-- A stash line as an access finds it: ready, missing, or refused. -/
inductive StashLook where
  | ready
  /-- It must be filled, or with `up` regained exclusively. -/
  | missing (up : Bool)
  | fault (cause : Nat)
  deriving DecidableEq, Repr
/-- A stash line that must be filled: the refusal that its last fill has met, if it has met one (R67, R69). -/
def StashRec.unfilled (r : StashRec) (line : Nat) (up : Bool) : StashLook :=
  if r.revoked.contains line then .fault cStashRevoked else if r.closed.contains line then .fault cRegion else .missing up
/-- The look of a stash line for an access at pod time `now` (R65 to R69). -/
def StashRec.look (r : StashRec) (line now : Nat) (write : Bool) : StashLook :=
  if write && !r.wr then .fault cStashWrite
  else match r.lines.find? line with
    | none => r.unfilled line false
    | some y =>
      if y.st = .S then (if y.lend = 0 ∨ now < y.lend then .ready else r.unfilled line false)
      else if write && y.st = .O then r.unfilled line true
      else .ready
/-- A stash line is asked for, once (R65, R66). -/
def State.stashAsk (s : State) (c : LaneCtx) (ctx slot : Nat) (r : StashRec) (line bank : Nat) (up : Bool) : State :=
  if r.asked.contains line then s
  else
    let n := s.newId
    let s := n.2.modStash ctx slot fun r => { r with asked := line :: r.asked }
    let p := ptrAdd r.ptr (64 * line)
    s.toSlice { reqAt (reqOf s.dev.no c.team ctx c.core (.stash (clusterOf c.core) bank c.ref) c.pc c.pc) c.team p false with
      id := n.1, gkid := r.gkid, excl := r.wr, upg := up } none
/-- A stash write is performed at the stash: the bank changes, the line is M, W is formed from what its grant carried and the
leases that the slice granted, and the tag is at least the writer's last release fence (R66, R104, R106, R126). -/
def State.stashWrite (s : State) (core ctx slot line cluster bank off size v : Nat) (tag : DWord) : Nat × State :=
  let die := dieOf core
  match s.team? ctx with
  | none => (0, s)
  | some t =>
    match (t.slot slot).stash with
    | none => (0, s)
    | some r =>
      match r.lines.find? line with
      | none => (0, s)
      | some y =>
        let pl := vaOf r.ptr / 64 + line
        let lmax := maxL 0 ((s.holders die pl).filterMap fun n => ((s.slice n).lines.find? pl).map fun x => x.lmax)
        let w := wTime false (s.nowOn die) y.wl y.fd y.fr lmax
        (w, (s.bankPut cluster bank off size v).modStash ctx slot fun r =>
          { r with lines := r.lines.put line { y with st := .M, wl := w, tag := if y.tag < tag then tag else y.tag } })
/-- A line of a read-only stash over a page without leases serves one access (R65). -/
def State.stashUsed (s : State) (ctx slot line : Nat) : State :=
  s.modStash ctx slot fun r => match r.lines.find? line with
    | some y => if y.st = .S ∧ y.lend = 0 then { r with lines := r.lines.del line } else r
    | none => r

/-! ## sld, sst, satom -/

/-- The bank address of an access with offset `o` added over the 17 bits of OFF; none: a carry (R289). -/
def nearAddr (x : Thread) (a : BitVec 7) (o : Nat) : Option Nat :=
  let v := (x.r a.toNat).toNat
  if 2 ^ 17 ≤ v % 2 ^ 17 + o then none else some (v + o)
/-- A bank write of the thread that has not retired touches one of the 4-byte words of an access (R111). -/
def Cluster.ownWrite (k : Cluster) (x : Thread) (bank off size : Nat) : Option Nat :=
  (k.writes.find? fun w => x.bankW.contains w.id && w.bank == bank && decide (w.off / 4 * 4 < off + size) &&
      decide (off / 4 * 4 < w.off + w.size)).map
    fun w => w.id
/-- A near access must wait for the data of an acquire load (R285). -/
def Thread.acqWait (x : Thread) : Option Nat := (x.loads.find? fun l => l.acq).map fun l => l.id
/-- The fate of a thread at a bank access, before the passes: `ok` gives what it does at its place. A missing stash line takes the thread
out of a run that is not bound until it has come (R65). -/
def State.nearFate (s : State) (bound : Bool) (c : LaneCtx) (x : Thread) (a : BitVec 7) (o size align : Nat) (u : Use) (ok : Place → Fate) : Fate :=
  match x.acqWait with
  | some l => .wait (.loadData l)
  | none =>
    match nearAddr x a o with
    | none => .fault cBank 0 (dw (((x.r a.toNat).toNat + o) % 2 ^ 32))
    | some b =>
      match s.bankPlace c.ref.ctx c.team b size align u with
      | .error e => .fault e 0 (dw b)
      | .ok (.stash ctx slot r line cl bank off) =>
        match r.look line (s.nowAt c.core) (u != .load) with
        | .fault e => .fault e 0 (if e = cRegion then ptrAdd r.ptr off else dw b)
        | .missing _ => if bound then .wait (.stashLine cl bank line) else .leave (x.park (.stashLine cl bank line) c.pc) 0#40
        | .ready => ok (.stash ctx slot r line cl bank off)
      | .ok p =>
        match p with
        | .bank cl bank off =>
          match (s.cluster cl).ownWrite x bank off size with
          | some w => .wait (.ownWrite w)
          | none => ok p
        | _ => ok p
/-- The words of a served place, for the passes (R72). -/
def placeWords (p : Place) (size : Nat) : List (Nat × Nat) :=
  match p with
  | .bank _ bank off => accessWords bank off size
  | .remote _ _ _ bank off => accessWords bank off size
  | .stash _ _ _ _ _ bank off => accessWords bank off size
/-- The place of a thread's near access, if its checks pass. -/
def State.nearPlace (s : State) (c : LaneCtx) (x : Thread) (a : BitVec 7) (o size align : Nat) (u : Use) : Option Place :=
  match nearAddr x a o with
  | none => none
  | some b =>
    match s.bankPlace c.ref.ctx c.team b size align u with
    | .ok p => some p
    | .error _ => none
/-- A refusal of a stash line's fill has been taken: the next access asks again (R65, R67). -/
def State.stashTold (s : State) (p : Option Place) : State :=
  match p with
  | some (.stash ctx slot _ line _ _ _) => s.modStash ctx slot fun r =>
    { r with revoked := r.revoked.filter fun l => l != line, closed := r.closed.filter fun l => l != line }
  | _ => s
/-- The bank and the line of a stash that a fate waits for. -/
def Fate.stashMiss (f : Fate) : Option (Nat × Nat) :=
  match f with
  | .wait (.stashLine _ bank line) => some (bank, line)
  | .leave y _ => match y.st with
    | .parked (.stashLine _ bank line) _ => some (bank, line)
    | _ => none
  | _ => none
/-- A bank access issues (R289): fates, passes, and then `act` for each served thread in turn. -/
def State.issueNear (s : State) (i : Instr) (m : Mod) (vs : List VOp) (a : BitVec 7) (o size align : Nat) (u : Use)
    (z : Thread → Thread) (act : State → LaneCtx → Thread → Place → State) : State :=
  match s.run? with
  | none => s
  | some (k, r) =>
    let fs0 := s.laneFates k r i m false vs [] fun c x =>
      if !takesPart m x then .go (if m.z then z x else x) 0#40 else s.nearFate r.bound c x a o size align u fun _ => .go x 0#40
    let going := (goers fs0).filterMap fun q =>
      match s.laneCtx? k r q, s.thread? q with
      | some c, some x => if takesPart m x then (s.nearPlace c x a o size align u).map fun p => (c, x.tick, p) else none
      | _, _ => none
    let ok := served (u == .load) (going.map fun g => (g.1.ref, placeWords g.2.2 size))
    let fs := fs0.map fun f =>
      if r.bound || ok.contains f.1 || !(going.any fun g => g.1.ref == f.1) then f else (f.1, .wait .passes)
    let s1 := (s.nameLines k r fs vs []).meet i fs
    let s2 := fs.foldl (fun s2 f => match s.laneCtx? k r f.1, s.thread? f.1 with
      | some c, some x =>
        let p := s.nearPlace c x a o size align u
        match f.2.stashMiss, p, f.2 with
        | some (bank, line), some (.stash ctx slot rec _ _ _ _), _ =>
          s2.stashAsk c ctx slot ((((s2.team? ctx).bind fun t => (t.slot slot).stash)).getD rec) line bank
            (rec.look line (s.nowAt k) (u != .load) == .missing true)
        | _, _, .fault _ _ _ => s2.stashTold p
        | _, _, _ => s2
      | _, _ => s2) s1
    if (firstWait r.bound fs).isSome then s2
    else
      let done := going.filter fun g => (goers fs).contains g.1.ref
      let s3 := done.foldl (fun s3 g => act s3 g.1 g.2.1 g.2.2) s2
      done.foldl (fun s3 g => match g.2.2 with
        | .stash ctx slot _ line _ _ _ => s3.stashUsed ctx slot line
        | _ => s3) s3

/-- The bytes at a place. -/
def State.placeGet (s : State) (p : Place) (size : Nat) : Nat :=
  match p with
  | .bank cl bank off => s.bankGet cl bank off size
  | .remote _ _ cl bank off => s.bankGet cl bank off size
  | .stash _ _ _ _ cl bank off => s.bankGet cl bank off size
/-- The release tag of the line that a place lies in: a stash line's; a bank has none (R104). -/
def State.placeTag (s : State) (p : Place) : Nat :=
  match p with
  | .stash ctx slot rec line _ _ _ => match (((s.team? ctx).bind fun t => (t.slot slot).stash).getD rec).lines.find? line with
    | some y => y.tag.toNat
    | none => 0
  | _ => 0
/-- The thread has read a value with a release tag, for its next acquire fence (R106). -/
def Thread.tagged (x : Thread) (tag : Nat) : Thread := { x with loadTag := max x.loadTag tag }
/-- A bank write of a thread sets out; it retires later (R102, R111). -/
def State.startWrite (s : State) (q : ThreadRef) (cluster bank off size v : Nat) (shadow : Option (Nat × Nat)) : State :=
  let n := s.newId
  let w : BankWrite := ⟨n.1, some q, none, cluster, bank, off, size, BitVec.ofNat 512 v, shadow⟩
  ((n.2.modCluster cluster fun k => { k with writes := k.writes ++ [w] }).modThread q fun x =>
    { x with bankW := x.bankW ++ [n.1] }).post (.bankWriteRetire w)
/-- A stash write of a thread, which retires at once (R66, R101, R102). -/
def State.threadStashWrite (s : State) (c : LaneCtx) (x : Thread) (ctx slot line cl bank off size v : Nat) : State :=
  let r := s.stashWrite c.core ctx slot line cl bank off size v (x.storeTag false)
  r.2.modThread c.ref fun x => { x.adopt r.1 with hznT := max x.hznT (s.nowAt c.core) }

/-- SLD (R290). -/
def execSld (m : Mod) (f : LS) (s : State) : Host.Outcome State Fault Refusal :=
  let d := many (sizeRegs f.s) f.r
  let size := sizeBytes f.s
  .next (s.issueNear (.sld m f) m [d, one f.a] f.a (f.i.toNat * size) size size .load (fun x => x.clear d) fun s c _ p =>
    s.modThread c.ref fun x => (x.set d (loaded f.s (s.placeGet p size))).tagged (s.placeTag p))
/-- SST (R291). -/
def execSst (m : Mod) (f : LS) (s : State) : Host.Outcome State Fault Refusal :=
  let v := many (sizeRegs f.s) f.r
  let size := sizeBytes f.s
  .next (s.issueNear (.sst m f) m [v, one f.a] f.a (f.i.toNat * size) size size .store id fun s c x p =>
    let n := x.get v % 2 ^ (8 * size)
    match p with
    | .bank cl bank off => s.startWrite c.ref cl bank off size n none
    | .remote ctx slot cl bank off => s.startWrite c.ref cl bank off size n (some (ctx, slot))
    | .stash ctx slot _ line cl bank off => s.threadStashWrite c x ctx slot line cl bank off size n)
/-- SATOM (R292). -/
def execSatom (m : Mod) (f : LSA) (s : State) : Host.Outcome State Fault Refusal :=
  let d := many (atomRegs f.o) f.d
  let size := atomSize f.o
  let res := many (if size = 8 then 2 else 1) f.d
  .next (s.issueNear (.satom m f) m [d, one f.a] f.a 0 size size .atomic (fun x => x.clear d) fun s c x p =>
    let old := s.placeGet p size
    let tag := s.placeTag p
    let v := atomOperand f.o (x.get d)
    let new := atomFn f.o old v.1 v.2
    let s := match p with
      | .bank cl bank off => (s.bankPut cl bank off size new).modThread c.ref fun x => { x with hznT := max x.hznT (s.nowAt c.core) }
      | .remote _ _ cl bank off => s.bankPut cl bank off size new
      | .stash ctx slot _ line cl bank off => s.threadStashWrite c x ctx slot line cl bank off size new
    s.modThread c.ref fun x => (x.set res old).tagged tag)

end Sys2Proof.Machine
end

