-- ==== Sys2Proof/Machine/Control.lean ====
section
/-! DEFINITION. Control: branches and calls (R293 to R297), enrolment (R155), group barriers (R299), `exit`, `trap`, `yield`, `sleep`,
`nop` (R300) and `fence` (R106, R301). -/

namespace Sys2Proof.Machine

/-! ## Shared -/

/-- The thread leaves the run, ready at `pc`. -/
def Thread.readyAt (x : Thread) (pc : DWord) (now : Nat) : Thread := { x with pc := pc, st := .ready, since := now }
/-- A control word issues: it acts for every thread of the issue set, under no prefix. -/
def State.issueCtl (s : State) (i : Instr) (vs : Nat → List VOp) (gs : List Nat) (fate : LaneCtx → Thread → Fate) : State :=
  s.issueLane i bareMod vs gs fate
/-- A word of the call stack in its lane-store line (R295). -/
def LaneLine.stackWord (y : LaneLine) (off : Nat) : DWord := dw (lineGet y.data (off % 64) 8)
/-- The address of the word after the present one, as a link (R295). -/
def LaneCtx.link (c : LaneCtx) : DWord := ptrAdd c.pc 4
/-- A push's fate: room in the segment and its line in the lane store (R54, R295). -/
def State.pushFate (s : State) (c : LaneCtx) (x : Thread) (ok : Fate) : Fate :=
  if (c.team.role c.group).p64 < x.top + 8 then .fault cStack 0 (dw x.top)
  else s.ownFate c x x.top 8 fun _ => ok
/-- What a push writes, after its thread has gone. -/
def State.pushed (s : State) (c : LaneCtx) (x : Thread) (f : Fate) : State :=
  match f with
  | .leave _ _ => s.laneWrite c.core (c.group.lane c.ref.idx) c.ref x.top 8 c.link.toNat
  | _ => s

/-! ## Branches and calls -/

/-- A conditional branch: the threads for which `taken` holds leave the run, ready at the target (R293). -/
def State.branch (s : State) (i : Instr) (taken : Thread → Bool) (o : BitVec 16) : State :=
  s.issueCtl i (fun _ => []) [] fun c x =>
    if taken x then .leave (x.readyAt (branchTo c.pc 16 o.toNat) s.cycle) 0#40 else .go x 0#40
/-- BR (R293). -/
def execBr (e : Bool) (p : BitVec 7) (o : BitVec 16) (s : State) : Host.Outcome State Fault Refusal :=
  .next (s.branch (.br e p o) (fun x => x.pr p) o)
/-- BRN (R293). -/
def execBrn (e : Bool) (p : BitVec 7) (o : BitVec 16) (s : State) : Host.Outcome State Fault Refusal :=
  .next (s.branch (.brn e p o) (fun x => !x.pr p) o)
/-- CALL (R294). -/
def execCall (e : Bool) (o : BitVec 24) (s : State) : Host.Outcome State Fault Refusal :=
  .next (s.issueMem (.call e o) bareMod false []
    (fun c x => s.pushFate c x
      (.leave { x.readyAt (branchTo c.pc 24 o.toNat) s.cycle with top := x.top + 8 } 0#40))
    fun s c x f => s.pushed c x f)
/-- JMP (R294). -/
def execJmp (e : Bool) (o : BitVec 24) (s : State) : Host.Outcome State Fault Refusal :=
  .next (s.issueCtl (.jmp e o) (fun _ => []) [] fun c x => .leave (x.readyAt (branchTo c.pc 24 o.toNat) s.cycle) 0#40)
/-- RET (R297, R365). -/
def execRet (e : Bool) (s : State) : Host.Outcome State Fault Refusal :=
  .next (s.issueMem (.ret e) bareMod false []
    (fun c x =>
      if x.top < 8 then .fault cStack 0 (dw x.top)
      else s.ownFate c x (x.top - 8) 8 fun y =>
        .leave (({ x with top := x.top - 8 }).leaveHandler.readyAt (y.stackWord (x.top - 8)) s.cycle) 0#40)
    fun s c x f => match f, (s.core c.core).laneLine c.ref ((x.top - 8) / 64) with
      | .leave _ _, some y => s.laneInsert c.core y
      | _, _ => s)
/-- BRI (R297). -/
def execBri (e : Bool) (a : BitVec 7) (l : Bool) (s : State) : Host.Outcome State Fault Refusal :=
  .next (s.issueMem (.bri e a l) bareMod false [many 2 a]
    (fun c x =>
      let p := dw (x.rs a.toNat 2)
      if l then s.pushFate c x (.leave { x.readyAt p s.cycle with top := x.top + 8 } 0#40)
      else .leave (x.readyAt p s.cycle) 0#40)
    fun s c x f => if l then s.pushed c x f else s)

/-! ## Enrolment (R155) -/

/-- The bits of the threads of one group in a list. -/
def maskOf (ts : List ThreadRef) (ctx grp : Nat) : DWord :=
  dw (ts.foldl (fun a t => if t.ctx = ctx ∧ t.grp = grp then a ||| 2 ^ t.idx else a) 0)
/-- Mask register `g` of each group with the bits of its threads in `ts` set, and mask pairs settled. -/
def State.setMaskBits (s : State) (ts : List ThreadRef) (g : Nat) : State :=
  (groupsOf ts).foldl (fun s p => s.modGroup p.1 p.2 fun q =>
    (q.setG g (q.gr g ||| maskOf ts p.1 p.2)).rejoinAll s.cycle) s
/-- A control word that sets mask bits issues: the threads that its fate lets execute set theirs in register `h`. -/
def State.issueMask (s : State) (i : Instr) (gs : List Nat) (h : Nat) (fate : LaneCtx → Thread → Fate) : State :=
  match s.run? with
  | none => s
  | some (k, r) =>
    let fs := s.laneFates k r i bareMod false [] gs fate
    let s1 := (s.nameLines k r fs [] gs).meet i fs
    if (firstWait r.bound fs).isSome then s1
    else s1.setMaskBits (fs.filterMap fun f => match f.2 with
      | .go _ _ => some f.1
      | .leave _ _ => some f.1
      | _ => none) h
/-- ENROL (R155). -/
def execEnrol (e : Bool) (g : BitVec 6) (s : State) : Host.Outcome State Fault Refusal :=
  .next (s.issueMask (.enrol e g) [g.toNat, g.toNat + 1] g.toNat fun _ x => .go x 0#40)
/-- REJOIN (R155). -/
def execRejoin (e : Bool) (g : BitVec 6) (s : State) : Host.Outcome State Fault Refusal :=
  .next (s.issueMask (.rejoin e g) [g.toNat, g.toNat + 1] (g.toNat + 1) fun c x =>
    if (c.group.gr g.toNat).getLsbD c.ref.idx then .leave { x with st := .waiting (.rejoin g.toNat), pc := c.pc } 0#40
    else .fault cMember 0 (c.group.gr g.toNat))

/-! ## Instances (R299, R302) -/

/-- A mask register as an instance reads it: bits at or above W ignored (R299). -/
def instMask (w : Nat) (x : DWord) : BitVec 64 := dw (x.toNat % 2 ^ w)
/-- Threads of a group by the bits of a mask. -/
def maskRefs (ctx grp : Nat) (m : BitVec 64) : List ThreadRef := (setBits 64 m.toNat).map fun i => ⟨ctx, grp, i⟩
/-- A thread arrives at the instance of its group and address with the mask it read; `fin` runs when all have arrived (R299). -/
def State.arrive (s : State) (q : ThreadRef) (pc : DWord) (m : BitVec 64) (fin : State → BitVec 64 → State) : State :=
  match s.group? q.ctx q.grp with
  | none => s
  | some g =>
    let bit : BitVec 64 := dw (2 ^ q.idx)
    match g.insts.find? (fun n => n.pc == pc) with
    | none =>
      if 8 ≤ g.insts.length then s.modThread q fun x => { x with st := .parked .instances false }
      else if m = bit then fin s m
      else s.modGroup q.ctx q.grp fun g => { g with insts := g.insts ++ [⟨pc, m, bit⟩] }
    | some n =>
      if n.mask ≠ m then
        (s.modGroup q.ctx q.grp fun g => { g with insts := g.insts.erase n }).takeFaults
          ((maskRefs q.ctx q.grp n.arrived).map (fun t => (t, cMask, 0, n.mask)) ++ [(q, cMask, 0, m)]) pc
      else if n.arrived ||| bit = m then fin (s.modGroup q.ctx q.grp fun g => { g with insts := g.insts.erase n }) m
      else s.modGroup q.ctx q.grp fun g =>
        { g with insts := g.insts.map fun k => if k = n then { k with arrived := k.arrived ||| bit } else k }
/-- A barrier or tree word issues over mask register `g`: a thread whose own bit is clear faults, the others arrive one by one. -/
def State.issueInst (s : State) (i : Instr) (vs : Nat → List VOp) (g : Nat) (w : Wait) (pre : LaneCtx → Thread → Option Stall)
    (fin : LaneCtx → State → BitVec 64 → State) : State :=
  match s.run? with
  | none => s
  | some (k, r) =>
    let fs := s.laneFates k r i bareMod false (vs r.jo) [g] fun c x =>
      let m := instMask c.team.width (c.group.gr g)
      match pre c x with
      | some t => .wait t
      | none =>
        if m.getLsbD c.ref.idx then .leave { x with st := .waiting w, pc := c.pc } 0#40
        else .fault cMask 0 m
    let s1 := (s.nameLines k r fs (vs r.jo) [g]).meet i fs
    if (firstWait r.bound fs).isSome then s1
    else fs.foldl (fun s2 f => match f.2, s.laneCtx? k r f.1 with
      | .leave _ _, some c => s2.arrive f.1 r.pc (instMask c.team.width (c.group.gr g)) (fin c)
      | _, _ => s2) s1
/-- BARG (R112, R299). -/
def execBarg (e : Bool) (g : BitVec 6) (s : State) : Host.Outcome State Fault Refusal :=
  .next (s.issueInst (.barg e g) (fun _ => []) g.toNat .barg
    (fun c x => if releaseOk (s.nowAt c.core) x 0 then none else some (.release 0))
    fun c s m =>
      let ts := maskRefs c.ref.ctx c.ref.grp m
      let hz := maxL 0 (ts.filterMap fun t => (s.thread? t).map fun x => x.hzg)
      s.eachThread ts fun x => (x.released 1 s.cycle).adopt hz)

/-! ## exit, trap, yield, sleep, nop, fence -/

/-- The fault of an error entry: cause and DETAIL (R327, R345, R353). -/
def errFault (e : ErrEntry) : Nat × Nat :=
  let n := dbits e.entry 55 48
  if e.cls = 1 then (if n = 2 then cResidue else cBlock, 0) else (cEngine, n)
/-- The oldest error entry of each group has been delivered. -/
def State.tookErrs (s : State) (gs : List (Nat × Nat)) : State :=
  gs.foldl (fun s p => s.modGroup p.1 p.2 fun g => { g with errs := g.errs.tail }) s
/-- A thread has exited: its `qsf` entries are discarded (R300); results in flight still bring their flags (R255). -/
def Thread.exits (x : Thread) (pc : DWord) : Thread :=
  { x with st := .exited, pc := pc, q0 := [], q1 := [], flying := x.flying ++ inFlightOf (x.q0 ++ x.q1) }
/-- EXIT (R300, R327, R353). -/
def execExit (e : Bool) (s : State) : Host.Outcome State Fault Refusal :=
  match s.run? with
  | none => .next s
  | some (k, r) =>
    let fs := s.laneFates k r (.exit e) bareMod false [] [] fun c x =>
      match c.group.errs with
      | n :: _ => .fault (errFault n).1 (errFault n).2 n.entry
      | [] => .leave (x.exits c.pc) 0#40
    let s1 := (s.nameLines k r fs [] []).meet (.exit e) fs
    if (firstWait r.bound fs).isSome ∨ !(Instr.exit e).wf then .next s1
    else .next (s1.tookErrs (groupsOf (fs.filterMap fun f => match f.2 with
      | .fault _ _ _ => some f.1
      | _ => none)))
/-- TRAP (R300). -/
def execTrap (e : Bool) (n : BitVec 4) (s : State) : Host.Outcome State Fault Refusal :=
  .next (s.issueCtl (.trap e n) (fun _ => []) [] fun _ _ => .fault cTrap n.toNat 0)
/-- YIELD (R300). -/
def execYield (e : Bool) (s : State) : Host.Outcome State Fault Refusal :=
  .next (s.issueCtl (.yield e) (fun _ => []) [] fun c x => .leave (x.readyAt c.link s.cycle) 0#40)
/-- SLEEP (R300). -/
def execSleep (e : Bool) (n : BitVec 4) (s : State) : Host.Outcome State Fault Refusal :=
  .next (s.issueMem (.sleep e n) bareMod false []
    (fun c x => .leave { x with st := .sleeping, pc := c.link } 0#40)
    fun s c _ f => match f with
      | .leave _ _ => s.postAt (s.clock + 2 * (64 * 2 ^ n.toNat)) (.sleepExpiry c.ref)
      | _ => s)
/-- SLEEP_EXPIRY (R300). -/
def execSleepExpiry (t : ThreadRef) (s : State) : Host.Outcome State Fault Refusal :=
  .next (s.modThread t fun x => if x.st = .sleeping then { x with st := .ready, since := s.cycle } else x)
/-- NOP (R300). -/
def execNop (e : Bool) (s : State) : Host.Outcome State Fault Refusal :=
  .next (s.issueCtl (.nop e) (fun _ => []) [] fun _ x => .go x 0#40)

/-- The wait of a fence, if its conditions do not hold (R103, R105, R301). -/
def fenceWait (now : Nat) (x : Thread) (scope order : Nat) : Option Stall :=
  if 2 ≤ order ∧ releaseOk now x scope = false then some (.release (BitVec.ofNat 3 scope))
  else if order % 2 = 1 then
    match x.loads with
    | l :: _ => some (.fenceLoad l.id)
    | [] => if 2 ≤ scope ∧ now < x.loadTag + delta scope ∧ x.loadTag ≠ 0 then some (.acquire (x.loadTag + delta scope)) else none
  else none
/-- A fence that is performed (R106). -/
def Thread.fenced (x : Thread) (scope order : Nat) : Thread :=
  let x := if 2 ≤ order then { x with fenceTag := max x.fenceTag x.hzg } else x
  if order % 2 = 1 then { x.acquire x.loadTag scope with loadTag := 0 } else x
/-- FENCE (R301). -/
def execFence (e : Bool) (sc : BitVec 3) (o : BitVec 2) (s : State) : Host.Outcome State Fault Refusal :=
  .next (s.issueCtl (.fence e sc o) (fun _ => []) [] fun c x =>
    match fenceWait (s.nowAt c.core) x sc.toNat o.toNat with
    | some t => .wait t
    | none => .go (x.fenced sc.toNat o.toNat) 0#40)

/-- RELEASE_CONDITIONS_MET (R103): a thread that waits in a release is ready at its instruction once the conditions hold. -/
def execReleaseConditionsMet (t : ThreadRef) (s : State) : Host.Outcome State Fault Refusal :=
  match s.group? t.ctx t.grp with
  | none => .fault .noSuchUnit
  | some g => .next (s.modThread t fun x => match x.st with
    | .parked (.release sc) false =>
      if releaseOk (s.nowAt g.core) x sc.toNat then { x with st := .ready, since := s.cycle } else x
    | _ => x)
/-- ACQUIRE_WAIT_END (R105): a thread whose global load waits for pod time is ready at its instruction. -/
def execAcquireWaitEnd (t : ThreadRef) (s : State) : Host.Outcome State Fault Refusal :=
  match s.group? t.ctx t.grp with
  | none => .fault .noSuchUnit
  | some g => .next (s.modThread t fun x => match x.st with
    | .parked (.acquire n) false => if n ≤ s.nowAt g.core then { x with st := .ready, since := s.cycle } else x
    | _ => x)

end Sys2Proof.Machine
end

