-- ==== Sys2Proof/Machine/Uniform.lean ====
section
/-! DEFINITION. Uniform-set instructions: register arithmetic (R332 to R335), memory (R336 to R338), branches (R339), special registers
(R340 to R343), `gtrap`, `gexit`, `gyield` (R344) and `waitn` (R345). -/

namespace Sys2Proof.Machine

/-! ## Register arithmetic (R332 to R335) -/

/-- A word of two sources (R332). -/
def State.uniBin (s : State) (i : Instr) (f : GR) (op : Nat → Nat → Nat) : State :=
  s.uniWrite i [f.a.toNat, f.b.toNat] f.d.toNat fun g => dw (op (g.gr f.a.toNat).toNat (g.gr f.b.toNat).toNat)
/-- A word of one source (R332). -/
def State.uniUn (s : State) (i : Instr) (f : GR2) (op : Nat → Nat) : State :=
  s.uniWrite i [f.a.toNat] f.d.toNat fun g => dw (op (g.gr f.a.toNat).toNat)
/-- A word of a source and a sign-extended immediate (R333). -/
def State.uniImm (s : State) (i : Instr) (f : GI) (op : Nat → Nat → Nat) : State :=
  s.uniWrite i [f.a.toNat] f.d.toNat fun g => dw (op (g.gr f.a.toNat).toNat (umod 64 (sint 12 f.i.toNat)))
/-- 1 if it holds, else 0 (R335). -/
def oneIf (b : Bool) : Nat := if b then 1 else 0

/-- GADD (R332). -/
def execGadd (e : Bool) (f : GR) (s : State) : Host.Outcome State Fault Refusal :=
  .next (s.uniBin (.gadd e f) f fun a b => a + b)
/-- GSUB (R332). -/
def execGsub (e : Bool) (f : GR) (s : State) : Host.Outcome State Fault Refusal :=
  .next (s.uniBin (.gsub e f) f fun a b => a + (2 ^ 64 - b))
/-- GMUL (R332). -/
def execGmul (e : Bool) (f : GR) (s : State) : Host.Outcome State Fault Refusal :=
  .next (s.uniBin (.gmul e f) f fun a b => a * b)
/-- GMULHS (R332). -/
def execGmulhs (e : Bool) (f : GR) (s : State) : Host.Outcome State Fault Refusal :=
  .next (s.uniBin (.gmulhs e f) f fun a b => umod 64 (sint 64 a * sint 64 b / 2 ^ 64))
/-- GMULHU (R332). -/
def execGmulhu (e : Bool) (f : GR) (s : State) : Host.Outcome State Fault Refusal :=
  .next (s.uniBin (.gmulhu e f) f fun a b => a * b / 2 ^ 64)
/-- GAND (R332). -/
def execGand (e : Bool) (f : GR) (s : State) : Host.Outcome State Fault Refusal :=
  .next (s.uniBin (.gand e f) f fun a b => a &&& b)
/-- GOR (R332). -/
def execGor (e : Bool) (f : GR) (s : State) : Host.Outcome State Fault Refusal :=
  .next (s.uniBin (.gor e f) f fun a b => a ||| b)
/-- GXOR (R332). -/
def execGxor (e : Bool) (f : GR) (s : State) : Host.Outcome State Fault Refusal :=
  .next (s.uniBin (.gxor e f) f fun a b => a ^^^ b)
/-- GANDN (R332). -/
def execGandn (e : Bool) (f : GR) (s : State) : Host.Outcome State Fault Refusal :=
  .next (s.uniBin (.gandn e f) f fun a b => a &&& (2 ^ 64 - 1 - b))
/-- GSHL (R332). -/
def execGshl (e : Bool) (f : GR) (s : State) : Host.Outcome State Fault Refusal :=
  .next (s.uniBin (.gshl e f) f fun a b => shift 0 64 a (b % 256))
/-- GSHR (R332). -/
def execGshr (e : Bool) (f : GR) (s : State) : Host.Outcome State Fault Refusal :=
  .next (s.uniBin (.gshr e f) f fun a b => shift 1 64 a (b % 256))
/-- GSAR (R332). -/
def execGsar (e : Bool) (f : GR) (s : State) : Host.Outcome State Fault Refusal :=
  .next (s.uniBin (.gsar e f) f fun a b => shift 2 64 a (b % 256))
/-- GROTL (R332). -/
def execGrotl (e : Bool) (f : GR) (s : State) : Host.Outcome State Fault Refusal :=
  .next (s.uniBin (.grotl e f) f fun a b => shift 3 64 a (b % 256))
/-- GMINS (R332). -/
def execGmins (e : Bool) (f : GR) (s : State) : Host.Outcome State Fault Refusal :=
  .next (s.uniBin (.gmins e f) f fun a b => if sint 64 b < sint 64 a then b else a)
/-- GMAXS (R332). -/
def execGmaxs (e : Bool) (f : GR) (s : State) : Host.Outcome State Fault Refusal :=
  .next (s.uniBin (.gmaxs e f) f fun a b => if sint 64 a < sint 64 b then b else a)
/-- GMINU (R332). -/
def execGminu (e : Bool) (f : GR) (s : State) : Host.Outcome State Fault Refusal :=
  .next (s.uniBin (.gminu e f) f fun a b => min a b)
/-- GMAXU (R332). -/
def execGmaxu (e : Bool) (f : GR) (s : State) : Host.Outcome State Fault Refusal :=
  .next (s.uniBin (.gmaxu e f) f fun a b => max a b)
/-- GPOPC (R332). -/
def execGpopc (e : Bool) (f : GR2) (s : State) : Host.Outcome State Fault Refusal :=
  .next (s.uniUn (.gpopc e f) f (popc 64))
/-- GCLZ (R332). -/
def execGclz (e : Bool) (f : GR2) (s : State) : Host.Outcome State Fault Refusal :=
  .next (s.uniUn (.gclz e f) f (clz 64))
/-- GCTZ (R332). -/
def execGctz (e : Bool) (f : GR2) (s : State) : Host.Outcome State Fault Refusal :=
  .next (s.uniUn (.gctz e f) f (ctz 64))
/-- GBREV (R332). -/
def execGbrev (e : Bool) (f : GR2) (s : State) : Host.Outcome State Fault Refusal :=
  .next (s.uniUn (.gbrev e f) f (brev 64))
/-- GNOT (R332). -/
def execGnot (e : Bool) (f : GR2) (s : State) : Host.Outcome State Fault Refusal :=
  .next (s.uniUn (.gnot e f) f fun a => 2 ^ 64 - 1 - a)
/-- GNEG (R332). -/
def execGneg (e : Bool) (f : GR2) (s : State) : Host.Outcome State Fault Refusal :=
  .next (s.uniUn (.gneg e f) f fun a => 2 ^ 64 - a)
/-- GMOV (R332). -/
def execGmov (e : Bool) (f : GR2) (s : State) : Host.Outcome State Fault Refusal :=
  .next (s.uniUn (.gmov e f) f fun a => a)
/-- GADDI (R333). -/
def execGaddi (e : Bool) (f : GI) (s : State) : Host.Outcome State Fault Refusal :=
  .next (s.uniImm (.gaddi e f) f fun a b => a + b)
/-- GANDI (R333). -/
def execGandi (e : Bool) (f : GI) (s : State) : Host.Outcome State Fault Refusal :=
  .next (s.uniImm (.gandi e f) f fun a b => a &&& b)
/-- GORI (R333). -/
def execGori (e : Bool) (f : GI) (s : State) : Host.Outcome State Fault Refusal :=
  .next (s.uniImm (.gori e f) f fun a b => a ||| b)
/-- GXORI (R333). -/
def execGxori (e : Bool) (f : GI) (s : State) : Host.Outcome State Fault Refusal :=
  .next (s.uniImm (.gxori e f) f fun a b => a ^^^ b)
/-- GSHI (R333). -/
def execGshi (e : Bool) (f : GSh) (s : State) : Host.Outcome State Fault Refusal :=
  .next (s.uniWrite (.gshi e f) [f.a.toNat] f.d.toNat fun g => dw (shift f.k.toNat 64 (g.gr f.a.toNat).toNat f.s.toNat))
/-- GMOVK (R334). -/
def execGmovk (e : Bool) (f : GK) (s : State) : Host.Outcome State Fault Refusal :=
  .next (s.uniWrite (.gmovk e f) [] f.d.toNat fun g =>
    let x := (g.gr f.d.toNat).toNat
    let w := 2 ^ (16 * f.h.toNat)
    dw (x % w + f.i.toNat * w + x / (w * 2 ^ 16) * (w * 2 ^ 16)))
/-- GMOVZ (R334). -/
def execGmovz (e : Bool) (f : GK) (s : State) : Host.Outcome State Fault Refusal :=
  .next (s.uniWrite (.gmovz e f) [] f.d.toNat fun _ => dw (f.i.toNat * 2 ^ (16 * f.h.toNat)))
/-- GCMPEQ (R335). -/
def execGcmpeq (e : Bool) (f : GR) (s : State) : Host.Outcome State Fault Refusal :=
  .next (s.uniBin (.gcmpeq e f) f fun a b => oneIf (decide (a = b)))
/-- GCMPNE (R335). -/
def execGcmpne (e : Bool) (f : GR) (s : State) : Host.Outcome State Fault Refusal :=
  .next (s.uniBin (.gcmpne e f) f fun a b => oneIf (decide (a ≠ b)))
/-- GCMPLTS (R335). -/
def execGcmplts (e : Bool) (f : GR) (s : State) : Host.Outcome State Fault Refusal :=
  .next (s.uniBin (.gcmplts e f) f fun a b => oneIf (decide (sint 64 a < sint 64 b)))
/-- GCMPLTU (R335). -/
def execGcmpltu (e : Bool) (f : GR) (s : State) : Host.Outcome State Fault Refusal :=
  .next (s.uniBin (.gcmpltu e f) f fun a b => oneIf (decide (a < b)))
/-- GCMPLES (R335). -/
def execGcmples (e : Bool) (f : GR) (s : State) : Host.Outcome State Fault Refusal :=
  .next (s.uniBin (.gcmples e f) f fun a b => oneIf (decide (sint 64 a ≤ sint 64 b)))
/-- GCMPLEU (R335). -/
def execGcmpleu (e : Bool) (f : GR) (s : State) : Host.Outcome State Fault Refusal :=
  .next (s.uniBin (.gcmpleu e f) f fun a b => oneIf (decide (a ≤ b)))

/-! ## Global memory (R336, R337) -/

/-- The indices of the threads of an issue set. -/
def UniCtx.idxs (u : UniCtx) : List Nat := u.ts.map fun t => t.idx
/-- Where the first thread of the issue set stands. -/
def UniCtx.lead (u : UniCtx) : LaneCtx := ⟨u.ts.headD ⟨u.ctx, u.grp, 0⟩, u.core, u.team, u.group, u.run.jo, u.run.pc⟩
/-- The threads of the issue set, as they stand. -/
def State.uniThreads (s : State) (u : UniCtx) : List Thread := u.ts.filterMap s.thread?
/-- What a uniform global access waits for (R98, R103, R105). -/
def State.uniGWait (s : State) (u : UniCtx) (ea : DWord) (load : Bool) (order scope : Nat) : Option Stall :=
  let now := s.nowAt u.core
  (s.uniThreads u).findSome? fun x =>
    if load && decide (now < x.notBefore) then some (.acquire x.notBefore)
    else if x.stores.any (fun p => decide (p.2 = vaOf ea / 64)) then some (.ownStore (vaOf ea / 64))
    else if 2 ≤ order && !releaseOk now x scope then some (.release (BitVec.ofNat 3 scope))
    else none
/-- A uniform global access (R336): checks, waits, then the set is suspended and one request leaves. -/
def State.uniGlobal (s : State) (u : UniCtx) (i : Instr) (p : DWord) (size right : Nat) (load : Bool) (order scope : Nat)
    (mk : Req → Req) (note : Nat → Thread → Thread) : UFate :=
  let ea := relocate u.team.apx p
  match gFault u.team ea size right false with
  | some (.fault c d a) => .fault c d a
  | _ =>
    match s.uniGWait u ea load order scope with
    | some c => .wait s c
    | none =>
      if missRoom ≤ s.outstanding u.core then .wait s .missTable
      else
      let n := s.newId
      let r := reqAt (reqOf s.dev.no u.team u.ctx u.core (.group u.ctx u.grp u.idxs) u.run.pc (ptrAdd u.run.pc (4 * i.words)))
        u.team ea (hostForm p)
      .leave ((n.2.eachThread u.ts fun x => note n.1 (x.tick.suspend u.run.pc)).send (mk { r with id := n.1, size := size }))
/-- GLD (R336). -/
def execGld (e : Bool) (f : GMK) (s : State) : Host.Outcome State Fault Refusal :=
  .next (s.issueUni (.gld e f) true [f.r.toNat, f.a.toNat] fun u s =>
    let size : Nat := 2 ^ f.s.toNat
    s.uniGlobal u (.gld e f) (ptrAdd (u.group.gr f.a.toNat) (f.i.toNat * size)) size 0 true 0 0
      (fun r => { r with dst := f.r.toNat, look := f.k.toNat })
      fun id x => { x with loads := [⟨id, f.r.toNat, 1, f.k.toNat, false, true⟩] })
/-- GST (R336). -/
def execGst (e : Bool) (f : GM) (s : State) : Host.Outcome State Fault Refusal :=
  .next (s.issueUni (.gst e f) true [f.r.toNat, f.a.toNat] fun u s =>
    let size : Nat := 2 ^ f.s.toNat
    let p := ptrAdd (u.group.gr f.a.toNat) (f.i.toNat * size)
    let tag := maxL 0 ((s.uniThreads u).map fun x => x.fenceTag)
    s.uniGlobal u (.gst e f) p size 1 false 0 0
      (fun r => { r with acc := .store, data := BitVec.ofNat 512 ((u.group.gr f.r.toNat).toNat % 2 ^ (8 * size)), tag := dw tag, excl := true })
      fun id x => { x with stores := x.stores ++ [(id, vaOf (relocate u.team.apx p) / 64)] })
/-- GATOM (R337). -/
def execGatom (e : Bool) (f : GAt) (s : State) : Host.Outcome State Fault Refusal :=
  .next (s.issueUni (.gatom e f) true [f.d.toNat, f.a.toNat, f.b.toNat] fun u s =>
    let size := atomSize f.o
    let p := u.group.gr f.a.toNat
    let rel := f.p == 2#2 || f.p == 3#2
    let tag := maxL 0 ((s.uniThreads u).map fun x => (x.storeTag rel).toNat)
    s.uniGlobal u (.gatom e f) p size 2 true f.p.toNat 3
      (fun r => { r with
        acc := .atomic f.o, dst := f.d.toNat, order := f.p, scope := 3#3, tag := dw tag, excl := true
        data := BitVec.ofNat 512 ((u.group.gr f.b.toNat).toNat % 2 ^ (8 * size))
        cmp := dw ((u.group.gr f.d.toNat).toNat % 2 ^ (8 * size)) })
      fun id x => { x with stores := x.stores ++ [(id, vaOf (relocate u.team.apx p) / 64)] })

/-! ## Bank space (R338) -/

/-- A uniform bank access: the checks of R71 and R77, the waits of R111 and R285, the stash (R65, R66), then `ok` at its place. -/
def State.uniNear (s : State) (u : UniCtx) (a : DWord) (o size align : Nat) (k : Use) (ok : Place → UFate) : UFate :=
  let v := a.toNat % 2 ^ 32
  let b := v + o
  if 2 ^ 17 ≤ v % 2 ^ 17 + o then .fault cBank 0 (dw (b % 2 ^ 32))
  else if bitN b 27 then .fault cBank 0 (dw b)
  else match (s.uniThreads u).findSome? Thread.acqWait with
  | some l => .wait s (.loadData l)
  | none =>
    match s.bankPlace u.ctx u.team b size align k with
    | .error c => .fault c 0 (dw b)
    | .ok p =>
      match p with
      | .bank cl bank off =>
        match (s.uniThreads u).findSome? (fun x => (s.cluster cl).ownWrite x bank off size) with
        | some w => .wait s (.ownWrite w)
        | none => ok p
      | .stash ctx slot r line cl bank off =>
        match r.look line (s.nowAt u.core) (k != .load) with
        | .fault c => .faultIn (s.stashTold (some p)) c 0 (if c = cRegion then ptrAdd r.ptr off else dw b)
        | .missing up => .wait (s.stashAsk u.lead ctx slot r line bank up) (.stashLine cl bank line)
        | .ready => ok p
      | .remote _ _ _ _ _ => .fault cBank 0 (dw b)
/-- A bank write on behalf of several threads sets out; it enters the `hzn` of each (R102, R111). -/
def State.startUniWrite (s : State) (ts : List ThreadRef) (cluster bank off size v : Nat) : State :=
  let n := s.newId
  let w : BankWrite := ⟨n.1, ts.head?, none, cluster, bank, off, size, BitVec.ofNat 512 v, none⟩
  ((n.2.modCluster cluster fun k => { k with writes := k.writes ++ [w] }).eachThread ts fun x =>
    { x with bankW := x.bankW ++ [n.1] }).post (.bankWriteRetire w)
/-- GSLD (R338). -/
def execGsld (e : Bool) (f : GM) (s : State) : Host.Outcome State Fault Refusal :=
  .next (s.issueUni (.gsld e f) false [f.r.toNat, f.a.toNat] fun u s =>
    let size : Nat := 2 ^ f.s.toNat
    s.uniNear u (u.group.gr f.a.toNat) (f.i.toNat * size) size size .load fun p =>
      let s1 := s.modGroup u.ctx u.grp fun g => g.setG f.r.toNat (dw (s.placeGet p size))
      match p with
      | .stash ctx slot _ line _ _ _ => .go ((s1.eachThread u.ts fun x => x.tagged (s.placeTag p)).stashUsed ctx slot line)
      | _ => .go s1)
/-- GSST (R338). -/
def execGsst (e : Bool) (f : GM) (s : State) : Host.Outcome State Fault Refusal :=
  .next (s.issueUni (.gsst e f) false [f.r.toNat, f.a.toNat] fun u s =>
    let size : Nat := 2 ^ f.s.toNat
    let v := (u.group.gr f.r.toNat).toNat % 2 ^ (8 * size)
    s.uniNear u (u.group.gr f.a.toNat) (f.i.toNat * size) size size .store fun p =>
      match p with
      | .bank cl bank off => .go (s.startUniWrite u.ts cl bank off size v)
      | .stash ctx slot _ line cl bank off =>
        let tag := maxL 0 ((s.uniThreads u).map fun x => (x.storeTag false).toNat)
        let r := s.stashWrite u.core ctx slot line cl bank off size v (dw tag)
        .go (r.2.eachThread u.ts fun x => { x.adopt r.1 with hznT := max x.hznT (s.nowAt u.core) })
      | .remote _ _ _ _ _ => .go s)

/-! ## Branches (R339) -/

/-- A conditional branch on a uniform register. -/
def State.uniBranch (s : State) (i : Instr) (f : GBC) (taken : DWord → Bool) : State :=
  s.issueUni i false [f.a.toNat] fun u s =>
    if taken (u.group.gr f.a.toNat) then .jump s (branchTo u.run.pc 18 f.o.toNat) else .go s
/-- GBRZ (R339). -/
def execGbrz (e : Bool) (f : GBC) (s : State) : Host.Outcome State Fault Refusal :=
  .next (s.uniBranch (.gbrz e f) f fun x => x == 0)
/-- GBRNZ (R339). -/
def execGbrnz (e : Bool) (f : GBC) (s : State) : Host.Outcome State Fault Refusal :=
  .next (s.uniBranch (.gbrnz e f) f fun x => x != 0)
/-- GJMP (R339). -/
def execGjmp (e : Bool) (o : BitVec 24) (s : State) : Host.Outcome State Fault Refusal :=
  .next (s.issueUni (.gjmp e o) false [] fun u s => .jump s (branchTo u.run.pc 24 o.toNat))

/-! ## Special registers (R340 to R343) -/

/-- A slot as `bmap` reports it (R75). -/
def Slot.bmap (q : Slot) : DWord :=
  let m := match q.mode with
    | .empty => 0
    | .priv => 1
    | .pair => 2
    | .stash => 3
    | .front => 4
    | .shadow => 5
  dw ((if q.acc || q.mat then q.tag.toNat else 0) * 2 ^ 48 + oneIf q.acc * 2 ^ 47 + oneIf q.mat * 2 ^ 46 + oneIf q.arr * 2 ^ 45 +
    oneIf q.det * 2 ^ 44 + oneIf q.drn * 2 ^ 43 + q.peer % 16 * 2 ^ 39 + m * 2 ^ 32 + q.bank % 32 * 2 ^ 16)
/-- The lowest-index thread of the issue set (R342). -/
def UniCtx.lowest (u : UniCtx) : ThreadRef :=
  u.ts.foldl (fun a t => if t.idx < a.idx then t else a) (u.ts.headD ⟨u.ctx, u.grp, 0⟩)
/-- A special register read (R341). -/
def State.readSr (s : State) (u : UniCtx) (n : Nat) : DWord :=
  let q := u.lowest
  let x := (s.thread? q).getD {}
  match n with
  | 0 => dw (u.group.lane q.idx)
  | 1 => dw (u.grp * u.team.width + q.idx)
  | 2 => dw u.grp
  | 3 => dw u.team.teamid
  | 4 => match s.grids.find? u.team.grid with
    | some g => g.lrec.gridid
    | none => 0
  | 5 => dw (u.group.lane q.idx / 8)
  | 6 => dw u.core
  | 7 => dw (s.nowAt u.core)
  | 8 => dw u.group.jo
  | 9 => u.group.jxf.zeroExtend 64
  | 10 => u.group.frm.zeroExtend 64
  | 11 => dw (oneIf u.group.daz * 2 + oneIf u.group.ftz)
  | 12 => dw x.hzg
  | 13 => x.hzn
  | 14 => x.fcause
  | 15 => x.faddr
  | 16 => x.fpc
  | 17 => u.team.tvec
  | 18 => dw (u.team.priv u.grp 0)
  | _ => (u.team.slot (n - 32)).bmap
/-- A special register written (R341, R342). -/
def State.writeSr (s : State) (u : UniCtx) (n : Nat) (v : DWord) : State :=
  match n with
  | 9 => s.modGroup u.ctx u.grp fun g => { g with jxf := v.truncate 40 }
  | 10 => if v.toNat % 8 ≤ 4 then s.modGroup u.ctx u.grp fun g => { g with frm := v.truncate 3 } else s
  | 11 => s.modGroup u.ctx u.grp fun g => { g with ftz := dbit v 0, daz := dbit v 1 }
  | 14 => s.eachThread u.ts fun x => { x with fcause := dw (v.toNat % 2 ^ 32) }
  | 15 => s.eachThread u.ts fun x => { x with faddr := v }
  | 16 => s.eachThread u.ts fun x => { x with fpc := v }
  | 17 => if v.toNat % 4 = 0 then s.modTeam u.ctx fun t => { t with tvec := v } else s
  | _ => s
/-- RDSR (R342, R255): a read of `jxf` waits for the results of the group's special functions, among them those of threads that have left the
run. -/
def execRdsr (e : Bool) (d r : BitVec 6) (s : State) : Host.Outcome State Fault Refusal :=
  .next (s.issueUni (.rdsr e d r) false [d.toNat] fun u s =>
    if r.toNat = 9 ∧ (u.group.threads.any fun x => !x.2.sfxDone) then .wait s (.sfxEntries 8)
    else .go (s.modGroup u.ctx u.grp fun g => g.setG d.toNat (s.readSr u r.toNat)))
/-- WRSR (R342). -/
def execWrsr (e : Bool) (a r : BitVec 6) (s : State) : Host.Outcome State Fault Refusal :=
  .next (s.issueUni (.wrsr e a r) false [a.toNat] fun u s => .go (s.writeSr u r.toNat (u.group.gr a.toNat)))
/-- SETJO (R234, R343). -/
def execSetjo (e : Bool) (n : BitVec 6) (s : State) : Host.Outcome State Fault Refusal :=
  .next (s.issueUni (.setjo e n) false [] fun u s =>
    .go ((s.modGroup u.ctx u.grp fun g => { g with jo := n.toNat }).modRun fun r => { r with jo := n.toNat }))
/-- JXFCLR (R343). -/
def execJxfclr (e : Bool) (a : BitVec 6) (s : State) : Host.Outcome State Fault Refusal :=
  .next (s.issueUni (.jxfclr e a) false [a.toNat] fun u s =>
    .go (s.modGroup u.ctx u.grp fun g => { g with jxf := g.jxf &&& ~~~((u.group.gr a.toNat).truncate 40) }))

/-! ## gtrap, gexit, gyield, waitn -/

/-- GTRAP (R344). -/
def execGtrap (e : Bool) (n : BitVec 6) (s : State) : Host.Outcome State Fault Refusal :=
  .next (s.issueUni (.gtrap e n) false [] fun _ _ => .fault cTrap n.toNat 0)
/-- An error entry delivered to an issue set: its fault, and the entry gone (R327, R353). -/
def State.uniErr (s : State) (i : Instr) (pick : Group → Option ErrEntry) (go : UniCtx → State → UFate) : State :=
  let due := match s.uniCtx with
    | some u => if i.wf && ((s.uniThreads u).all fun x => (x.blockedBy [] [] false).isNone) then (pick u.group).map fun n => (u, n) else none
    | none => none
  match due with
  | some (u, n) =>
    (s.issueUni i false [] fun _ _ => .fault (errFault n).1 (errFault n).2 n.entry).modGroup u.ctx u.grp fun g =>
      { g with errs := g.errs.erase n }
  | none => s.issueUni i false [] go
/-- GEXIT (R344). -/
def execGexit (e : Bool) (s : State) : Host.Outcome State Fault Refusal :=
  .next (s.uniErr (.gexit e) (fun g => g.errs.head?) fun u s => .leave (s.eachThread u.ts fun x => x.tick.exits u.run.pc))
/-- GYIELD (R344). -/
def execGyield (e : Bool) (s : State) : Host.Outcome State Fault Refusal :=
  .next (s.issueUni (.gyield e) false [] fun u s => .jump s (ptrAdd u.run.pc 4))

/-- The count of a class. -/
def Group.count (g : Group) (c : Nat) : Nat := g.cnt.getD c 0
/-- The operations of class `c` that a `waitn` of `n` orders: those whose place is at most this (R114). -/
def Group.covered (g : Group) (c n : Nat) : Nat := g.issued.getD c 0 - n
/-- The horizons of a `waitn`'s return (R114). -/
def Group.waitnOps (g : Group) (c n : Nat) : List DoneOp := g.done.filter fun o => o.cls == c && decide (o.n ≤ g.covered c n)
/-- A group as a returning `waitn` leaves it (R114). -/
def Group.waited (g : Group) (c n : Nat) : Group :=
  let es := g.waitnOps c n
  { g with
    done := g.done.filter fun o => !(es.contains o)
    threads := g.threads.mapVals fun _ x => es.foldl (fun (x : Thread) o =>
      let x := x.adopt o.w
      if 2 ≤ o.scope then x.hold (o.w + delta o.scope) else x) x }
/-- WAITN (R345, R114). -/
def execWaitn (e : Bool) (c : BitVec 2) (n : BitVec 8) (s : State) : Host.Outcome State Fault Refusal :=
  .next (s.uniErr (.waitn e c n)
    (fun g => if g.count c.toNat ≤ n.toNat then
        g.errs.find? fun x => x.cls == c.toNat && decide (x.seq ≤ g.covered c.toNat n.toNat)
      else none)
    fun u s =>
      if u.group.count c.toNat ≤ n.toNat then .go (s.modGroup u.ctx u.grp fun g => g.waited c.toNat n.toNat)
      else .wait s (.counter c.toNat n.toNat))

end Sys2Proof.Machine
end

