-- ==== Sys2Proof/Machine/Bank.lean ====
section
/-! DEFINITION. Banks and the Clasp: `give` (R81 to R83), `bmop` (R64, R68, R80, R85, R87), `syncw` (R90 to R92), `bart` and `bars` (R346 to
R348), the retirement of bank writes (R102, R111), and bank zeroing (R76). -/

namespace Sys2Proof.Machine

/-! ## Bank writes retire -/

/-- The bank that a write in flight lands in: for a remote store the target slot's as it stands (R88, R89). DESIGN CHOICE: the spec does
not say where a remote store goes whose target slot is empty, or whose target team is gone, when it retires: it is dropped. Log 61. -/
def State.writeBank (s : State) (w : BankWrite) : Option Nat :=
  match w.shadow with
  | some (ctx, slot) => match s.team? ctx with
    | some t => if (t.slot slot).mode = .empty then none else some (t.slot slot).bank
    | none => none
  | none => some w.bank
/-- The bytes of a write enter their bank. -/
def State.landWrite (s : State) (w : BankWrite) : State :=
  match s.writeBank w with
  | some b => s.bankPut w.cluster b w.off w.size w.data.toNat
  | none => s
/-- BANK_WRITE_RETIRE (R102, R111). -/
def execBankWriteRetire (w : BankWrite) (s : State) : Host.Outcome State Fault Refusal :=
  match (s.cluster w.cluster).writes.find? (fun v => v.id == w.id) with
  | none => .next s
  | some v =>
    let s := (s.landWrite v).modCluster w.cluster fun k => { k with writes := k.writes.erase v }
    .next (s.mapThreads fun q x =>
      if x.bankW.contains w.id then
        { x with
          bankW := x.bankW.erase w.id
          hznT := max x.hznT (match s.group? q.ctx q.grp with
            | some g => s.nowAt g.core
            | none => s.now) }
      else x)
/-- BANK_ZERO_DONE (R76). -/
def execBankZeroDone (cluster bank : Nat) (s : State) : Host.Outcome State Fault Refusal :=
  if 96 ≤ cluster ∨ 32 ≤ bank then .fault .noSuchUnit
  else .next ((s.bankClear cluster bank).modCluster cluster fun k =>
    { k with banks := k.banks.put bank { k.banks.getD bank {} with zeroing := false } })

/-! ## What a bank still serves (R82) -/

/-- A slot of a command or descriptor: bits [20:17] of a bank address. -/
def slotOf (a : Nat) : Nat := bits a 20 17
/-- The slots that an engine command names: source, destination, sync word, scale array, indices, list. -/
def Cmd.slots (c : Cmd) : List Nat :=
  let w := fun k => (c.words.getD k 0)
  let sync := if dbit (w 2) 54 then [slotOf (dbits (w 2) 31 0)] else []
  if c.cls = 0 then
    (if dbit (w 2) 34 then [slotOf (dbits (w 0) 31 0)] else []) ++
    (if dbit (w 2) 33 && !dbit (w 1) 27 then [slotOf (dbits (w 1) 31 0)] else []) ++ sync ++
    (if dbits (w 2) 63 61 = 2 then [slotOf (dbits (w 3) 63 32)] else []) ++
    (if dbits (w 2) 63 61 = 4 && dbits (w 2) 60 58 == 3 then [slotOf (dbits (w 0) 63 32)] else [])
  else if c.cls = 2 then [slotOf (dbits (w 1) 63 32), slotOf (dbits (w 1) 31 0)] ++ sync
  else sync
/-- The slots that a matrix operation's descriptors name. -/
def MmaOp.slots (o : MmaOp) : List Nat :=
  (if 16 ≤ o.sa then [slotOf (dbits o.da.1 20 0)] else []) ++
    (if 16 ≤ o.sb && !o.mode.getLsbD 1 then [slotOf (dbits o.db.1 20 0)] else [])
/-- A matrix operation has octets that have not read their operands. -/
def MmaOp.reading (o : MmaOp) : Bool := decide (o.doneOct.length + o.failed.length < o.octets.length)
/-- Work that names a slot means its bank `bank`, not the one of an earlier give (R82). -/
def pinFits (pins : List (Nat × Nat)) (slot bank : Nat) : Bool :=
  match pins.find? (fun p => p.1 == slot) with
  | some p => p.2 == bank
  | none => true
/-- A command of a team writes to one of the team's own slots by remote stores (R88). -/
def State.cmdRemote (s : State) (t : Team) (c : Cmd) (slot : Nat) : Bool :=
  let w := fun k => (c.words.getD k 0)
  c.cls == 0 && dbit (w 2) 33 && dbit (w 1) 27 && slotOf (dbits (w 1) 31 0) == slot &&
    ((s.remoteTeam c.ctx t (dbits (w 1) 25 24)).map fun p => p.1) == some c.ctx
/-- No access to the slot's bank by its team is outstanding (R82). -/
def State.drained (s : State) (ctx slot bank : Nat) : Bool :=
  match s.team? ctx with
  | none => true
  | some t =>
    let k := s.cluster (clusterOf t.core)
    !(k.writes.any fun w => s.writeBank w == some bank) &&
    !(k.cmds.any fun c => c.ctx == ctx && ((c.slots.contains slot && pinFits c.pins slot bank) || s.cmdRemote t c slot)) &&
    !((s.cores.any fun c => c.2.mq.any fun o => o.ctx == ctx && o.reading && o.slots.contains slot && pinFits o.pins slot bank))
/-- A give holds the slot from its issue until it completes (R81). -/
def State.giveHolds (s : State) (ctx slot : Nat) : Bool :=
  match s.team? ctx with
  | some t => (s.cluster (clusterOf t.core)).gives.any fun g => g.ctx == ctx && g.slot == slot && !g.complete
  | none => false

/-! ## give (R80 to R83) -/

/-- Teams on a core of a cluster, a pair-span team on both of its cores. -/
def Team.onCore (t : Team) (core : Nat) : Bool := t.core == core || (t.pspan && t.core + 1 == core)
/-- The accept that a give meets: the posted one with its tag on its core, of its partition and domain, that was posted first (R80,
R81). -/
def State.acceptFor (s : State) (cluster : Nat) (g : Give) : Option (Nat × Nat) :=
  match s.team? g.ctx with
  | none => none
  | some t =>
    let cs := s.teams.flatMap fun p =>
      if p.2.part = t.part ∧ p.2.dom = t.dom ∧ p.2.saving = 0 ∧ p.2.onCore (cluster * 4 + g.core) then
        p.2.window.filterMap fun q => if q.2.acc && q.2.tag == g.tag then some (q.2.seq, p.1, q.1) else none
      else []
    (cs.foldl (fun (a : Option (Nat × Nat × Nat)) c => match a with
      | none => some c
      | some b => if c.1 < b.1 then some c else a) none).map fun c => c.2
/-- A slot of a team is given away: what names it and is under way goes on with the bank given (R82). -/
def State.pinSlot (s : State) (cluster ctx slot bank : Nat) : State :=
  let pin := fun (ps : List (Nat × Nat)) => if ps.any fun p => p.1 == slot then ps else ps ++ [(slot, bank)]
  let s := s.modCluster cluster fun k =>
    { k with
      cmds := k.cmds.map fun c => if c.ctx = ctx ∧ c.slots.contains slot = true then { c with pins := pin c.pins } else c
      writes := k.writes.map fun w => if w.shadow = some (ctx, slot) then { w with bank := bank, shadow := none } else w }
  { s with cores := s.cores.mapVals fun _ (k : Core) =>
    { k with mq := k.mq.map fun o => if o.ctx = ctx ∧ o.slots.contains slot = true then { o with pins := pin o.pins } else o } }
/-- The oldest unmatched gives of a cluster that have an accept are matched: the giving slot closes and the receiving slot is incoming
(R81). -/
def State.matchGives (s : State) (cluster : Nat) : State :=
  (s.cluster cluster).gives.foldl (fun s g =>
    if g.dst.isSome then s
    else match s.acceptFor cluster g with
    | none => s
    | some d =>
      let s := (s.pinSlot cluster g.ctx g.slot g.bank).modTeam g.ctx fun t => t.modSlot g.slot fun q =>
        { q with mode := .empty, bank := 0, det := true, drn := true }
      let s := s.modTeam d.1 fun t => t.modSlot d.2 fun q => { q with acc := false, mat := true }
      s.modCluster cluster fun k => { k with gives := k.gives.map fun h => if h.id = g.id then { h with dst := some d } else h }) s
/-- GIVE_DRAIN_DONE (R81, R83): the bank attaches to the receiving slot and ARR rises, or goes to the pool where the receiving team is
gone. -/
def execGiveDrainDone (cluster give : Nat) (s : State) : Host.Outcome State Fault Refusal :=
  match (s.cluster cluster).gives.find? (fun g => g.id == give) with
  | none => .fault .noSuchUnit
  | some g =>
    match g.dst with
    | none => .next s
    | some d =>
      if g.complete || !s.drained g.ctx g.slot g.bank then .next s
      else
        let s := s.modTeam g.ctx fun t => t.modSlot g.slot fun q => { q with drn := false }
        let s := s.modCluster cluster fun k =>
          { k with gives := k.gives.map fun h => if h.id = give then { h with complete := true } else h }
        if g.lost then .next (s.freeBank cluster g.bank)
        else
          .next ((s.modTeam d.1 fun t => t.modSlot d.2 fun q =>
            { q with mode := .priv, bank := g.bank, mat := false, arr := true, tag := 0, det := false }).modCluster cluster fun k =>
              { k with banks := k.banks.put g.bank { k.banks.getD g.bank {} with owner := some d.1 } })
/-- A uniform register set to a status, and the arrivals of the issue set forgotten. -/
def State.uniDone (s : State) (u : UniCtx) (d : Nat) (v : DWord) : UFate :=
  .go ((s.eachThread u.ts fun x => { x with arr := none }).modGroup u.ctx u.grp fun g => g.setG d v)
/-- The give that the issue set waits in. -/
def State.pendingGive (s : State) (u : UniCtx) : Option Nat :=
  (s.uniThreads u).findSome? fun x => match x.arr with
    | some (.give id) => some id
    | _ => none
/-- GIVE (R81). -/
def execGive (e : Bool) (f : GR) (s : State) : Host.Outcome State Fault Refusal :=
  .next (s.issueUni (.give e f) false [f.d.toNat, f.a.toNat, f.b.toNat] fun u s =>
    let cl := clusterOf u.core
    match s.pendingGive u with
    | some id =>
      match (s.cluster cl).gives.find? (fun g => g.id == id) with
      | some g =>
        if g.complete then
          (s.modCluster cl fun k => { k with gives := k.gives.filter fun h => h.id != id }).uniDone u f.d.toNat 0
        else .wait s (.give id)
      | none => s.uniDone u f.d.toNat 0
    | none =>
      let a := u.group.gr f.a.toNat
      let b := u.group.gr f.b.toNat
      let slot := a.toNat % 16
      let q := u.team.slot slot
      if a.toNat / 16 ≠ 0 ∨ b.toNat / 2 ^ 18 ≠ 0 then s.uniDone u f.d.toNat 3
      else if q.mode ≠ .priv ∨ s.giveHolds u.ctx slot = true then s.uniDone u f.d.toNat 1
      else
        let n := s.newId
        let g : Give := ⟨n.1, u.ctx, u.grp, slot, q.bank, dbits b 17 16, BitVec.ofNat 16 b.toNat, none, false, false⟩
        let s := n.2.modCluster cl fun k => { k with gives := k.gives ++ [g] }
        .wait ((s.eachThread u.ts fun x => { x with arr := some (.give n.1) }).matchGives cl) (.give n.1))

/-! ## bmop (R64, R68, R80, R85, R87) -/

/-- BMOP_ACCEPT (R80). -/
def execBmopAccept (e : Bool) (f : GR) (s : State) : Host.Outcome State Fault Refusal :=
  .next (s.issueUni (.bmopAccept e f) false [f.d.toNat, f.a.toNat, f.b.toNat] fun u s =>
    let a := u.group.gr f.a.toNat
    let b := u.group.gr f.b.toNat
    let slot := b.toNat % 16
    let q := u.team.slot slot
    if a.toNat / 2 ^ 16 ≠ 0 ∨ b.toNat / 16 ≠ 0 then s.uniDone u f.d.toNat 3
    else if q.mode ≠ .empty ∨ q.acc = true ∨ q.mat = true ∨ q.arr = true then s.uniDone u f.d.toNat 2
    else
      let n := s.newId
      ((n.2.modTeam u.ctx fun t => t.modSlot slot fun q =>
        { q with acc := true, tag := BitVec.ofNat 16 a.toNat, seq := n.1 }).matchGives (clusterOf u.core)).uniDone u f.d.toNat 0)
/-- BMOP_BWAIT (R85). DESIGN CHOICE: the spec names ga[3:0] and gives no status for other bits of `bwait` and of `release`: they are
ignored. Log 62. -/
def execBmopBwait (e : Bool) (f : GR2) (s : State) : Host.Outcome State Fault Refusal :=
  .next (s.issueUni (.bmopBwait e f) false [f.d.toNat, f.a.toNat] fun u s =>
    let slot := (u.group.gr f.a.toNat).toNat % 16
    let q := u.team.slot slot
    let waits := (s.uniThreads u).any fun x => x.arr == some (.bwait slot)
    if q.arr then (s.modTeam u.ctx fun t => t.modSlot slot fun q => { q with arr := false }).uniDone u f.d.toNat 0
    else if q.acc || q.mat || waits then .wait (s.eachThread u.ts fun x => { x with arr := some (.bwait slot) }) (.bwait slot)
    else s.uniDone u f.d.toNat 1)
/-- BMOP_QUERY (R85). -/
def execBmopQuery (e : Bool) (f : GR2) (s : State) : Host.Outcome State Fault Refusal :=
  .next (s.issueUni (.bmopQuery e f) false [f.d.toNat, f.a.toNat] fun u s =>
    s.uniDone u f.d.toNat (u.team.slot ((u.group.gr f.a.toNat).toNat % 16)).bmap)
/-- BMOP_PHASE (R87). -/
def execBmopPhase (e : Bool) (f : GR) (s : State) : Host.Outcome State Fault Refusal :=
  .next (s.issueUni (.bmopPhase e f) false [f.d.toNat, f.a.toNat, f.b.toNat] fun u s =>
    let a := (u.group.gr f.a.toNat).toNat
    let b := (u.group.gr f.b.toNat).toNat
    if 16 ≤ a ∨ 16 ≤ b ∨ a = b then s.uniDone u f.d.toNat 3
    else if (u.team.slot a).mode ≠ .priv ∨ (u.team.slot b).mode ≠ .priv ∨ s.giveHolds u.ctx a = true ∨ s.giveHolds u.ctx b = true then
      s.uniDone u f.d.toNat 1
    else
      (s.modTeam u.ctx fun t => (t.modSlot a fun q => { q with mode := .front, peer := b }).modSlot b fun q =>
        { q with mode := .shadow, peer := a }).uniDone u f.d.toNat 0)
/-- Every line of a stash of a cluster is given up; the largest W of its written lines (R68). -/
def State.giveUpStash (s : State) (cluster ctx slot : Nat) (r : StashRec) : Nat × State :=
  let die := dieOfCluster cluster
  let w := maxL 0 (r.lines.filterMap fun l => if l.2.st = .M ∨ l.2.st = .O then some l.2.wl else none)
  (w, r.lines.foldl (fun s l =>
    let line := vaOf r.ptr / 64 + l.1
    (s.holders die line).foldl (fun s n => match (s.slice n).lines.find? line with
      | some x => match x.st with
        | .K c => if c = cluster then s.giveUp n line else s
        | _ => s
      | none => s) s) (s.sendBack die ctx slot r))
/-- BMOP_RELEASE (R68, R85). -/
def execBmopRelease (e : Bool) (f : GR2) (s : State) : Host.Outcome State Fault Refusal :=
  .next (s.issueUni (.bmopRelease e f) false [f.d.toNat, f.a.toNat] fun u s =>
    let slot := (u.group.gr f.a.toNat).toNat % 16
    let q := u.team.slot slot
    let cl := clusterOf u.core
    if s.giveHolds u.ctx slot then s.uniDone u f.d.toNat 2
    else match q.mode with
    | .stash =>
      match q.stash with
      | none => s.uniDone u f.d.toNat 0
      | some r =>
        if r.asked ≠ [] ∨ s.drained u.ctx slot q.bank = false then .wait s (.bankDrain slot)
        else
          let w := s.giveUpStash cl u.ctx slot r
          ((w.2.modGroup u.ctx u.grp fun g => { g with threads := g.threads.mapVals fun _ x => x.adopt w.1 }).modTeam u.ctx
            fun t => t.modSlot slot fun q => { q with mode := .priv, stash := none }).uniDone u f.d.toNat 0
    | .front =>
      (s.modTeam u.ctx fun t => (t.modSlot q.peer fun p => { p with mode := .priv, peer := 0 }).modSlot slot fun p =>
        { p with mode := .priv, peer := 0 }).uniDone u f.d.toNat 0
    | .priv =>
      if !s.drained u.ctx slot q.bank then .wait s (.bankDrain slot)
      else
        ((s.freeBank cl q.bank).modTeam u.ctx fun t => t.modSlot slot fun p =>
          { p with mode := .empty, bank := 0, det := false }).uniDone u f.d.toNat 0
    | .empty =>
      if q.mat then s.uniDone u f.d.toNat 2
      else (s.modTeam u.ctx fun t => t.modSlot slot fun p => { p with acc := false, tag := 0, det := false, arr := false }).uniDone u f.d.toNat 0
    | .pair => s.uniDone u f.d.toNat 1
    | .shadow => s.uniDone u f.d.toNat 1)

/-! ### bmop stash (R62 to R64) -/

/-- A range of pod addresses overlaps that of a stash of the cluster (R64). -/
def State.stashOverlaps (s : State) (cluster p len : Nat) : Bool :=
  s.teams.any fun t => clusterOf t.2.core == cluster && t.2.window.any fun q => match q.2.stash with
    | some r => decide (vaOf r.ptr < p + len) && decide (p < vaOf r.ptr + r.len)
    | none => false
/-- The statuses 3, 2 and 1 of `bmop stash`, in order (R64, R81). -/
def State.stashStatus (s : State) (u : UniCtx) (a base len1 : DWord) : Option Nat :=
  let p := relocate u.team.apx base
  let len := dbits len1 17 0
  if a.toNat / 16 ≠ 0 ∨ base.toNat % 64 ≠ 0 ∨ len = 0 ∨ 131072 < len ∨ len % 64 ≠ 0 ∨ dbits len1 31 18 ≠ 0 ∨ dbits len1 63 33 ≠ 0 ∨
      vaOf p / 2 ^ 47 ≠ (vaOf p + len - 1) % 2 ^ 60 / 2 ^ 47 then some 3
  else if (u.team.slot (a.toNat % 16)).mode ≠ .priv ∨ s.giveHolds u.ctx (a.toNat % 16) = true then some 2
  else if s.stashOverlaps (clusterOf u.core) (vaOf p) len then some 1
  else none
/-- The home check of `bmop stash` at the page of address `va`: `look` is the slot, `size` the length, `cmp` the pointer, `dst` gd. -/
def State.stashCheck (s : State) (r : Req) (va : Nat) : State := s.toSlice { r with va := BitVec.ofNat 60 va } none
/-- BMOP_STASH (R64, R148): the group is suspended until its homes have checked every page of the range. -/
def execBmopStash (e : Bool) (f : GR) (s : State) : Host.Outcome State Fault Refusal :=
  .next (s.issueUni (.bmopStash e f) true [f.d.toNat, f.a.toNat, f.b.toNat, f.b.toNat + 1] fun u s =>
    let a := u.group.gr f.a.toNat
    let base := u.group.gr f.b.toNat
    let len1 := u.group.gr (f.b.toNat + 1)
    let p := relocate u.team.apx base
    let wr := dbit len1 32
    match s.stashStatus u a base len1 with
    | some st => s.uniDone u f.d.toNat (dw st)
    | none =>
      if !locketOk u.team.keys p 0 || (wr && !locketOk u.team.keys p 1) then .fault cKey 0 p
      else
        let n := s.newId
        let r := reqAt (reqOf s.dev.no u.team u.ctx u.core (.stashSet u.ctx u.grp u.idxs) u.run.pc (ptrAdd u.run.pc 4)) u.team p (hostForm base)
        let r := { r with id := n.1, excl := wr, size := dbits len1 17 0, look := a.toNat % 16, cmp := p, dst := f.d.toNat }
        .leave ((n.2.eachThread u.ts fun x => { x.tick.suspend u.run.pc with arr := some (.checked n.1) }).stashCheck r (vaOf p)))
/-- A page's check has passed: the next page of the range is checked by a request of its own, or the slot becomes a stash and the group goes
on (R64). DESIGN CHOICE: the spec tests the slot's mode and the overlap before the checks alone; a slot or a range that has changed while
they were under way ends with the status 2 or 1. Log 63. -/
def State.stashPassed (s : State) (r : Req) : State :=
  let next := (r.va.toNat / 65536 + 1) * 65536
  let base := vaOf r.cmp
  match r.client with
  | .stashSet ctx grp idxs =>
    if next < base + r.size then
      let n := s.newId
      (n.2.eachThread (clientThreads r.client) fun x => if x.arr = some (.checked r.id) then { x with arr := some (.checked n.1) } else x).stashCheck
        { r with id := n.1 } next
    else match s.team? ctx with
    | none => s
    | some t =>
      let q := t.slot r.look
      let st := if q.mode ≠ .priv ∨ s.giveHolds ctx r.look = true then 2
        else if s.stashOverlaps (clusterOf r.core) base r.size then 1 else 0
      let s := if st = 0 then s.modTeam ctx fun t => t.modSlot r.look fun q =>
          { q with mode := .stash, stash := some ⟨r.cmp, r.size, r.excl, r.gkid, [], [], [], []⟩ } else s
      (s.eachThread (idxs.map fun i => ⟨ctx, grp, i⟩) fun x =>
        if x.arr = some (.checked r.id) then { x with st := .ready, pc := r.next, arr := none, since := s.cycle } else x).modGroup ctx grp
          fun g => (g.setG r.dst (dw st)).rejoinAll s.cycle
  | _ => s

/-! ## Sync words (R90 to R92, R115) -/

/-- TARGET, COUNT, GEN, NWAIT of the word at a place in a bank (R90). -/
def State.syncGet (s : State) (cl bank off k : Nat) : Nat :=
  if k = 3 then s.bankGet cl bank (off + 12) 2 else s.bankGet cl bank (off + 4 * k) 4
/-- A field of a sync word replaced. -/
def State.syncPut (s : State) (cl bank off k v : Nat) : State :=
  if k = 3 then s.bankPut cl bank (off + 12) 2 v else s.bankPut cl bank (off + 4 * k) 4 v
/-- Groups of the cluster that wait on the word. -/
def State.syncWaiters (s : State) (cl bank off : Nat) : List (Nat × Nat) :=
  groupsOf (s.refs.filter fun q => match s.thread? q with
    | some x => x.arr = some (.syncw cl bank off)
    | none => false)
/-- Every group waiting on the word is released, and NWAIT falls by their number (R91, R92). -/
def State.syncRelease (s : State) (cl bank off : Nat) : State :=
  let n := (s.syncWaiters cl bank off).length
  let s := s.syncPut cl bank off 3 (s.syncGet cl bank off 3 - n)
  s.mapThreads fun _ x => if x.arr = some (.syncw cl bank off) then { x with arr := some (.released 0 0) } else x
/-- A sync word incremented by `n` (R91): COUNT modulo TARGET, GEN advanced, waiters released. -/
def State.syncAdd (s : State) (cl bank off n : Nat) : State :=
  let c := s.syncGet cl bank off 1 + n
  let t := s.syncGet cl bank off 0
  if t = 0 then s.syncPut cl bank off 1 (c % 2 ^ 32)
  else
    let s1 := (s.syncPut cl bank off 1 (c % t)).syncPut cl bank off 2 ((s.syncGet cl bank off 2 + c / t) % 2 ^ 32)
    if c < t then s1 else s1.syncRelease cl bank off
/-- A uniform word that names a sync or barrier word: its place, after the checks of R71 and R77. -/
def State.wordPlace (s : State) (u : UniCtx) (a : DWord) (size : Nat) (ok : Nat → Nat → Nat → UFate) : UFate :=
  match s.bankPlace u.ctx u.team (a.toNat % 2 ^ 32) size size .word with
  | .ok (.bank cl bank off) => ok cl bank off
  | .ok _ => .fault cSlotMode 0 (dw (a.toNat % 2 ^ 32))
  | .error c => .fault c 0 (dw (a.toNat % 2 ^ 32))
/-- The issue set has begun to wait, and how it stands. -/
def State.uniArr (s : State) (u : UniCtx) : Option Arrival := (s.uniThreads u).findSome? fun x => x.arr
/-- A group that returns from `syncw wait` (R92, R115). -/
def State.syncReturn (s : State) (u : UniCtx) (d : Nat) (gen : Nat) : UFate :=
  let hs := u.team.hs
  let hw := u.team.hw
  (s.modGroup u.ctx u.grp fun g => { g with threads := g.threads.mapVals fun _ x => (x.adopt hs).hold hw }).uniDone u d (dw gen)
/-- SYNCW_INIT (R92). -/
def execSyncwInit (e : Bool) (f : GR) (s : State) : Host.Outcome State Fault Refusal :=
  .next (s.issueUni (.syncwInit e f) false [f.d.toNat, f.a.toNat, f.b.toNat] fun u s =>
    s.wordPlace u (u.group.gr f.a.toNat) 16 fun cl bank off =>
      let b := u.group.gr f.b.toNat
      if b.toNat / 2 ^ 32 ≠ 0 then s.uniDone u f.d.toNat allOnes
      else ((s.syncPut cl bank off 0 b.toNat).syncPut cl bank off 1 0).uniDone u f.d.toNat (dw (s.syncGet cl bank off 2)))
/-- SYNCW_WAIT (R92): a waiting group returns at an advance, or when a store to the word has changed GEN (R90). -/
def execSyncwWait (e : Bool) (f : GR) (s : State) : Host.Outcome State Fault Refusal :=
  .next (s.issueUni (.syncwWait e f) false [f.d.toNat, f.a.toNat, f.b.toNat] fun u s =>
    s.wordPlace u (u.group.gr f.a.toNat) 16 fun cl bank off =>
      let gen := s.syncGet cl bank off 2
      let want := (u.group.gr f.b.toNat).toNat % 2 ^ 32
      match s.uniArr u with
      | some (.syncw _ _ _) =>
        if gen = want then .wait s (.syncw cl bank off want)
        else (s.syncPut cl bank off 3 (s.syncGet cl bank off 3 - 1)).syncReturn u f.d.toNat gen
      | some _ => s.syncReturn u f.d.toNat gen
      | none =>
        if gen ≠ want then s.syncReturn u f.d.toNat gen
        else
          let more := if (s.syncWaiters cl bank off).contains (u.ctx, u.grp) then 0 else 1
          let s := s.syncPut cl bank off 3 (s.syncGet cl bank off 3 + more)
          .wait (s.eachThread u.ts fun x => { x with arr := some (.syncw cl bank off) }) (.syncw cl bank off want))
/-- SYNCW_ARRIVE (R91, R92, R115). -/
def execSyncwArrive (e : Bool) (f : GR) (s : State) : Host.Outcome State Fault Refusal :=
  .next (s.issueUni (.syncwArrive e f) false [f.d.toNat, f.a.toNat, f.b.toNat] fun u s =>
    s.wordPlace u (u.group.gr f.a.toNat) 16 fun cl bank off =>
      if u.group.threads.any (fun x => !releaseOk (s.nowAt u.core) x.2 1) then .wait s (.writes 2)
      else
        let hz := maxL 0 (u.group.threads.map fun x => x.2.hzg)
        let s := (s.syncAdd cl bank off ((u.group.gr f.b.toNat).toNat % 2 ^ 32)).modTeam u.ctx fun t => { t with hs := max t.hs hz }
        s.uniDone u f.d.toNat (dw (s.syncGet cl bank off 2)))

/-! ## Barriers (R89, R112, R346 to R348) -/

/-- Every phase pair of a team exchanges its banks (R89). -/
def Team.swapPhases (t : Team) : Team :=
  { t with window := t.window.mapVals fun _ q =>
      if q.mode = .front ∨ q.mode = .shadow then { q with bank := (t.slot q.peer).bank } else q }
/-- Threads whose arrival `p` holds of. -/
def State.arrivedBy (s : State) (p : Arrival → Bool) : List ThreadRef :=
  s.refs.filter fun q => match s.thread? q with
    | some x => match x.arr with
      | some a => p a
      | none => false
    | none => false
/-- What a thread that a barrier has released takes from it: the largest `hzg` of the participants, and from clu on the wait of an acquire
(R112, R347). -/
def Thread.departs (x : Thread) (scope : Nat) : Thread :=
  match x.arr with
  | some (.released _ hz) => if scope ≤ 1 then x.adopt hz else (x.adopt hz).hold (hz + delta scope)
  | _ => x
/-- The issue set at a barrier goes on once every thread of it is released, and waits else. DESIGN CHOICE: threads of one group whose arrivals
were released in different generations and that are gathered again as one issue set write the GEN of the first of them. Log 67. -/
def State.barrierEnd (s : State) (u : UniCtx) (d scope : Nat) (c : Stall) : UFate :=
  let gens := (s.uniThreads u).map fun x => match x.arr with
    | some (.released g _) => some g
    | _ => none
  match gens with
  | some g :: t => if t.all (fun g => g.isSome) then (s.eachThread u.ts fun x => x.departs scope).uniDone u d (dw g) else .wait s c
  | _ => .wait s c
/-- What an issue set does at a barrier (R347): its threads that have not arrived do so, completing the generation or not, and it goes on
once all are released. `put` sets GEN and COUNT, `mine` marks an arrival in generation g, `teams` swap. -/
def State.barrier (s : State) (u : UniCtx) (d : Nat) (scope limit : Nat) (swap : Bool) (gen count : Nat) (put : State → Nat → Nat → State)
    (note : Nat → Arrival) (mine : Nat → Arrival → Bool) (marked : Bool) (teams : List Nat) (c : Stall) : UFate :=
  let new := u.ts.filter fun q => ((s.thread? q).map fun x => x.arr.isNone) == some true
  if new = [] then s.barrierEnd u d scope c
  else
    match (new.filterMap s.thread?).find? (fun x => !releaseOk (s.nowAt u.core) x scope) with
    | some _ => .wait s (.release (BitVec.ofNat 3 scope))
    | none =>
      let n := count + new.length
      if n < limit then .wait ((put s gen n).eachThread new fun x => { x with arr := some (note gen) }) c
      else
        let all := s.arrivedBy (mine gen) ++ new
        let hz := maxL 0 (all.filterMap fun q => (s.thread? q).map fun x => x.hzg)
        let gen1 := (gen + 1) % 2 ^ 32
        let s := put s gen1 (n - limit)
        let s := if swap || marked then teams.foldl (fun s t => s.modTeam t Team.swapPhases) s else s
        (s.eachThread all fun x => { x with arr := some (.released gen1 hz) }).barrierEnd u d scope c
/-- BART (R346, R347). -/
def execBart (e : Bool) (f : GBar) (s : State) : Host.Outcome State Fault Refusal :=
  .next (s.issueUni (.bart e f) false [f.d.toNat, f.a.toNat, f.b.toNat] fun u s =>
    s.wordPlace u (u.group.gr f.a.toNat) 8 fun cl bank off =>
      let b := (u.group.gr f.b.toNat).toNat
      if b = 0 ∨ 32768 < b then s.uniDone u f.d.toNat allOnes
      else
        let mine := fun g a => match a with
          | .bart c k o h _ => c == cl && k == bank && o == off && h == g
          | _ => false
        let gen := s.bankGet cl bank (off + 4) 4
        let marked := !(s.arrivedBy fun a => mine gen a && (match a with
          | .bart _ _ _ _ w => w
          | _ => false)).isEmpty
        s.barrier u f.d.toNat 1 b f.w gen (s.bankGet cl bank off 4)
          (fun s g c => (s.bankPut cl bank off 4 c).bankPut cl bank (off + 4) 4 g) (fun g => .bart cl bank off g f.w) mine marked [u.ctx] .bart)
/-- Teams of a cluster set (R137, R348). -/
def State.setTeams (s : State) (u : UniCtx) : List Nat :=
  if u.team.cset then s.teams.filterMap fun p => if p.2.cset && p.2.leader == u.team.leader then some p.1 else none else [u.ctx]
/-- BARS (R348). -/
def execBars (e : Bool) (f : GBar) (s : State) : Host.Outcome State Fault Refusal :=
  .next (s.issueUni (.bars e f) false [f.d.toNat, f.a.toNat, f.b.toNat] fun u s =>
    let a := (u.group.gr f.a.toNat).toNat
    let b := (u.group.gr f.b.toNat).toNat
    if 4 ≤ a ∨ b = 0 ∨ 131072 < b then s.uniDone u f.d.toNat allOnes
    else
      let set := if u.team.cset then u.team.leader else u.ctx
      let cl := clusterOf u.core
      let k := set * 4 + a
      let bar := (s.cluster cl).bars.getD k {}
      s.barrier u f.d.toNat 2 b f.w bar.gen bar.count
        (fun s g c => s.modCluster cl fun q =>
          { q with bars := q.bars.put k ⟨g, c, if g = bar.gen then bar.swap || f.w else false⟩ })
        (fun g => .bars set a g) (fun g x => x == .bars set a g) bar.swap (s.setTeams u) .bars)

end Sys2Proof.Machine
end

