-- ==== Sys2Proof/Machine/Matrix.lean ====
section
/-! DEFINITION. The matrix engine: `mma` (R310 to R318, R322, R323), operand forms and layouts (R312 to R316), alignment at entry (R224,
R225), exact slice sums under the residue check (R222, R226), accumulation (R227), jets (R258, R259), accumulators (R324), the matrix
queue (R325), marks (R326), errors (R327), and tile moves (R350). -/

namespace Sys2Proof.Machine

/-! ## Queues of a group (R163, R352) -/

/-- Entries that queue `q` holds, oldest first. -/
def Group.queue (g : Group) (q : Nat) : List DWord := g.queues.getD q []
/-- An entry is posted; one that finds its queue full waits (R325, R352). -/
def Group.postEntry (g : Group) (q : Nat) (e : DWord) : Group :=
  if (g.queue q).length < 16 && !(g.overflow.any fun w => w.1 == q) then
    { g with queues := g.queues.put q (g.queue q ++ [e]) }
  else { g with overflow := g.overflow ++ [(q, e)] }
/-- The oldest entry of a queue taken; an entry that waited comes in (R352). -/
def Group.popEntry (g : Group) (q : Nat) : DWord × Group :=
  match g.queue q with
  | [] => (0, g)
  | e :: t =>
    match g.overflow.find? (fun w => w.1 == q) with
    | some w => (e, { g with queues := g.queues.put q (t ++ [w.2]), overflow := g.overflow.erase w })
    | none => (e, { g with queues := g.queues.put q t })
/-- Commands and matrix operations issued and not completed (R163). -/
def Group.ops (g : Group) : Nat := (g.cnt.map fun c => c.2).sum
/-- Operations of a class issued so far (R114). -/
def Group.issuedOf (g : Group) (c : Nat) : Nat := g.issued.getD c 0
/-- The sequence number of the next operation of a class (R317, R351). -/
def Group.seqOf (g : Group) (c : Nat) : Nat := g.seqs.getD c 0
/-- One more operation of a class has been issued: its counter, its place and the sequence number (R317, R345, R351). -/
def Group.countUp (g : Group) (c : Nat) : Group :=
  { g with
    cnt := g.cnt.store 0 c (g.cnt.getD c 0 + 1)
    issued := g.issued.put c (g.issuedOf c + 1)
    seqs := g.seqs.store 0 c ((g.seqOf c + 1) % 65536) }
/-- An operation of a class has completed (R114, R345). -/
def Group.countDown (g : Group) (c : Nat) : Group := { g with cnt := g.cnt.store 0 c (g.cnt.getD c 0 - 1) }

/-! ## Numbers (R221 to R227) -/

/-- Elements of a block of a format code (R221). -/
def nEl (f : Nat) : Nat := if f = 2 then 124 else if f = 3 then 31 else 62
/-- Bits of an element of a format code (R224). -/
def elBits (f : Nat) : Nat := if f = 2 then 4 else if f = 3 then 16 else 8
/-- The elements of a block's payload (R221). -/
def blockEls (f : Nat) (bs : List Byte) : List Int :=
  (List.range (nEl f)).map fun i =>
    if f = 2 then sint 4 ((bs.getD (2 + i / 2) 0).toNat / (if i % 2 = 0 then 1 else 16))
    else if f = 3 then sint 16 ((bs.getD (2 + 2 * i) 0).toNat + 256 * (bs.getD (3 + 2 * i) 0).toNat)
    else sint 8 (bs.getD (2 + i) 0).toNat
/-- An element of width `w` brought to an exponent `sh` higher, and whether bits were discarded (R224). -/
def alignEl (w sh : Nat) (e : Int) : Int × Bool :=
  if sh = 0 ∨ e = 0 then (e, false)
  else if w ≤ sh then (0, true)
  else
    let r := roundAt .rne (decide (e < 0)) e.natAbs (-(sh : Int)) 0 false
    (signed (decide (e < 0)) r.1, r.2)

/-- A row of A or a column of B in one slice, as it enters the array: integers, their common exponent, whether an infinity or NaN stands
in it, and whether bits were discarded. -/
structure Lined where
  xs : List Int
  e : Int
  bad : Bool
  nx : Bool
  deriving DecidableEq, Repr

/-- Tagged blocks of one row or column aligned (R224). -/
def alignBlocks (f : Nat) (bls : List (List Byte)) : Lined :=
  let zero := fun (b : List Byte) => b.getD 0 0 == 0xFF#8
  let sc := (bls.filter fun b => !zero b).map fun b => sint 8 (b.getD 1 0).toNat
  let ea := sc.foldl max (sc.headD 0)
  let rs := bls.flatMap fun b =>
    if zero b then List.replicate (nEl f) (0, false)
    else (blockEls f b).map fun x => alignEl (elBits f) (ea - sint 8 (b.getD 1 0).toNat).toNat x
  ⟨rs.map fun r => r.1, ea, false, rs.any fun r => r.2⟩
/-- Untagged F16 or BF16 values of one row or column aligned (R225). -/
def alignFloats (f : Fmt) (vs : List Nat) : Lined :=
  let ws := vs.map (fval f)
  let ex := ws.filterMap fun v => match v with
    | .fin _ m e => if m = 0 then none else some (e + (Nat.log2 m : Int))
    | _ => none
  match ex with
  | [] => ⟨ws.map fun _ => 0, 0, ws.any fun v => match v with | .fin _ _ _ => false | _ => true, false⟩
  | x :: t =>
    let ea := t.foldl max x - 14
    let rs := ws.map fun v => match v with
      | .fin s m e =>
        let r := roundAt .rne s m e ea false
        (signed s r.1, r.2)
      | _ => (0, false)
    ⟨rs.map fun r => r.1, ea, ws.any fun v => match v with | .fin _ _ _ => false | _ => true, rs.any fun r => r.2⟩

/-- The working moduli of a residue set (R222). -/
def resMods (wide : Bool) : List Nat := if wide then [16384, 16383, 16381] else [256, 255, 253]
/-- M of a residue set (R222). -/
def resM (wide : Bool) : Nat := if wide then 4396972818432 else 16515840
/-- The check modulus (R222). -/
def resQ (wide : Bool) : Nat := if wide then 16411 else 257
/-- The CRT constants (R226). -/
def resE (wide : Bool) : List Nat :=
  if wide then [2931404668929, 2198352216064, 3664188751872] else [11032065, 8225536, 13774080]
/-- An integer modulo `m`, in 0 to m − 1 (R222). -/
def umodN (m : Nat) (x : Int) : Nat := (x % (m : Int)).toNat
/-- A number rebuilt from its residues (R226). -/
def rebuild (wide : Bool) (rs : List Nat) : Int :=
  let x := ((rs.zip (resE wide)).map fun p => p.1 * p.2).sum % resM wide
  if resM wide ≤ 2 * x then (x : Int) - resM wide else x
/-- The sum of a slice as the array finds it: residues, of which a faulty channel's are changed, rebuilt and checked; none: the check
fails (R226). -/
def checkedSum (wide : Bool) (fault : Option (Nat × Nat)) (x : Int) : Option Int :=
  let rs := (resMods wide).map fun m => umodN m x
  let xq := umodN (resQ wide) x
  match fault with
  | none =>
    let y := rebuild wide rs
    if umodN (resQ wide) y = xq then some y else none
  | some (c, d) =>
    let bent := (List.range 3).map fun k =>
      if k = c then (rs.getD k 0 + d) % (resMods wide).getD k 1 else rs.getD k 0
    let y := rebuild wide bent
    if umodN (resQ wide) y = (if c = 3 then (xq + d) % resQ wide else xq) then some y else none
/-- C after one slice's X under exponent `e` (R227); `first`: the addition overwrites. A NaN C stays, and a signalling one raises invalid
(R210, R325). -/
def accumulate (first : Bool) (c : Nat) (x e : Int) : Nat × Flags :=
  if first then roundInt F32 .rne false x e
  else match fval F32 c with
  | .nan s => (F32.nan, flagIf s fNV)
  | .inf _ => (c, 0#5)
  | v => addVal F32 .rne v (.fin (decide (x < 0)) x.natAbs e)

/-! ## Sources (R312 to R316) -/

/-- The offset read for offset `o` under rotation code `rho` (R73). -/
def rotated (rho o : Nat) : Nat :=
  if rho = 0 ∨ 8 < rho then o
  else o / 128 * 128 + (bits o 6 2 + bits o 16 7 / 2 ^ (rho - 1)) % 32 * 4 + o % 4
/-- TPITCH (R315). -/
def dTpitch (d : DWord × DWord) : Nat := dbits d.1 63 48
/-- RPITCH (R315). -/
def dRpitch (d : DWord × DWord) : Nat := dbits d.1 47 32
/-- BASE (R315). -/
def dBase (d : DWord × DWord) : Nat := dbits d.1 20 0
/-- FMTO (R315). -/
def dFmto (d : DWord × DWord) : Nat := dbits d.2 27 20
/-- The plane pitch in bytes (R315). -/
def dPpitch (d : DWord × DWord) : Nat := dbits d.2 19 4 * 64
/-- ROT (R315). -/
def dRot (d : DWord × DWord) : Nat := dbits d.2 3 0
/-- A tile's form attribute (R313). -/
def Group.form (g : Group) (t : Nat) : Nat := (g.forms.getD t 0).toNat
/-- The bank behind a slot for work that names it: the one that the slot held when it was given away, where the work is older (R82), else
the slot's own. -/
def State.slotBank (s : State) (ctx : Nat) (pins : List (Nat × Nat)) (slot : Nat) : Option Nat :=
  match pins.find? (fun p => p.1 == slot) with
  | some p => some p.2
  | none => match s.team? ctx with
    | none => none
    | some t => if (t.slot slot).mode = .empty then none else some (t.slot slot).bank

/-- `ja` of an operation's mode bits [4:1]. -/
def MmaOp.ja (o : MmaOp) : Bool := o.mode.getLsbD 2
/-- `jb`. -/
def MmaOp.jb (o : MmaOp) : Bool := o.mode.getLsbD 0
/-- `ones`. -/
def MmaOp.ones (o : MmaOp) : Bool := o.mode.getLsbD 1
/-- `acc`. -/
def MmaOp.acc (o : MmaOp) : Bool := o.mode.getLsbD 3
/-- Output planes (R258, R311). -/
def MmaOp.planes (o : MmaOp) : Nat := if o.ja || o.jb then o.jo + 1 else 1
/-- The products in the order in which they are taken: A plane, B plane, output plane (R259). -/
def MmaOp.products (o : MmaOp) : List (Nat × Nat × Nat) :=
  let ks := List.range (o.jo + 1)
  if o.ja && o.jb then ks.flatMap fun k => (List.range (k + 1)).map fun j => (j, k - j, k)
  else if o.ja then ks.map fun k => (k, 0, k)
  else if o.jb then ks.map fun k => (0, k, k)
  else [(0, 0, 0)]
/-- The strips that the operation writes (R311). -/
def MmaOp.strips (o : MmaOp) : List Nat :=
  o.octets.flatMap fun q => (List.range o.planes).map fun k => o.ad + q * jetG o.jo + k
/-- `n` bytes from byte `start` on of row or column `idx` of a plane of a source, at stride `l` in a tile; none: a tile that the operand
may not read, or the end of the bank (R314 to R316). -/
def State.opBytes (s : State) (o : MmaOp) (isB : Bool) (q plane idx l start n : Nat) : Option (List Byte) :=
  let src := if isB then o.sb else o.sa
  let d := if isB then o.db else o.da
  match s.team? o.ctx, s.group? o.ctx o.grp with
  | some t, some g =>
    if src < 16 then
      let at_ := (if isB then 0 else q * 8 * l) + idx * l + start
      let tile := src + (if isB && l == 256 then 2 * plane else plane) + at_ / 16384
      if (t.role g).tiles ≤ tile ∨ 16384 < at_ % 16384 + n ∨ g.form tile ≠ g.form src ∨ (isB ∧ l = 256 ∧ src % 2 = 1) then none
      else some ((List.range n).map fun i => g.tiles.getD (tile * 16384 + at_ % 16384 + i) 0)
    else
      let off := dBase d % 131072 + (if isB then 0 else q * dTpitch d) + idx * dRpitch d + plane * dPpitch d + start
      match s.slotBank o.ctx o.pins (slotOf (dBase d)) with
      | some b =>
        if 131072 < off + n then none
        else some ((List.range n).map fun i =>
          s.banks.get (bankAddr (clusterOf t.core) b (rotated (dRot d) (off + i))))
      | none => none
  | _, _ => none
/-- The form of a plane of a source (R312): an override, or the first code among the first blocks that is not 0xFF; 0xFF: all are zero
blocks; none: a code that is no format. -/
def State.opForm (s : State) (o : MmaOp) (isB : Bool) (q plane : Nat) : Option Nat :=
  let src := if isB then o.sb else o.sa
  let u := if src < 16 then (match s.group? o.ctx o.grp with
      | some g => g.form src
      | none => 0)
    else dFmto (if isB then o.db else o.da)
  if u ≠ 0 then some u
  else
    let heads := (List.range (if isB then 128 else 8)).map fun i => s.opBytes o isB q plane i 128 0 1
    match heads.find? (fun h => h != some [0xFF#8]) with
    | none => some 0xFF
    | some (some [b]) => if b.toNat = 1 ∨ b.toNat = 2 ∨ b.toNat = 3 then some b.toNat else none
    | some _ => none
/-- A form of the wide set (R222). -/
def wideForm (f : Nat) : Bool := f == 3 || f == 0x10 || f == 0x11
/-- A row of A or column of B read in a form and aligned (R223 to R225); `s4`: both operands are S4. -/
def State.opRow (s : State) (o : MmaOp) (isB : Bool) (q plane f : Nat) (s4 : Bool) (idx : Nat) : Option Lined :=
  if f = 0x10 ∨ f = 0x11 then
    (s.opBytes o isB q plane idx 256 0 248).map fun bs =>
      alignFloats (if f = 0x10 then F16 else BF16)
        ((List.range 124).map fun i => (bs.getD (2 * i) 0).toNat + 256 * (bs.getD (2 * i + 1) 0).toNat)
  else if f = 0x12 then
    (s.opBytes o isB q plane idx 128 0 124).map fun bs => ⟨bs.map fun b => sint 8 b.toNat, 0, false, false⟩
  else
    let n := if f = 3 then 4 else if f = 2 && !s4 then 1 else 2
    let bls := (List.range n).map fun i => s.opBytes o isB q plane idx (if f = 3 then 256 else 128) (64 * i) 64
    if bls.any fun b => match b with
      | some (h :: _) => !(h.toNat == f || h == 0xFF#8)
      | _ => true
    then none
    else some (alignBlocks f (bls.filterMap id))
/-- Every row or column of an operand, if each can be read. -/
def State.opRows (s : State) (o : MmaOp) (isB : Bool) (q plane f : Nat) (s4 : Bool) : Option (List Lined) :=
  let rs := (List.range (if isB then 128 else 8)).map (s.opRow o isB q plane f s4)
  if rs.any fun r => r.isNone then none else some (rs.filterMap id)
/-- The all-ones column of ones mode (R322). -/
def onesCol (s4 : Bool) : Lined := ⟨List.replicate (if s4 then 248 else 124) 1, 0, false, false⟩

/-- The forms of a product's operands, those of B and A for an operand of zero blocks (R312, R322); none: a code that is no format. -/
def State.opForms (s : State) (o : MmaOp) (q j kb : Nat) : Option (Nat × Nat) :=
  match s.opForm o false q j, (if o.ones then some 1 else s.opForm o true 0 kb) with
  | some fa, some fb =>
    some (if fa = 0xFF then (if !o.ones && (fb == 2 || fb == 3) then fb else 1) else fa,
      if o.ones then 1 else if fb = 0xFF then (if fa = 2 ∨ fa = 3 then fa else 1) else fb)
  | _, _ => none
/-- Both operands are tagged S4 (R312). -/
def MmaOp.bothS4 (o : MmaOp) (f : Nat × Nat) : Bool := f.1 == 2 && f.2 == 2 && !o.ones
/-- A product's operands: whether it is in the wide set, A's rows and B's columns; none: a block-format error (R312, R314, R322). -/
def State.operands (s : State) (o : MmaOp) (q j kb : Nat) : Option (Bool × List Lined × List Lined) :=
  match s.opForms o q j kb with
  | some f =>
    let s4 := o.bothS4 f
    let wide := wideForm f.1 || (!o.ones && wideForm f.2)
    match s.opRows o false q j f.1 s4, (if o.ones then some [] else s.opRows o true 0 kb f.2 s4) with
    | some a, some b => some (wide, a, if o.ones then List.replicate 128 (onesCol false) else b)
    | _, _ => none
  | none => none

/-! ### What an operation reads (R312 to R315, R326) -/

/-- Length R of a form (R312). -/
def rowBytes (f : Nat) (s4 : Bool) : Nat :=
  if f = 0x10 ∨ f = 0x11 then 248 else if f = 0x12 then 124 else if f = 3 then 256 else if f = 2 && !s4 then 64 else 128
/-- The tiles that a product of an octet reads (R314, R326). DEDUCED: where the headers decide, those that stand there tell. Log 64. -/
def State.opTiles (s : State) (o : MmaOp) (q : Nat) (p : Nat × Nat × Nat) : List Nat :=
  let wide := match s.opForms o q p.1 p.2.1 with
    | some f => wideForm f.2
    | none => false
  (if o.sa < 16 then [o.sa + p.1] else []) ++
    if o.sb < 16 && !o.ones then (if wide then [o.sb + 2 * p.2.1, o.sb + 2 * p.2.1 + 1] else [o.sb + p.2.1]) else []
/-- A tile is among those that an operation reads. -/
def State.mmaReads (s : State) (o : MmaOp) (tile : Nat) : Bool :=
  o.octets.any fun q => o.products.any fun p => (s.opTiles o q p).contains tile
/-- `n` bytes at the offset `off` of a rotated source meet the offsets from `lo` on and below `hi` (R73). -/
def spanMeets (rho off n lo hi : Nat) : Bool :=
  if rho = 0 ∨ 8 < rho then decide (off < hi) && decide (lo < off + n)
  else (List.range n).any fun i => decide (lo ≤ rotated rho (off + i)) && decide (rotated rho (off + i) < hi)
/-- A byte that a product of an octet reads lies in the offsets from `lo` on and below `hi` of a slot (R315, R326). -/
def State.opMeets (s : State) (o : MmaOp) (q : Nat) (p : Nat × Nat × Nat) (slot lo hi : Nat) : Bool :=
  let len := fun (isB : Bool) => match s.opForms o q p.1 p.2.1 with
    | some f => rowBytes (if isB then f.2 else f.1) (o.bothS4 f)
    | none => 64
  let meets := fun (d : DWord × DWord) (isB : Bool) (start plane : Nat) =>
    slotOf (dBase d) == slot && (List.range (if isB then 128 else 8)).any fun i =>
      spanMeets (dRot d) (dBase d % 131072 + start + i * dRpitch d + plane * dPpitch d) (len isB) lo hi
  (decide (16 ≤ o.sa) && meets o.da false (q * dTpitch o.da) p.1) ||
    (decide (16 ≤ o.sb) && !o.ones && meets o.db true 0 p.2.1)
/-- The words of banks that an octet of an operation reads (R320, R389): its rows of A, and B's columns, which plain operations and those
with `ja` alone load once. DESIGN CHOICE: which operations share a pass (R319) is timing; each counts a B load of its own. Log 76. -/
def State.octetWords (s : State) (o : MmaOp) (q : Nat) : Nat :=
  let loadsB := decide (16 ≤ o.sb) && !o.ones
  let len := fun (p : Nat × Nat × Nat) (isB : Bool) => match s.opForms o q p.1 p.2.1 with
    | some f => rowBytes (if isB then f.2 else f.1) (o.bothS4 f)
    | none => 64
  let a := if 16 ≤ o.sa then (o.products.map fun p => 8 * words4 (len p false)).sum else 0
  let once := o.doneOct.isEmpty && o.failed.isEmpty
  let b := if !loadsB then 0
    else if o.jb then (o.products.map fun p => 128 * words4 (len p true)).sum
    else if once then match o.products with
      | p :: _ => 128 * words4 (len p true)
      | [] => 0
    else 0
  a + b
/-- The operation names the buffer of an arming's word 1 (R326). -/
def State.mmaNames (s : State) (o : MmaOp) (w1 : DWord) : Bool :=
  if dbit w1 63 then s.mmaReads o (dbits w1 3 0)
  else
    let lo := dbits w1 16 0
    o.octets.any fun q => o.products.any fun p => s.opMeets o q p (slotOf (dbits w1 20 0)) lo (lo + dbits w1 52 32)
/-- The exact sum of products of a row and a column. -/
def dot (a b : List Int) : Int := ((a.zip b).map fun p => p.1 * p.2).sum

/-- An octet's strips while its products are taken: plane to its 1,024 elements, and the flags raised. -/
abbrev OctetAcc := SMap (List Nat) × Flags
/-- One product added into its output plane (R226, R227, R259): an error 1 block-format, 2 array-residue, or the planes. `fault`: a faulty
residue channel. -/
def State.octetStep (s : State) (o : MmaOp) (q : Nat) (fault : Option (Nat × Nat)) (a : OctetAcc) (p : Nat × Nat × Nat) :
    Except Nat OctetAcc :=
  match s.operands o q p.1 p.2.1 with
  | none => .error 1
  | some (wide, rows, cols) =>
    let k := p.2.2
    let strip := o.ad + q * jetG o.jo + k
    let first := (a.1.find? k).isNone && !o.acc
    let cur := match a.1.find? k with
      | some v => v
      | none => (List.range 1024).map fun i => match s.group? o.ctx o.grp with
        | some g => (g.strips.getD (strip * 1024 + i) 0).toNat
        | none => 0
    let cells := rows.flatMap fun r => cols.map fun c => (r, c)
    let outs := (cells.zip cur).map fun x =>
      let r := x.1.1
      let c := x.1.2
      match checkedSum wide fault (dot r.xs c.xs) with
      | none => none
      | some y => some (if r.bad || c.bad then (F32.nan, fNV) else accumulate first x.2 y (r.e + c.e))
    if outs.any fun v => v.isNone then .error 2
    else
      let vs := outs.filterMap id
      let nx := flagIf (rows.any (fun r => r.nx) || cols.any fun c => c.nx) fNX
      .ok (a.1.put k (vs.map fun v => v.1), vs.foldl (fun f v => f ||| v.2) (a.2 ||| nx))
/-- The products of an octet in order (R317). -/
def State.octet (s : State) (o : MmaOp) (q : Nat) (fault : Option (Nat × Nat)) (ps : List (Nat × Nat × Nat)) (a : OctetAcc) :
    Except Nat OctetAcc :=
  match ps with
  | [] => .ok a
  | p :: t =>
    match s.octetStep o q fault a p with
    | .ok b => State.octet s o q fault t b
    | .error e => .error e

/-! ## mma (R316, R317) -/

/-- The descriptor pair that a source field names, as it stands (R315). -/
def Group.descr (g : Group) (src : Nat) : DWord × DWord := if src < 16 then (0, 0) else (g.gr (2 * src), g.gr (2 * src + 1))
/-- The octets of a group that a set of threads covers (R310). -/
def octetsOf (ts : List ThreadRef) : List Nat := (List.range 8).filter fun q => ts.any fun t => t.idx / 8 == q
/-- The illegal encodings of R317 that depend on the group. -/
def mmaIllegal (t : Team) (g : Group) (jo : Nat) (f : LX) : Bool :=
  let tiles := (t.role g).tiles
  let pa := if f.ja then jo + 1 else 1
  let pb := if f.jb then jo + 1 else 1
  let wideB := f.b.toNat < 16 && (g.form f.b.toNat == 0x10 || g.form f.b.toNat == 0x11)
  (decide (f.a.toNat < 16) && decide (tiles < f.a.toNat + pa)) ||
    (!f.ones && decide (f.b.toNat < 16) &&
      (if wideB then decide (tiles < f.b.toNat + 2 * pb) || f.b.toNat % 2 == 1 else decide (tiles < f.b.toNat + pb))) ||
    decide ((t.role g).strips < f.d.toNat + t.width / 8 * jetG jo)
/-- Bytes known at issue to be read per row or column (R316). -/
def fmtoLen (f : Nat) : Nat := if f = 0x10 ∨ f = 0x11 then 248 else if f = 0x12 then 124 else 64
/-- A descriptor whose fields break R315. -/
def descrBad (d : DWord × DWord) : Bool :=
  decide (dbits d.1 31 21 ≠ 0) || decide (dbits d.2 63 28 ≠ 0) || decide (8 < dRot d) || !([0, 0x10, 0x11, 0x12].contains (dFmto d)) ||
    decide (dBase d % 64 ≠ 0) || decide (dRpitch d % 64 ≠ 0) || decide (dTpitch d % 64 ≠ 0)
/-- The checks of R316 on the descriptors of an operation, in order: cause and `faddr`. -/
def State.descrFault (s : State) (ctx : Nat) (t : Team) (g : Group) (jo : Nat) (f : LX) (qs : List Nat) : Option (Nat × DWord) :=
  let ds := (if 16 ≤ f.a.toNat then [(g.descr f.a.toNat, false)] else []) ++
    (if 16 ≤ f.b.toNat && !f.ones then [(g.descr f.b.toNat, true)] else [])
  if ds.any fun d => descrBad d.1 then some (cMatrix, 0)
  else
    match ds.findSome? (fun d => match s.bankPlace ctx t (dBase d.1) 1 1 .engine with
      | .error c => some (c, dw (dBase d.1))
      | .ok _ => none) with
    | some e => some e
    | none => ds.findSome? fun d =>
      let planes := if d.2 then (if f.jb then jo + 1 else 1) else (if f.ja then jo + 1 else 1)
      let span := if d.2 then 127 * dRpitch d.1 else maxL 0 qs * dTpitch d.1 + 7 * dRpitch d.1
      if 131072 < dBase d.1 % 131072 + span + (planes - 1) * dPpitch d.1 + fmtoLen (dFmto d.1) then some (cBank, dw (dBase d.1))
      else none
/-- The uniform registers that an `mma` names. -/
def mmaRegs (f : LX) : List Nat :=
  (if 16 ≤ f.a.toNat then [2 * f.a.toNat, 2 * f.a.toNat + 1] else []) ++
    (if 16 ≤ f.b.toNat && !f.ones then [2 * f.b.toNat, 2 * f.b.toNat + 1] else [])
/-- One operation issues for a group (R317): its octets follow one another in the core's queue, then it completes. -/
def State.issueMma (s : State) (core jo : Nat) (f : LX) (w : Word) (ctx grp : Nat) (ts : List ThreadRef) : State :=
  match s.group? ctx grp with
  | none => s
  | some g =>
    let n := s.newId
    let qs := octetsOf ts
    let o : MmaOp :=
      { id := n.1, ctx := ctx, grp := grp, octets := qs, word := w, ad := f.d.toNat, sa := f.a.toNat, sb := f.b.toNat, mode := f.m
        jo := jo, da := g.descr f.a.toNat, db := g.descr f.b.toNat, seq := g.seqOf 1, n := g.issuedOf 1 + 1, doneOct := []
        failed := [], told := false, pins := [] }
    ((n.2.modGroup ctx grp fun g => g.countUp 1).modCore core fun k => { k with mq := k.mq ++ [o] }).postAll
      (qs.map fun q => .mmaOctetDone core n.1 q)
/-- The groups of an issue set in ascending order of team and then of group (R310). -/
def State.groupsInOrder (s : State) (gs : List (Nat × Nat)) : List (Nat × Nat) :=
  let key := fun (g : Nat × Nat) => (((s.team? g.1).map fun t => t.teamid).getD 0 * 2 ^ 32 + g.1) * 64 + g.2
  gs.foldl (fun a g => (a.filter fun h => decide (key h ≤ key g)) ++ g :: a.filter fun h => decide (key g < key h)) []
/-- The group and the core's matrix queue have room for one more operation (R317). -/
def State.mmaRoom (s : State) (core ctx grp : Nat) : Bool :=
  decide ((s.core core).mq.length < 64) && match s.group? ctx grp with
    | some g => decide (g.ops < 64)
    | none => true
/-- The operations of an issue set, one group after another while there is room; the threads whose operation has issued are marked.
False: a group waits for room. -/
def State.issueMmas (s : State) (core jo : Nat) (f : LX) (w : Word) (gs : List ((Nat × Nat) × List ThreadRef)) : State × Bool :=
  match gs with
  | [] => (s, true)
  | g :: t =>
    if s.mmaRoom core g.1.1 g.1.2 then
      State.issueMmas ((s.issueMma core jo f w g.1.1 g.1.2 g.2).eachThread g.2 fun x => { x with arr := some .mma }) core jo f w t
    else (s, false)
/-- MMA (R310, R317). -/
def execMma (e : Bool) (f : LX) (s : State) : Host.Outcome State Fault Refusal :=
  match s.run? with
  | none => .next s
  | some (k, r) =>
    let fs := s.laneFates k r (.mma e f) bareMod false [] (mmaRegs f) fun c x =>
      if x.arr = some .mma then .go { x with arr := none } 0#40
      else if mmaIllegal c.team c.group r.jo f then .fault cIllegal 0 (wordsAddr (encode (.mma e f)))
      else if (f.ja || f.jb) && f.d.toNat % jetG r.jo != 0 then .fault cJet 0 (dw f.d.toNat)
      else match s.descrFault c.ref.ctx c.team c.group r.jo f (octetsOf (r.set.filter fun q => q.ctx == c.ref.ctx && q.grp == c.ref.grp)) with
      | some d => .fault d.1 0 d.2
      | none =>
        if !x.bankW.isEmpty then .wait (.writes 0) else .go x 0#40
    let s := s.nameLines k r fs [] (mmaRegs f)
    if (firstWait r.bound fs).isSome then .next (s.meet (.mma e f) fs)
    else
      let due := (goers fs).filter fun q => match s.thread? q with
        | some x => x.arr != some .mma
        | none => false
      let gs := (s.groupsInOrder (groupsOf due)).map fun g => (g, due.filter fun q => q.ctx == g.1 && q.grp == g.2)
      let a := s.issueMmas k r.jo f ((wordOf (.mma e f)).getD 0) gs
      .next (if a.2 then a.1.meet (.mma e f) fs else a.1.stall (.queueRoom 1))

/-- An operation of a core's matrix queue. -/
def State.mmaOp? (s : State) (core op : Nat) : Option MmaOp := (s.core core).mq.find? fun o => o.id == op
/-- An operation of a core's matrix queue changed. -/
def State.modMma (s : State) (core op : Nat) (f : MmaOp → MmaOp) : State :=
  s.modCore core fun k => { k with mq := k.mq.map fun o => if o.id = op then f o else o }
/-- The strips of an octet enter the group's accumulators, and its flags the matrix flags (R317, R325). -/
def Group.landOctet (g : Group) (o : MmaOp) (q : Nat) (a : OctetAcc) : Group :=
  { g with
    mflags := g.mflags ||| a.2
    strips := a.1.foldl (fun m p =>
      ((List.range 1024).zip p.2).foldl (fun m v => SMap.store m 0 ((o.ad + q * jetG o.jo + p.1) * 1024 + v.1) (wd v.2)) m) g.strips }
/-- MMA_OCTET_DONE (R317, R327): an octet's products are formed in order; its strips change only if none fails. -/
def execMmaOctetDone (core op q : Nat) (s : State) : Host.Outcome State Fault Refusal :=
  if 384 ≤ core then .fault .noSuchUnit
  else match s.mmaOp? core op with
  | none => .next s
  | some o =>
    if !o.octets.contains q || o.doneOct.contains q || (o.failed.any fun p => p.1 == q) then .next s
    else
      let fault := (s.residues.find? fun f => f.op == op && f.oct == q).map fun f => (f.chan, f.delta)
      match s.octet o q fault o.products ([], 0#5) with
      | .ok a => .next ((s.modMma core op fun o => { o with doneOct := o.doneOct ++ [q] }).modGroup o.ctx o.grp fun g => g.landOctet o q a)
      | .error n => .next (s.modMma core op fun o => { o with failed := o.failed ++ [(q, n)] })

/-! ## Completion and errors (R318, R325, R327) -/

/-- The error entries of an operation: block-format first (R325). -/
def MmaOp.errors (o : MmaOp) : List ErrEntry :=
  [1, 2].filterMap fun n =>
    let qs := o.failed.filterMap fun p => if p.2 = n then some p.1 else none
    if qs.isEmpty then none
    else some
      { cls := 1, seq := o.n
        entry := dw (3 * 2 ^ 56 + n * 2 ^ 48 + o.seq * 2 ^ 32 + (qs.map fun q => 2 ^ q).sum * 2 ^ 16 + o.ad)
        strips := qs.flatMap fun q => (List.range o.planes).map fun k => o.ad + q * jetG o.jo + k }
/-- The oldest operation of a group in a core's queue. -/
def Core.firstOp (k : Core) (ctx grp : Nat) : Option MmaOp := k.mq.find? fun o => o.ctx == ctx && o.grp == grp
/-- MMA_COMPLETE (R318, R325): in issue order of the group; an operation whose error entry waits does not complete. -/
def execMmaComplete (core op : Nat) (s : State) : Host.Outcome State Fault Refusal :=
  if 384 ≤ core then .fault .noSuchUnit
  else match s.mmaOp? core op with
  | none => .next s
  | some o =>
    if o.reading || (s.core core).firstOp o.ctx o.grp != some o then .next s
    else
      let s := if o.told then s
        else (s.modMma core op fun o => { o with told := true }).modGroup o.ctx o.grp fun g =>
          o.errors.foldl (fun g e => g.postEntry 1 e.entry) g
      match s.group? o.ctx o.grp with
      | none => .next s
      | some g =>
        if o.errors.any fun e => g.overflow.contains (1, e.entry) then .next s
        else
          .next ((s.modGroup o.ctx o.grp fun g => { g.countDown 1 with errs := g.errs ++ o.errors }).modCore core fun k =>
            { k with mq := k.mq.filter fun p => p.id != op })
/-- The operations of a core whose completion stands next: the first of their group, all octets finished, and no error entry
waiting. -/
def State.mmaEnding (s : State) (k : Core) : List MmaOp :=
  k.mq.filter fun o => !o.reading && k.firstOp o.ctx o.grp == some o && match s.group? o.ctx o.grp with
    | some g => !o.told || !(o.errors.any fun e => g.overflow.contains (1, e.entry))
    | none => false
/-! ## The matrix queue register (R325, R326) -/

/-- A `qmx` command that R325 forbids. -/
def qmxBad (tiles : Nat) (w0 w1 : DWord) : Bool :=
  let kind := dbits w0 63 56
  if dbits w0 55 16 ≠ 0 then true
  else if kind = 1 then
    decide (dbits w1 62 53 ≠ 0) || decide (dbits w1 31 21 ≠ 0) ||
      (if dbit w1 63 then decide (dbits w1 52 32 ≠ 0) || decide (dbits w1 20 4 ≠ 0) || decide (tiles ≤ dbits w1 3 0)
       else decide (dbits w1 52 32 = 0) || decide (131072 < dbits w1 16 0 + dbits w1 52 32))
  else if kind = 2 then decide (dbits w0 15 0 ≠ 0) || w1 != 0
  else true
/-- A `qmx` command is taken in (R325, R326): it is bound to the operations issued so far. -/
def State.qmxPush (s : State) (ctx grp : Nat) (w0 w1 : DWord) : State :=
  match s.group? ctx grp with
  | none => s
  | some g =>
    if dbits w0 63 56 = 1 then
      let n := s.newId
      (n.2.modGroup ctx grp fun q => { q with arms := q.arms ++ [⟨w0, w1, g.issuedOf 1, n.1⟩] }).post (.qmxArmMark ctx grp w0 w1)
    else s.modGroup ctx grp fun q => { q with reports := q.reports ++ [(g.issuedOf 1, (g.seqOf 1 + 65535) % 65536)] }
/-- QMX_ARM_MARK (R326): the operations of E that still read are remembered. -/
def execQmxArmMark (ctx grp : Nat) (w0 w1 : DWord) (s : State) : Host.Outcome State Fault Refusal :=
  match s.group? ctx grp with
  | none => .next s
  | some g =>
    match g.arms.find? (fun a => a.w0 == w0 && a.w1 == w1) with
    | none => .next s
    | some a =>
      let es := ((s.core g.core).mq.filter fun o =>
        o.ctx == ctx && o.grp == grp && decide (o.n ≤ a.n) && o.reading && s.mmaNames o w1).map fun o => o.id
      let m := dbits w0 15 0
      .next (s.modGroup ctx grp fun q =>
        { q with arms := q.arms.erase a, marks := (q.marks.filter fun k => !(k.m == m && k.posted)) ++ [⟨m, a.serial, es, false⟩] })
/-- A mark whose operations have all read their operands (R326). -/
def State.markReady (s : State) (core : Nat) (k : Mark) : Bool :=
  !k.posted && !((s.core core).mq.any fun o => k.ops.contains o.id && o.reading)
/-- MARK_POST (R326): the oldest arming of the mark that can be posted is. -/
def execMarkPost (ctx grp mark : Nat) (s : State) : Host.Outcome State Fault Refusal :=
  match s.group? ctx grp with
  | none => .next s
  | some g =>
    match g.marks.find? (fun k => k.m == mark && s.markReady g.core k) with
    | none => .next s
    | some k => .next (s.modGroup ctx grp fun q =>
        { q with marks := q.marks.map fun j => if j = k then { j with posted := true } else j }.postEntry 1 (dw (2 ^ 56 + mark % 65536)))
/-- The first report-flags command of a group may be answered: every operation before it has completed (R325). -/
def State.reportReady (s : State) (ctx grp : Nat) (g : Group) : Bool :=
  match g.reports with
  | [] => false
  | r :: _ => !((s.core g.core).mq.any fun o => o.ctx == ctx && o.grp == grp && decide (o.n ≤ r.1))
/-- QMX_REPORT_FLAGS (R325). -/
def execQmxReportFlags (ctx grp : Nat) (s : State) : Host.Outcome State Fault Refusal :=
  match s.group? ctx grp with
  | none => .next s
  | some g =>
    match g.reports with
    | [] => .next s
    | r :: t =>
      if s.reportReady ctx grp g then
        .next (s.modGroup ctx grp fun q =>
          { q with reports := t, mflags := 0#5 }.postEntry 1 (dw (2 * 2 ^ 56 + r.2 * 2 ^ 32 + (g.mflags &&& 29#5).toNat)))
      else .next s

/-! ## Accumulators (R324) -/

/-- The strip that thread `i` reaches (R324). -/
def accStrip (f : LACC) (jo i : Nat) : Nat := f.s.toNat + i / 8 * jetG jo
/-- The error entry that an access to accumulators meets: one of a failed octet whose strip a participating thread of the group names
(R327). -/
def accErr (r : Run) (m : Mod) (f : LACC) (s : State) (ctx grp : Nat) (g : Group) : Option ErrEntry :=
  let ss := r.set.filterMap fun q =>
    if q.ctx = ctx ∧ q.grp = grp then
      match s.thread? q with
      | some x => if takesPart m x then some (accStrip f r.jo q.idx) else none
      | none => none
    else none
  g.errs.find? fun n => n.cls == 1 && n.strips.any fun k => ss.contains k
/-- `accrd` and `accwr` issue (R324): strips are waited for, an undelivered error is taken by every thread of its group (R327). DESIGN
CHOICE: a thread that its predicate masks off takes that fault too, as R327 has every thread executing the word take it, though R190 has
a masked-off thread raise none. Log 65. -/
def State.issueAcc (s : State) (i : Instr) (m : Mod) (f : LACC) (z : Thread → Thread) (act : State → LaneCtx → Thread → State) :
    State :=
  match s.run? with
  | none => s
  | some (k, r) =>
    let fs := s.laneFates k r i m false [one f.v] [] fun c x =>
      if (c.team.role c.group).strips < f.s.toNat + (c.team.width / 8 - 1) * jetG r.jo + 1 then
        .fault cIllegal 0 (wordsAddr (encode i))
      else
        let st := accStrip f r.jo c.ref.idx
        if takesPart m x && (s.core k).mq.any (fun o => o.ctx == c.ref.ctx && o.grp == c.ref.grp && o.strips.contains st) then
          .wait (.strip st)
        else match accErr r m f s c.ref.ctx c.ref.grp c.group with
        | some n => .fault (errFault n).1 0 n.entry
        | none => if takesPart m x then .go x 0#40 else .go (if m.z then z x else x) 0#40
    let s1 := (s.nameLines k r fs [one f.v] []).meet i fs
    if (firstWait r.bound fs).isSome then s1
    else
      let s2 := (groupsOf (fs.filterMap fun p => match p.2 with
        | .fault c _ _ => if c = cBlock ∨ c = cResidue then some p.1 else none
        | _ => none)).foldl (fun s2 g => match s.group? g.1 g.2 with
          | some q => match accErr r m f s g.1 g.2 q with
            | some n => s2.modGroup g.1 g.2 fun q => { q with errs := q.errs.erase n }
            | none => s2
          | none => s2) s1
      (goers fs).foldl (fun s2 q => match s.laneCtx? k r q, s.thread? q with
        | some c, some x => if takesPart m x then act s2 c x else s2
        | _, _ => s2) s2
/-- ACCRD (R324). -/
def execAccrd (m : Mod) (f : LACC) (s : State) : Host.Outcome State Fault Refusal :=
  .next (s.issueAcc (.accrd m f) m f (fun x => x.clear (one f.v)) fun s c _ =>
    s.modThread c.ref fun x =>
      x.setR f.v.toNat (c.group.strips.getD (accStrip f c.jo c.ref.idx * 1024 + c.ref.idx % 8 * 128 + f.c.toNat) 0))
/-- ACCWR (R324). -/
def execAccwr (m : Mod) (f : LACC) (s : State) : Host.Outcome State Fault Refusal :=
  .next (s.issueAcc (.accwr m f) m f id fun s c x =>
    s.modGroup c.ref.ctx c.ref.grp fun g =>
      { g with strips := g.strips.store 0 (accStrip f c.jo c.ref.idx * 1024 + c.ref.idx % 8 * 128 + f.c.toNat) (x.r f.v.toNat) })

/-! ## Tile moves (R350) -/

/-- The checks of a tile move: where the rows start in a bank, or a fault. -/
def State.tilePlace (s : State) (u : UniCtx) (i : Instr) (f : GT) (use : Use) (ok : Nat → Nat → Nat → DWord × DWord → UFate) : UFate :=
  let d := (u.group.gr f.a.toNat, u.group.gr (f.a.toNat + 1))
  if (u.team.role u.group).tiles ≤ f.t.toNat then .fault cIllegal 0 (wordsAddr (encode i))
  else if decide (dbits d.1 31 21 ≠ 0) || decide (dbits d.2 63 28 ≠ 0) || decide (dRot d ≠ 0) ||
      !([0, 0x10, 0x11, 0x12].contains (dFmto d)) || decide (dBase d % 64 ≠ 0) || decide (dRpitch d % 64 ≠ 0) then .fault cMatrix 0 0
  else match (s.uniThreads u).findSome? Thread.acqWait with
  | some l => .wait s (.loadData l)
  | none => match s.bankPlace u.ctx u.team (dBase d) 1 1 use with
  | .error c => .fault c 0 (dw (dBase d))
  | .ok (.bank cl bank off) =>
    if 131072 < off + 127 * dRpitch d + 128 then .fault cBank 0 (dw (dBase d))
    else match (s.uniThreads u).findSome? (fun x => (s.cluster cl).ownWrite x bank off (127 * dRpitch d + 128)) with
    | some w => .wait s (.ownWrite w)
    | none => ok cl bank off d
  | .ok _ => .fault cSlotMode 0 (dw (dBase d))
/-- TLD (R350, R313, R318). -/
def execTld (e : Bool) (f : GT) (s : State) : Host.Outcome State Fault Refusal :=
  .next (s.issueUni (.tld e f) false [f.a.toNat, f.a.toNat + 1] fun u s =>
    s.tilePlace u (.tld e f) f .engine fun cl bank off d =>
      if (s.core u.core).mq.any fun o => o.ctx == u.ctx && o.grp == u.grp && o.reading && s.mmaReads o f.t.toNat then
        .wait s (.tile f.t.toNat)
      else
        let bs := (List.range 128).flatMap fun r => s.banks.read (bankAddr cl bank (off + r * dRpitch d)) 128
        .go (s.modGroup u.ctx u.grp fun g =>
          { g with
            tiles := ((List.range 16384).zip bs).foldl (fun m p => SMap.store m 0 (f.t.toNat * 16384 + p.1) p.2) g.tiles
            forms := g.forms.store 0 f.t.toNat (BitVec.ofNat 8 (dFmto d)) }))
/-- TST (R350): its writes have retired when it ends. -/
def execTst (e : Bool) (f : GT) (s : State) : Host.Outcome State Fault Refusal :=
  .next (s.issueUni (.tst e f) false [f.a.toNat, f.a.toNat + 1] fun u s =>
    s.tilePlace u (.tst e f) f .tile fun cl bank off d =>
      let row := fun (r : Nat) => (List.range 128).map fun b => u.group.tiles.getD (f.t.toNat * 16384 + r * 128 + b) 0
      let put := fun (m : Memory) (r : Nat) => m.write (bankAddr cl bank (off + r * dRpitch d)) (row r)
      let s1 := { s with banks := (List.range 128).foldl put s.banks }
      .go (s1.eachThread u.ts fun x => { x with hznT := max x.hznT (s.nowAt u.core) }))

end Sys2Proof.Machine
end

