-- ==== Sys2Proof/Machine/Engine.lean ====
section
/-! DEFINITION. Queues and engines: `qpush` and `qpop` (R351, R352), copies (R354 to R356), gathers (R357), collectives (R358, R359), and
how an engine command reads, writes, counts and completes (R91, R113 to R115, R353). -/

namespace Sys2Proof.Machine

/-! ## The fields of a command (R354, R357, R358) -/

/-- Word `k` of a command. -/
def wordAt (ws : List DWord) (k : Nat) : DWord := ws.getD k 0
/-- CONV. -/
def cConv (ws : List DWord) : Nat := dbits (wordAt ws 2) 63 61
/-- FMT. -/
def cFmt (ws : List DWord) : Nat := dbits (wordAt ws 2) 60 58
/-- SCOPE. -/
def cScope (ws : List DWord) : Nat := dbits (wordAt ws 2) 57 55
/-- SYNCEN. -/
def cSyncen (ws : List DWord) : Bool := dbit (wordAt ws 2) 54
/-- NOTIFY. -/
def cNotify (ws : List DWord) : Bool := dbit (wordAt ws 2) 53
/-- AFTER. -/
def cAfter (ws : List DWord) : Bool := dbit (wordAt ws 2) 52
/-- MARK. -/
def cMark (ws : List DWord) : Nat := dbits (wordAt ws 2) 51 36
/-- SRCB. -/
def cSrcb (ws : List DWord) : Bool := dbit (wordAt ws 2) 34
/-- DSTB. -/
def cDstb (ws : List DWord) : Bool := dbit (wordAt ws 2) 33
/-- SYNC. -/
def cSync (ws : List DWord) : Nat := dbits (wordAt ws 2) 31 0
/-- DPITCH in bytes. -/
def cDpitch (ws : List DWord) : Nat := 16 * dbits (wordAt ws 3) 63 48
/-- SPITCH in bytes. -/
def cSpitch (ws : List DWord) : Nat := 16 * dbits (wordAt ws 3) 47 32
/-- Rows of a copy, strips of a drain. -/
def cRows (ws : List DWord) : Nat := dbits (wordAt ws 3) 31 20 + 1
/-- RLEN of a copy. -/
def cRlen (ws : List DWord) : Nat := dbits (wordAt ws 3) 19 0
/-- The scale array of a pack, or of a drain to tagged S8. -/
def cScale (ws : List DWord) : Nat := if cConv ws = 4 then dbits (wordAt ws 0) 63 32 else dbits (wordAt ws 3) 63 32
/-- Bytes of a drained row (R355). -/
def drainRow (fmt : Nat) : Nat := if fmt = 0 then 512 else if fmt = 3 then 192 else 256
/-- Rows of a gather. -/
def gCount (ws : List DWord) : Nat := dbits (wordAt ws 3) 31 16 + 1
/-- Bytes of a gathered row. -/
def gRlen (ws : List DWord) : Nat := dbits (wordAt ws 3) 15 0
/-- OP of a collective: 0 reduce-scatter, 1 all-gather, 2 all-reduce. -/
def lOp (ws : List DWord) : Nat := dbits (wordAt ws 2) 63 62
/-- Bytes of an element of a collective. -/
def lSize (ws : List DWord) : Nat := if dbit (wordAt ws 2) 61 then 2 else 4
/-- COUNT of a collective. -/
def lCount (ws : List DWord) : Nat := dbits (wordAt ws 3) 31 0
/-- NDEV. -/
def lNdev (ws : List DWord) : Nat := dbits (wordAt ws 4) 8 0
/-- Elements that a collective delivers (R359). -/
def lTotal (ws : List DWord) : Nat := if lOp ws = 0 then lCount ws else lNdev ws * lCount ws

/-- The requirements of R354 and R355 that a copy breaks. -/
def copyBad (strips : Nat) (ws : List DWord) : Bool :=
  let w2 := wordAt ws 2
  let noPitch := cDpitch ws == 0 && cSpitch ws == 0
  let src := (wordAt ws 0).toNat
  let dst := (wordAt ws 1).toNat
  dbit w2 35 || dbit w2 32 || decide (5 < cScope ws) || (!cAfter ws && cMark ws != 0) || (!cSyncen ws && cSync ws != 0) ||
    (cSrcb ws && decide (src / 2 ^ 32 ≠ 0)) ||
    (match cConv ws with
     | 0 => cFmt ws != 0 || cRlen ws == 0 || cRows ws != 1 || !noPitch
     | 1 => cFmt ws != 0 || cRlen ws == 0
     | 2 => !([1, 2, 3].contains (cFmt ws)) || cRlen ws == 0 || cRows ws != 1 || src % 4 != 0 || dst % 64 != 0 ||
         cRlen ws % (4 * nEl (cFmt ws)) != 0
     | 3 => cFmt ws != 0 || cRlen ws == 0 || cRows ws != 1 || !noPitch || src % 64 != 0 || cRlen ws % 64 != 0 || dst % 4 != 0
     | 4 => cSrcb ws || cRlen ws != 0 || decide (dbits (wordAt ws 0) 31 9 ≠ 0) || decide (3 < cFmt ws) ||
         decide (strips < dbits (wordAt ws 0) 8 0 + cRows ws)
     | _ => true)
/-- The fields of a gather that R357 forbids. -/
def gatherBad (ws : List DWord) : Bool :=
  let w2 := wordAt ws 2
  decide (dbits w2 63 58 ≠ 0) || decide (dbits w2 52 32 ≠ 0) || decide (5 < cScope ws) || (!cSyncen ws && cSync ws != 0) ||
    dbits (wordAt ws 3) 63 32 % 4 != 0 || gRlen ws % 4 != 0 || gRlen ws == 0
/-- The fields of a collective that R358 forbids. -/
def collectiveBad (ws : List DWord) : Bool :=
  let w2 := wordAt ws 2
  lOp ws == 3 || decide (dbits w2 60 58 ≠ 0) || decide (dbits w2 52 32 ≠ 0) || decide (5 < cScope ws) || (!cSyncen ws && cSync ws != 0) ||
    lCount ws == 0 || decide (lNdev ws < 2) || decide (256 < lNdev ws) || decide (dbits (wordAt ws 4) 31 9 ≠ 0) || wordAt ws 5 != 0

/-- A bank range that a command names: its address, bytes, alignment, use, and the fault of a range that leaves its bank. -/
structure Named where
  a : Nat
  ext : Nat
  align : Nat
  use : Use
  code : Nat
  deriving DecidableEq, Repr
/-- The bank ranges of a command of class `cls` (R354, R355, R357, R358). -/
def namedOf (cls : Nat) (ws : List DWord) : List Named :=
  let a := fun k => dbits (wordAt ws k) 31 0
  let sync := if cSyncen ws then [⟨cSync ws, 16, 16, .word, cBank⟩] else []
  if cls = 0 then
    let blocks := cRlen ws / (4 * nEl (cFmt ws))
    let sext := if cConv ws = 1 then (cRows ws - 1) * cSpitch ws + cRlen ws else cRlen ws
    let dext := match cConv ws with
      | 0 => cRlen ws
      | 1 => (cRows ws - 1) * cDpitch ws + cRlen ws
      | 2 => 64 * blocks
      | 3 => 124 * (cRlen ws / 64)
      | _ => (8 * cRows ws - 1) * cDpitch ws + drainRow (cFmt ws)
    (if cSrcb ws then [⟨a 0, sext, 1, .engine, cCommand⟩] else []) ++
      (if cDstb ws then [⟨a 1, dext, 1, .dest, cCommand⟩] else []) ++
      (if cConv ws = 2 then [⟨cScale ws, blocks, 1, .engine, cCommand⟩] else []) ++
      (if cConv ws = 4 && cFmt ws == 3 then [⟨cScale ws, 8 * cRows ws, 1, .engine, cCommand⟩] else []) ++ sync
  else if cls = 2 then
    [⟨dbits (wordAt ws 1) 63 32, 4 * gCount ws, 4, .engine, cBank⟩, ⟨a 1, gCount ws * gRlen ws, 4, .gathered, cBank⟩] ++ sync
  else [⟨dbits (wordAt ws 4) 63 32, 2 * lNdev ws, 2, .engine, cBank⟩] ++ sync
/-- The pod pointers of a command: which word, and the right it needs (R43, R47). -/
def podsOf (cls : Nat) (ws : List DWord) : List (Nat × Nat) :=
  if cls = 0 then (if cSrcb ws || cConv ws == 4 then [] else [(0, 0)]) ++ (if cDstb ws then [] else [(1, 1)])
  else if cls = 2 then [(0, 0)] else [(0, 0), (1, 1)]

/-! ## qpush and qpop (R351, R352) -/

/-- Words of a command of queue `q` (R351). -/
def cmdLen (q : Nat) : Nat := if q = 1 then 2 else if q = 4 then 6 else 4
/-- The counter class of queue `q`. -/
def classOf (q : Nat) : Nat := if q = 2 then 0 else if q = 3 then 2 else if q = 4 then 3 else 1
/-- Bytes that a command reads at a bank address; zeros when the slot is gone. -/
def State.cmdBytes (s : State) (ctx : Nat) (pins : List (Nat × Nat)) (a n : Nat) : List Byte :=
  match s.team? ctx, s.slotBank ctx pins (slotOf a) with
  | some t, some b => s.banks.read (bankAddr (clusterOf t.core) b (a % 131072)) n
  | _, _ => List.replicate n 0
/-- The device list of a collective (R358). -/
def State.deviceList (s : State) (ctx : Nat) (ws : List DWord) : List Nat :=
  let bs := s.cmdBytes ctx [] (dbits (wordAt ws 4) 63 32) (2 * lNdev ws)
  (List.range (lNdev ws)).map fun k => (bs.getD (2 * k) 0).toNat + 256 * (bs.getD (2 * k + 1) 0).toNat
/-- A device list that R358 forbids. -/
def listBad (dev scope : Nat) (ds : List Nat) : Bool :=
  decide (ds.eraseDups.length < ds.length) || !ds.contains dev || (ds.any (fun d => d != dev) && decide (scope < 4))
/-- The checks of a final `qpush` in their order (R351, R47): cause and `faddr`. -/
def State.cmdFault (s : State) (u : UniCtx) (q : Nat) (ws : List DWord) : Option (Nat × DWord) :=
  let cls := classOf q
  if ws.length ≠ cmdLen q then some (cCommand, 0)
  else if q = 1 then
    if qmxBad (u.team.role u.group).tiles (wordAt ws 0) (wordAt ws 1) then some (cMatrix, 0)
    else if dbits (wordAt ws 0) 63 56 = 1 ∧ dbit (wordAt ws 1) 63 = false then
      (let a := dbits (wordAt ws 1) 20 0
       match s.bankPlace u.ctx u.team a 1 1 .engine with
       | .error c => some (c, dw a)
       | .ok _ => none)
    else none
  else if (if cls = 0 then copyBad (u.team.role u.group).strips ws else if cls = 2 then gatherBad ws else collectiveBad ws) then
    some (cCommand, 0)
  else
    match (namedOf cls ws).findSome? (fun n => match s.bankPlace u.ctx u.team n.a 1 n.align n.use with
      | .error c => some (c, dw n.a)
      | .ok _ => if 131072 < n.a % 131072 + n.ext then some (n.code, if n.code = cCommand then 0 else dw n.a) else none) with
    | some e => some e
    | none =>
      if cls = 3 && listBad s.dev.no (cScope ws) (s.deviceList u.ctx ws) then some (cCommand, 0)
      else (podsOf cls ws).findSome? fun p =>
        let ea := relocate u.team.apx (wordAt ws p.1)
        if locketOk u.team.keys ea p.2 then none else some (cKey, ea)
/-- What a final `qpush` waits for (R113, R163, R351). -/
def State.pushWait (s : State) (u : UniCtx) (q : Nat) : Option Stall :=
  let cls := classOf q
  if u.group.threads.any fun x => !x.2.stores.isEmpty || !x.2.bankW.isEmpty then some (.writes 1)
  else if 64 ≤ u.group.ops then some (.queueRoom cls)
  else if q ≠ 1 ∧ 64 ≤ ((s.cluster (clusterOf u.core)).cmds.filter fun c => c.cls == cls).length then some (.queueRoom cls)
  else none
/-- The arming that a copy after mark `m` waits for: the most recent, unless it has posted (R326). -/
def Group.armingOf (g : Group) (m : Nat) : Option Nat :=
  match g.arms.reverse.find? (fun a => dbits a.w0 15 0 == m) with
  | some a => some a.serial
  | none => match g.marks.reverse.find? (fun k => k.m == m) with
    | some k => if k.posted then none else some k.serial
    | none => none
/-- A command of class `cls` enters its engine's queue (R351, R47, R345). -/
def State.queueCmd (s : State) (u : UniCtx) (cls : Nat) (ws : List DWord) : State :=
  let n := s.newId
  let pod := fun k => (podsOf cls ws).any fun p => p.1 == k
  let at_ := fun k => if pod k then relocate u.team.apx (wordAt ws k) else wordAt ws k
  let c : Cmd :=
    { id := n.1, cls := cls, ctx := u.ctx, grp := u.grp, core := u.core, part := u.team.part, dom := u.team.dom
      words := at_ 0 :: at_ 1 :: ws.drop 2
      relocs := (pod 0 && hostForm (wordAt ws 0), pod 1 && hostForm (wordAt ws 1))
      seq := u.group.seqOf cls, n := u.group.issuedOf cls + 1
      sg := if pod 0 then locketGkid u.team.keys (at_ 0) else 0
      dg := if pod 1 then locketGkid u.team.keys (at_ 1) else 0
      after := if cls = 0 && cAfter ws then u.group.armingOf (cMark ws) else none
      mma := u.group.issuedOf 1, started := false, pos := 0, delivered := 0, skip := 0, buf := [], asked := none, wmax := 0, flags := 0
      err := 0, finished := false, told := false, list := if cls = 3 then s.deviceList u.ctx ws else [], matched := none, blk := 0
      blkPos := 0, lastN := 62, pins := [] }
  (n.2.modGroup u.ctx u.grp fun g => g.countUp cls).modCluster (clusterOf u.core) fun k => { k with cmds := k.cmds ++ [c] }
/-- The open chain of a group replaced. -/
def State.setChain (s : State) (u : UniCtx) (c : Option (Nat × List DWord)) : State := s.modGroup u.ctx u.grp fun g => { g with chain := c }
/-- QPUSH (R351). -/
def execQpush (e : Bool) (f : GQ) (s : State) : Host.Outcome State Fault Refusal :=
  .next (s.issueUni (.qpush e f) false [f.a.toNat, f.b.toNat] fun u s =>
    let q := f.q.toNat
    let more := [u.group.gr f.a.toNat, u.group.gr f.b.toNat]
    let ws := match u.group.chain with
      | some c => c.2 ++ more
      | none => more
    let other := match u.group.chain with
      | some c => c.1 != q
      | none => false
    if other then .faultIn (s.setChain u none) cCommand 0 0
    else if f.m then .go (s.setChain u (some (q, ws)))
    else match s.cmdFault u q ws with
    | some x => .faultIn (s.setChain u none) x.1 0 x.2
    | none =>
      match s.pushWait u q with
      | some c => .wait s c
      | none =>
        let s := s.setChain u none
        .go (if q = 1 then s.qmxPush u.ctx u.grp (wordAt ws 0) (wordAt ws 1) else s.queueCmd u (classOf q) ws))
/-- QPOP (R352). -/
def execQpop (e : Bool) (d q : BitVec 6) (s : State) : Host.Outcome State Fault Refusal :=
  .next (s.issueUni (.qpop e d q) false [d.toNat] fun u s =>
    .go (s.modGroup u.ctx u.grp fun g => (g.popEntry q.toNat).2.setG d.toNat (g.popEntry q.toNat).1))

/-! ## Commands at work -/

/-- A command of a cluster, by its number. -/
def State.cmd? (s : State) (id : Nat) : Option (Nat × Cmd) :=
  s.clusters.findSome? fun k => (k.2.cmds.find? fun c => c.id == id).map fun c => (k.1, c)
/-- A command of a cluster changed. -/
def State.modCmd (s : State) (cl id : Nat) (f : Cmd → Cmd) : State :=
  s.modCluster cl fun k => { k with cmds := k.cmds.map fun c => if c.id = id then f c else c }
/-- The event by which a command goes on. -/
def Cmd.event (c : Cmd) : Event :=
  if c.cls = 0 then
    match cConv c.words with
    | 0 => .copyPlain c.id
    | 1 => .copyStrided c.id
    | 2 => .copyTaggedPack c.id
    | 3 => .copyTaggedUnpack c.id
    | _ => .copyStripDrain c.id
  else if c.cls = 2 then .gather c.id
  else match lOp c.words with
  | 0 => .reduceScatter c.id
  | 1 => .allGather c.id
  | _ => .allReduce c.id
/-- The strips that a drain reads (R355). -/
def drainStrips (ws : List DWord) : List Nat := (List.range (cRows ws)).map fun k => dbits (wordAt ws 0) 8 0 + k
/-- A command may start: those of its group and class before it have started, its mark has posted, the operations that write its strips
have completed, its partners have posted (R326, R355, R356, R359). -/
def State.cmdStarts (s : State) (cl : Nat) (c : Cmd) : Bool :=
  let earlier := (s.cluster cl).cmds.any fun d => d.ctx == c.ctx && d.grp == c.grp && d.cls == c.cls && decide (d.n < c.n) && !d.started
  let marked := match c.after, s.group? c.ctx c.grp with
    | some k, some g => (g.arms.any fun a => a.serial == k) || g.marks.any fun m => m.serial == k && !m.posted
    | _, _ => false
  let drains := c.cls == 0 && cConv c.words == 4 &&
    (s.core c.core).mq.any fun o => o.ctx == c.ctx && o.grp == c.grp && decide (o.n ≤ c.mma) &&
      (drainStrips c.words).any fun k => o.strips.contains k
  !earlier && !marked && !drains && (c.cls != 3 || c.matched.isSome)
/-- A matched give waits for what names a slot, with these pins, of a team (R82, R373). -/
def Cluster.givePending (k : Cluster) (ctx : Nat) (slots : List Nat) (pins : List (Nat × Nat)) : Bool :=
  k.gives.any fun g => g.ctx == ctx && g.dst.isSome && !g.complete && slots.contains g.slot && pinFits pins g.slot g.bank
/-- The team of a command lets it go on: it stays, or the command is a collective, or a matched give drains it or one that follows it in
its class (R373, R374). -/
def State.cmdMayRun (s : State) (cl : Nat) (c : Cmd) : Bool :=
  match s.team? c.ctx with
  | some t => t.leaving == .no || c.cls == 3 ||
    (s.cluster cl).cmds.any fun d =>
      d.ctx == c.ctx && d.grp == c.grp && d.cls == c.cls && decide (c.n ≤ d.n) && (s.cluster cl).givePending d.ctx d.slots d.pins
  | none => false
/-- A command can make its next move: nothing of it is under way. -/
def State.cmdReady (s : State) (cl : Nat) (c : Cmd) : Bool :=
  !c.finished && s.cmdMayRun cl c && c.asked.isNone && !((s.cluster cl).writes.any fun w => w.engine == some c.id) && (c.started || s.cmdStarts cl c)

/-- What one write of a command takes and gives: where it goes, the source bytes it needs, and what becomes of them: an ERR, or bytes
and flags. -/
structure Piece where
  off : Nat
  src : Nat
  len : Nat
  make : List Byte → Except Nat (List Byte × Flags)

/-- Bytes that one write may deliver at destination offset `off`: none crosses a boundary of 64 (R356). -/
def Cmd.roomAt (c : Cmd) (off : Nat) : Nat := 64 - ((wordAt c.words 1).toNat + off) % 64
/-- A source taken as read. -/
def plainPiece (off src len : Nat) : Piece := ⟨off, src, len, fun b => .ok (b, 0#5)⟩
/-- An element of a tagged block in its bits (R221). -/
def payload (f : Nat) (es : List Int) : List Byte :=
  if f = 2 then (List.range 62).map fun k => BitVec.ofNat 8 (umod 4 (es.getD (2 * k) 0) + 16 * umod 4 (es.getD (2 * k + 1) 0))
  else if f = 3 then es.flatMap fun e => toBytes 2 (umod 16 e)
  else es.map fun e => BitVec.ofNat 8 (umod 8 e)
/-- F32 values packed into one block (R219, R220). -/
def packBlock (f : Nat) (scale : Byte) (xs : List Nat) : List Byte × Flags :=
  let hi : Int := 2 ^ (elBits f - 1) - 1
  let rs := xs.map fun x => quantise .rne x (sint 8 scale.toNat) (-hi - 1) hi
  (BitVec.ofNat 8 f :: scale :: payload f (rs.map fun r => r.1), rs.foldl (fun a r => a ||| r.2) 0#5)
/-- Bytes as 32-bit words. -/
def wordsOf (bs : List Byte) : List Nat := (List.range (bs.length / 4)).map fun k => ofBytes ((bs.drop (4 * k)).take 4)
/-- The element count of a block in an unpack: a zero block takes that of the block before it (R355). -/
def blockN (last : Nat) (h : Byte) : Nat := if h = 0xFF#8 then last else nEl h.toNat
/-- A tagged block as F32 values (R355); none: another code of R221. -/
def unpackBlock (last : Nat) (bs : List Byte) : Option (List Byte × Flags) :=
  let h := bs.getD 0 0
  if h = 0xFF#8 then some (List.replicate (4 * last) 0, 0#5)
  else if h.toNat = 1 ∨ h.toNat = 2 ∨ h.toNat = 3 then
    let rs := (blockEls h.toNat bs).map fun e => roundInt F32 .rne false e (sint 8 (bs.getD 1 0).toNat)
    some (rs.flatMap fun r => toBytes 4 r.1, rs.foldl (fun a r => a ||| r.2) 0#5)
  else none
/-- A strip's row in a drain's form (R355). -/
def drainBytes (fmt : Nat) (scale : Byte) (xs : List Nat) : List Byte × Flags :=
  if fmt = 0 then (xs.flatMap fun x => toBytes 4 x, 0#5)
  else if fmt = 3 then
    let b := fun (k n : Nat) =>
      let r := packBlock 1 scale ((xs.drop k).take n)
      (r.1 ++ List.replicate (62 - n) 0, r.2)
    ((b 0 62).1 ++ (b 62 62).1 ++ (b 124 4).1, (b 0 62).2 ||| (b 62 62).2 ||| (b 124 4).2)
  else
    let rs := xs.map fun x => fToF F32 (if fmt = 1 then BF16 else F16) FEnv.plain false x
    (rs.flatMap fun r => toBytes 2 r.1, rs.foldl (fun a r => a ||| r.2) 0#5)
/-- F32 values added one after another (R359). -/
def sumF32 (xs : List Nat) : Nat :=
  match xs with
  | [] => 0
  | x :: t => t.foldl (fun a y => (fAdd F32 FEnv.plain a y).1) x
/-- An element that a collective's sum delivers: its bits and the flags of its conversion. -/
def sumEl (size : Nat) (xs : List Nat) : Nat × Flags :=
  if size = 4 then (sumF32 xs, 0#5) else fToF F32 BF16 FEnv.plain false (sumF32 (xs.map fun x => x * 65536))
/-- The operands of the devices at one element, this device's own being `own` (R359). -/
def operandsAt (ps : List (List (BitVec 32))) (i own : Nat) : List Nat :=
  if ps.any fun p => p.isEmpty then ps.map fun p => if p.isEmpty then own else (p.getD i 0).toNat
  else ps.map (fun p => (p.getD i 0).toNat) ++ [own]

/-- A copy's next piece; none: all has been delivered (R355, R356). -/
def State.copyPiece (s : State) (c : Cmd) : Option Piece :=
  let ws := c.words
  match cConv ws with
  | 2 =>
    let n := nEl (cFmt ws)
    let i := c.pos / 64
    if cRlen ws / (4 * n) ≤ i then none
    else
      let sc := (s.cmdBytes c.ctx c.pins (cScale ws + i) 1).getD 0 0
      some ⟨64 * i, 4 * n * i, 4 * n, fun b => .ok (packBlock (cFmt ws) sc (wordsOf b))⟩
  | 3 =>
    if cRlen ws / 64 ≤ c.blk then none
    else some ⟨c.pos, 64 * c.blk, 64, fun b => match unpackBlock c.lastN b with
      | none => .error 1
      | some r =>
        let w := c.pos - c.blkPos
        .ok ((r.1.drop w).take (min (c.roomAt c.pos) (r.1.length - w)), r.2)⟩
  | 4 =>
    let len := drainRow (cFmt ws)
    let i := c.pos / len
    let w := c.pos % len
    let off := i * cDpitch ws + w
    if 8 * cRows ws ≤ i then none
    else
      let strip := dbits (wordAt ws 0) 8 0 + i / 8
      let xs := (List.range 128).map fun k => match s.group? c.ctx c.grp with
        | some g => (g.strips.getD (strip * 1024 + i % 8 * 128 + k) 0).toNat
        | none => 0
      let sc := if cFmt ws = 3 then (s.cmdBytes c.ctx c.pins (cScale ws + i) 1).getD 0 0 else 0
      let r := drainBytes (cFmt ws) sc xs
      some ⟨off, 0, 0, fun _ => .ok ((r.1.drop w).take (min (c.roomAt off) (len - w)), r.2)⟩
  | _ =>
    let len := cRlen ws
    let i := c.pos / len
    let w := c.pos % len
    let off := i * cDpitch ws + w
    if cRows ws ≤ i then none else some (plainPiece off (i * cSpitch ws + w) (min (c.roomAt off) (len - w)))
/-- A gather's next piece (R357). -/
def State.gatherPiece (s : State) (c : Cmd) : Option Piece :=
  let ws := c.words
  let len := gRlen ws
  let i := c.pos / len
  let w := c.pos % len
  if gCount ws ≤ i then none
  else
    let idx := ofBytes (s.cmdBytes c.ctx c.pins (dbits (wordAt ws 1) 63 32 + 4 * i) 4)
    some (plainPiece c.pos (idx * dbits (wordAt ws 3) 63 32 + w) (min (c.roomAt c.pos) (len - w)))
/-- A collective's next piece (R359). -/
def Cmd.collectivePiece (c : Cmd) (dev : Nat) : Option Piece :=
  let ws := c.words
  let es := lSize ws
  let p := c.list.idxOf dev
  let ps := c.matched.getD []
  if lTotal ws * es ≤ c.pos then none
  else
    let n := min (c.roomAt c.pos) (lTotal ws * es - c.pos)
    let e0 := c.pos / es
    let e1 := (c.pos + n - 1) / es + 1
    let cut := fun (bs : List Byte) => (bs.drop (c.pos - e0 * es)).take n
    let els := (List.range (e1 - e0)).map fun k => e0 + k
    if lOp ws = 1 then
      let lo := max e0 (p * lCount ws)
      let hi := min e1 ((p + 1) * lCount ws)
      some ⟨c.pos, (lo - p * lCount ws) * es, (hi - lo) * es, fun b =>
        .ok (cut (els.flatMap fun e =>
          if lo ≤ e ∧ e < hi then (b.drop ((e - lo) * es)).take es
          else toBytes es ((ps.getD (e / lCount ws) []).getD (e % lCount ws) 0).toNat), 0#5)⟩
    else
      let first := if lOp ws = 0 then p * lCount ws + e0 else e0
      some ⟨c.pos, first * es, (e1 - e0) * es, fun b =>
        let rs := els.map fun e => sumEl es (operandsAt ps e (ofBytes ((b.drop ((e - e0) * es)).take es)))
        .ok (cut (rs.flatMap fun r => toBytes es r.1), rs.foldl (fun a r => a ||| r.2) 0#5)⟩
/-- A command's next piece. -/
def State.piece (s : State) (c : Cmd) : Option Piece :=
  if c.cls = 0 then s.copyPiece c else if c.cls = 2 then s.gatherPiece c else c.collectivePiece s.dev.no

/-- The source of a command is a bank. -/
def Cmd.fromBank (c : Cmd) : Bool := c.cls == 0 && cSrcb c.words
/-- The destination of a command is a bank. -/
def Cmd.toBank (c : Cmd) : Bool := c.cls == 2 || (c.cls == 0 && cDstb c.words)
/-- A command ends with an error; what it has delivered stays (R353). -/
def State.stopCmd (s : State) (cl id err : Nat) : State :=
  s.modCmd cl id fun c => { c with err := err, finished := true, asked := none }
/-- `n` destination bytes are behind a command. -/
def Cmd.pass (c : Cmd) (n : Nat) : Cmd :=
  if c.cls = 0 ∧ cConv c.words = 3 then
    let k := blockN c.lastN (c.buf.getD 0 0)
    if 4 * k ≤ c.pos + n - c.blkPos then
      { c with pos := c.pos + n, blk := c.blk + 1, blkPos := c.pos + n, lastN := k, buf := [] }
    else { c with pos := c.pos + n }
  else { c with pos := c.pos + n, buf := [] }
/-- Delivered bytes are counted on the command's sync word, whose team takes the horizon of a global write (R91, R115). -/
def State.syncCount (s : State) (c : Cmd) (n w : Nat) : State :=
  if !cSyncen c.words then s
  else
    let a := cSync c.words
    match s.team? c.ctx, s.slotBank c.ctx c.pins (slotOf a) with
    | some t, some b =>
      (s.syncAdd (clusterOf t.core) b (a % 131072) n).modTeam c.ctx fun t =>
        { t with hs := max t.hs w, hw := if 2 ≤ cScope c.words ∧ w ≠ 0 then max t.hw (w + delta (cScope c.words)) else t.hw }
    | _, _ => s
/-- A write of a command has been delivered: `n` bytes, with W for a global write (R91, R114). -/
def State.landed (s : State) (cl id n w : Nat) : State :=
  match s.cmd? id with
  | none => s
  | some (_, c) =>
    (s.modCmd cl id fun c => { c.pass n with delivered := c.delivered + n, wmax := max c.wmax w, asked := none }).syncCount c n w
/-- A request of a command at its coherence point (R113). -/
def State.cmdReq (s : State) (c : Cmd) (t : Team) (p : DWord) (gkid : BitVec 16) (host : Bool) (id n : Nat) : Req :=
  { reqAt (reqOf s.dev.no t c.ctx c.core (.engine c.id) 0 0) t p host with
    id := id, gkid := gkid, part := c.part, dom := c.dom, size := n, scope := BitVec.ofNat 3 (cScope c.words) }
/-- A request of a command leaves: a collective's for the home, through no slice (R119), another's for the slice of its line, under a
permit of the command's core. -/
def State.cmdSend (s : State) (c : Cmd) (r : Req) : State :=
  if c.cls = 3 then s.toHome { r with direct := true } else s.toSlice r none
/-- A command's write sets out (R88, R113, R356). -/
def State.cmdWrite (s : State) (cl : Nat) (c : Cmd) (t : Team) (off : Nat) (bs : List Byte) : State :=
  let n := s.newId
  let data := BitVec.ofNat 512 (ofBytes bs)
  let a := dbits (wordAt c.words 1) 31 0
  if c.toBank then
    let o := a % 131072 + off
    if 131072 < o + bs.length then s.stopCmd cl c.id 4
    else if c.cls = 0 ∧ bitN a 27 = true then
      match s.remoteTeam c.ctx t (bits a 25 24) with
      | some (k, r) =>
        (n.2.modCluster cl fun k2 => { k2 with
          writes := k2.writes ++ [⟨n.1, none, some c.id, cl, (r.slot (slotOf a)).bank, o, bs.length, data, some (k, slotOf a)⟩] }).post
            (.copyWriteRetire c.id)
      | none => s.landed cl c.id bs.length 0
    else
      match s.slotBank c.ctx c.pins (slotOf a) with
      | some b =>
        (n.2.modCluster cl fun k2 => { k2 with
          writes := k2.writes ++ [⟨n.1, none, some c.id, cl, b, o, bs.length, data, none⟩] }).post (.copyWriteRetire c.id)
      | none => s.landed cl c.id bs.length 0
  else
    let p := ptrAdd (wordAt c.words 1) off
    let r := s.cmdReq c t p c.dg c.relocs.2 n.1 bs.length
    (n.2.modCmd cl c.id fun c => { c with asked := some n.1 }).cmdSend c { r with acc := .store, data := data, excl := true }
/-- A command makes its next move: it reads a piece of its source, or delivers one write of at most 64 bytes (R356). -/
def State.cmdStep (s : State) (cl : Nat) (c : Cmd) (t : Team) : State :=
  let s := s.modCmd cl c.id fun c => { c with started := true }
  match s.piece c with
  | none => s.modCmd cl c.id fun c => { c with finished := true }
  | some p =>
    if c.buf.length < p.len ∧ c.fromBank = false then
      let a := ptrAdd (wordAt c.words 0) (p.src + c.buf.length)
      let k := min (p.len - c.buf.length) (64 - vaOf a % 64)
      let n := s.newId
      (n.2.modCmd cl c.id fun c => { c with asked := some n.1 }).cmdSend c (s.cmdReq c t a c.sg c.relocs.1 n.1 k)
    else
      let b := if c.buf.length < p.len then s.cmdBytes c.ctx c.pins (dbits (wordAt c.words 0) 31 0 + p.src) p.len else c.buf
      let s := s.modCmd cl c.id fun c => { c with buf := b }
      match p.make b with
      | .error e => s.stopCmd cl c.id e
      | .ok (bs, fl) =>
        let s := s.modCmd cl c.id fun c => { c with flags := c.flags ||| fl }
        if c.pos + bs.length ≤ c.skip then s.modCmd cl c.id fun c => c.pass bs.length
        else s.cmdWrite cl c t p.off bs
/-- The next move of a command is a write (R389). -/
def State.cmdWrites (s : State) (c : Cmd) : Bool :=
  match s.piece c with
  | some p => !(decide (c.buf.length < p.len) && !c.fromBank) && decide (c.skip ≤ c.pos)
  | none => false
/-- The words of banks that the next move of a command reads: of its source, an index of a gather, the scale of a block packed (R389). -/
def State.cmdBankWords (s : State) (c : Cmd) : Nat :=
  match s.piece c with
  | some p => (if c.fromBank && decide (c.buf.length < p.len) then words4 p.len else 0) +
      if c.cls == 2 || (c.cls == 0 && (cConv c.words == 2 || (cConv c.words == 4 && cFmt c.words == 3))) then 1 else 0
  | none => 0
/-- The event of a command takes place. -/
def State.cmdMove (s : State) (id : Nat) (e : Event) : State :=
  match s.cmd? id with
  | none => s
  | some (cl, c) =>
    match s.team? c.ctx with
    | none => s
    | some t => if c.event = e ∧ s.cmdReady cl c = true then s.cmdStep cl c t else s

/-- COPY_PLAIN (R355). -/
def execCopyPlain (id : Nat) (s : State) : Host.Outcome State Fault Refusal := .next (s.cmdMove id (.copyPlain id))
/-- COPY_STRIDED (R355). -/
def execCopyStrided (id : Nat) (s : State) : Host.Outcome State Fault Refusal := .next (s.cmdMove id (.copyStrided id))
/-- COPY_TAGGED_PACK (R355). -/
def execCopyTaggedPack (id : Nat) (s : State) : Host.Outcome State Fault Refusal := .next (s.cmdMove id (.copyTaggedPack id))
/-- COPY_TAGGED_UNPACK (R355). -/
def execCopyTaggedUnpack (id : Nat) (s : State) : Host.Outcome State Fault Refusal := .next (s.cmdMove id (.copyTaggedUnpack id))
/-- COPY_STRIP_DRAIN (R355). -/
def execCopyStripDrain (id : Nat) (s : State) : Host.Outcome State Fault Refusal := .next (s.cmdMove id (.copyStripDrain id))
/-- GATHER (R357). -/
def execGather (id : Nat) (s : State) : Host.Outcome State Fault Refusal := .next (s.cmdMove id (.gather id))
/-- REDUCE_SCATTER (R359). -/
def execReduceScatter (id : Nat) (s : State) : Host.Outcome State Fault Refusal := .next (s.cmdMove id (.reduceScatter id))
/-- ALL_GATHER (R359). -/
def execAllGather (id : Nat) (s : State) : Host.Outcome State Fault Refusal := .next (s.cmdMove id (.allGather id))
/-- ALL_REDUCE (R359). -/
def execAllReduce (id : Nat) (s : State) : Host.Outcome State Fault Refusal := .next (s.cmdMove id (.allReduce id))
/-- TAG of a collective. -/
def lTag (ws : List DWord) : Word := wd (dbits (wordAt ws 3) 63 32)
/-- Commands matched by `k` are matched with one of this device: domain, TAG and device list are the same (R359). -/
def Cmd.meets (c : Cmd) (k : CollTag) : Bool := k.dom == c.dom && k.tag == lTag c.words && k.list == c.list
/-- A matched command has the same OP, TYPE, COUNT and NDEV (R359). -/
def Cmd.agrees (c : Cmd) (p : Peer) : Bool :=
  p.op.toNat == lOp c.words && p.bf16 == dbit (wordAt c.words 2) 61 && p.count == lCount c.words && p.ndev == lNdev c.words
/-- The operands of matched devices as the combining takes them (R110, R359): for sums in the order in which they arrived, for an
all-gather in the order of the list; an empty list stands for this device's own. -/
def Cmd.operands (c : Cmd) (dev : Nat) (ps : List Peer) : List (List (BitVec 32)) :=
  let own := fun (p : Peer) => if p.dev = dev then [] else p.vals
  if lOp c.words = 1 then c.list.map fun d => match ps.find? (fun p => p.dev == d) with
    | some p => own p
    | none => []
  else ps.map own
/-- COLLECTIVE_MATCH (R359): `peers` are the commands that the devices of the pod have posted under one domain, TAG and device list, in the
order in which their operands arrive. Once every device of the list has posted one that this command is matched with, it runs, or ends
with ERR 3 where they do not agree. -/
def execCollectiveMatch (id : Nat) (tag : CollTag) (peers : List Peer) (s : State) : Host.Outcome State Fault Refusal :=
  match s.cmd? id with
  | none => .next s
  | some (cl, c) =>
    let leaves : Bool := match s.team? c.ctx with
      | some t => t.leaving != .no
      | none => true
    let ps := peers.filter fun p => c.list.contains p.dev
    let posted : Bool := c.list.all fun d => d == s.dev.no || ps.any fun p => p.dev == d
    if c.meets tag = false ∨ c.cls ≠ 3 ∨ c.matched.isSome = true ∨ c.finished = true ∨ leaves = true ∨ posted = false then .next s
    else if ps.all fun p => p.dev == s.dev.no || c.agrees p then .next (s.modCmd cl id fun c => { c with matched := some (c.operands s.dev.no ps) })
    else .next (s.stopCmd cl id 3)
/-- COPY_WRITE_RETIRE (R91, R356): a bank write of a command lands and is counted. -/
def execCopyWriteRetire (id : Nat) (s : State) : Host.Outcome State Fault Refusal :=
  match s.clusters.findSome? (fun k => (k.2.writes.find? fun w => w.engine == some id).map fun w => (k.1, w)) with
  | none => .next s
  | some (cl, w) =>
    .next (((s.landWrite w).modCluster cl fun k => { k with writes := k.writes.erase w }).landed cl id w.size 0)

/-! ## Replies to a command's requests -/

/-- The data of a request of a command arrives. -/
def State.cmdData (s : State) (id : Nat) (r : Req) (g : Grant) : State :=
  match s.cmd? id with
  | none => s
  | some (cl, c) =>
    if c.asked ≠ some r.id then s
    else s.modCmd cl id fun c => { c with asked := none, buf := c.buf ++ toBytes r.size (lineGet g.data (r.va.toNat % 64) r.size) }
/-- A global write of a command is accepted: the pair cache of its core drops the line, and the write counts (R91, R113). -/
def State.cmdAccepted (s : State) (id : Nat) (r : Req) (w : Nat) : State :=
  match s.cmd? id with
  | none => s
  | some (cl, c) =>
    if c.asked ≠ some r.id then s
    else (s.modPair (c.core / 2) fun xs => xs.filter fun x => x.line != reqLine r).landed cl id r.size w
/-- A request of a command has been cancelled, or its region is not active (R353). -/
def State.cmdRefused (s : State) (id : Nat) (r : Req) : State :=
  match s.cmd? id with
  | none => s
  | some (cl, c) => if c.asked ≠ some r.id then s else s.stopCmd cl id 2

/-! ## Completion (R114, R352, R353) -/

/-- The queue of a class. -/
def queueOf (cls : Nat) : Nat := if cls = 0 then 2 else if cls = 2 then 3 else 4
/-- The entry of a finished command, if it posts one. -/
def Cmd.entry (c : Cmd) : Option DWord :=
  if c.err ≠ 0 then some (dw (3 * 2 ^ 56 + c.err * 2 ^ 48 + c.seq * 2 ^ 32 + c.delivered % 2 ^ 32))
  else if cNotify c.words then some (dw (2 ^ 56 + c.seq * 2 ^ 32 + c.flags.toNat))
  else none
/-- The command stands first of its group and class in its cluster. -/
def Cluster.firstCmd (k : Cluster) (c : Cmd) : Bool :=
  !(k.cmds.any fun d => d.ctx == c.ctx && d.grp == c.grp && d.cls == c.cls && decide (d.n < c.n))
/-- Its entry waits for room. -/
def Cmd.waitsRoom (c : Cmd) (g : Group) : Bool :=
  c.told && match c.entry with
  | some e => g.overflow.contains (queueOf c.cls, e)
  | none => false
/-- The commands of a cluster whose completion stands next. -/
def State.cmdEnding (s : State) (k : Cluster) : List Cmd :=
  k.cmds.filter fun c => c.finished && k.firstCmd c && match s.group? c.ctx c.grp with
    | some g => !c.waitsRoom g
    | none => true
/-- ENGINE_COMMAND_COMPLETE (R114, R353): in issue order of the group and class; one whose entry finds its queue full waits. -/
def execEngineCommandComplete (id : Nat) (s : State) : Host.Outcome State Fault Refusal :=
  match s.cmd? id with
  | none => .next s
  | some (cl, c) =>
    if !c.finished || !(s.cluster cl).firstCmd c then .next s
    else
      let s := if c.told then s
        else (s.modCmd cl id fun c => { c with told := true }).modGroup c.ctx c.grp fun g => match c.entry with
          | some e => g.postEntry (queueOf c.cls) e
          | none => g
      let waits := match c.entry, s.group? c.ctx c.grp with
        | some e, some g => g.overflow.contains (queueOf c.cls, e)
        | _, _ => false
      if waits then .next s
      else
        .next ((s.modGroup c.ctx c.grp fun g =>
          { g.countDown c.cls with
            done := g.done ++ [⟨c.cls, c.n, c.wmax, cScope c.words⟩]
            errs := if c.err = 0 then g.errs else g.errs ++ [⟨c.cls, c.n, c.entry.getD 0, []⟩] }).modCluster cl fun k =>
          { k with cmds := k.cmds.filter fun d => d.id != id })

end Sys2Proof.Machine
end

