-- ==== Sys2Proof/Machine/Net.lean ====
section
/-! DEFINITION. The scale-out network: work posted to queue pairs, messages sent, arrived and acknowledged (R399, R400). -/

namespace Sys2Proof.Machine

/-- The key of a queue pair: 64 to a function (R399). -/
def qpNo (fn qp : Nat) : Nat := fn * 64 + qp
/-- A function and a queue pair that exist: virtual functions 1 to 64 (R392, R399). -/
def qpOk (fn qp : Nat) : Bool := decide (1 ≤ fn) && decide (fn ≤ 64) && decide (qp < 64)
/-- The agent that the network block is for a function (R119). -/
def netAgent (fn : Nat) : Nat := 384 + fn
/-- A queue pair. -/
def State.qp (s : State) (fn qp : Nat) : QueuePair := s.dev.qps.getD (qpNo fn qp) {}
/-- A queue pair changed. -/
def State.modQp (s : State) (fn qp : Nat) (f : QueuePair → QueuePair) : State :=
  s.modDev fun d => { d with qps := d.qps.put (qpNo fn qp) (f (s.qp fn qp)) }
/-- A completion. -/
def State.netDone (s : State) (fn qp : Nat) (d : NetDone) : State := s.out (.netDone fn qp d)
/-- A queue pair enters error, with its completion. -/
def State.netError (s : State) (fn qp : Nat) (d : NetDone) : State :=
  (s.modQp fn qp fun q => { q with error := true }).netDone fn qp d
/-- A request of a queue pair at its buffer (R399): line after line, at the home directly. -/
def State.netReq (s : State) (fn qp : Nat) (w : NetWork) (id off n : Nat) : Req where
  id := id
  client := .net fn qp
  acc := .load
  va := BitVec.ofNat 60 (vaOf w.ptr + off)
  kidx := BitVec.ofNat 4 (kidxOf w.ptr)
  gkid := w.gkid
  dom := w.dom
  part := fn - 1
  own := false
  reloc := w.host
  dev := s.dev.no
  die := s.seat (netAgent fn)
  core := 0
  ctx := 0
  pc := 0
  next := 0
  size := n
  data := 0
  cmp := 0
  tag := 0
  dst := 0
  szc := 0
  look := 0
  order := 0
  scope := 0
  excl := false
  upg := false
  direct := true
  mask := BitVec.allOnes 64
/-- Bytes of a message from `off` on that one request covers. -/
def NetWork.chunk (w : NetWork) (off : Nat) : Nat := min (w.len - off) (64 - (vaOf w.ptr + off) % 64)

/-- The first send of a queue pair that has not gone out moves: a piece of its buffer is read, or it goes out (R399). -/
def State.netPush (s : State) (fn qp : Nat) : State :=
  let q := s.qp fn qp
  match q.sends.find? (fun w => !w.sent) with
  | none => s
  | some w =>
    if q.error || w.asked.isSome then s
    else if w.got.length < w.len then
      let n := s.newId
      let r := s.netReq fn qp w n.1 w.got.length (w.chunk w.got.length)
      (n.2.modQp fn qp fun q => { q with sends := q.sends.map fun x => if x.psn = w.psn then { x with asked := some n.1 } else x }).toHome r
    else
      (s.modQp fn qp fun q => { q with sends := q.sends.map fun x => if x.psn = w.psn then { x with sent := true } else x }).out
        (.netSend fn qp w.psn w.len w.got w.imm)
/-- The oldest arrived message of a queue pair moves: a piece is written to its buffer, or its receive completes (R400). -/
def State.netPlace (s : State) (fn qp : Nat) : State :=
  let q := s.qp fn qp
  match q.pending with
  | [] => s
  | w :: t =>
    if q.error || w.asked.isSome then s
    else if w.pos < w.got.length then
      let n := s.newId
      let k := min (w.got.length - w.pos) (w.chunk w.pos)
      let r := { s.netReq fn qp w n.1 w.pos k with
        acc := .store, excl := true, data := BitVec.ofNat 512 (ofBytes ((w.got.drop w.pos).take k)) }
      (n.2.modQp fn qp fun q => { q with pending := { w with asked := some n.1 } :: t }).toHome r
    else
      (((s.modQp fn qp fun q => { q with pending := t }).netDone fn qp (.received w.got.length w.imm)).out (.netAck fn qp w.psn))

/-- Work as posted: the pointer relocated into the domain's aperture, its right in the key set's 64 bytes checked (R399, R43, R44); none:
the check fails. -/
def State.netWork (s : State) (fn : Nat) (q : QueuePair) (ks : List Byte) (w : NetPost) : Option NetWork :=
  let p := relocate (BitVec.ofNat 13 (s.aptAt (s.seat (netAgent fn)) q.dom.toNat).toNat) w.ptr
  let keys := (List.range 16).map fun k => wd (ofBytes ((ks.drop (4 * k)).take 4))
  if locketOk keys p (if w.recv then 1 else 0) then
    some ⟨p, hostForm w.ptr, w.len, locketGkid keys p, q.dom, w.imm, if w.recv then 0 else q.psn, [], 0, none, false, 0⟩
  else none
/-- Packets of a message (R399): an MTU of 4,096 bytes. -/
def packets (len : Nat) : Nat := max 1 ((len + 4095) / 4096)
/-- Posted work enters its queue, once it has passed the check. -/
def State.netTake (s : State) (fn qp : Nat) (recv : Bool) (w : NetWork) : State :=
  if recv then s.modQp fn qp fun q => { q with recvs := q.recvs ++ [w] }
  else (s.modQp fn qp fun q => { q with sends := q.sends ++ [w], psn := (q.psn + packets w.len) % 2 ^ 24 }).netPush fn qp
/-- Work handed to a queue pair is checked against its key set in order, as far as the key set can be had (R399): work whose check fails, or
whose key set cannot be read, is dropped. -/
def State.netPosts (s : State) (fuel fn qp : Nat) : State :=
  match fuel with
  | 0 => s
  | k + 1 =>
    let q := s.qp fn qp
    match q.posts with
    | [] => s
    | w :: t =>
      let rest := s.modQp fn qp fun q => { q with posts := t }
      if q.error || s.podFails (netAgent fn) 2 (vaOf q.kset) 64 then State.netPosts rest k fn qp
      else match s.podRead (netAgent fn) 2 (vaOf q.kset) 64 with
      | none => s.podAsk (fn - 1) (netAgent fn) 2 (vaOf q.kset) 64
      | some ks =>
        let rest := rest.podTaken (netAgent fn) (vaOf q.kset) 64
        match s.netWork fn q ks w with
        | none => State.netPosts rest k fn qp
        | some x => State.netPosts (rest.netTake fn qp w.recv x) k fn qp
/-- Work handed to a queue pair. -/
def State.netPost (s : State) (fn qp : Nat) (w : NetPost) : State :=
  if (s.qp fn qp).error then s
  else (s.modQp fn qp fun q => { q with posts := q.posts ++ [w] }).netPosts ((s.qp fn qp).posts.length + 1) fn qp
/-- The key sets that the network block has asked for as a function are at hand (R119, R399). -/
def State.netGoesOn (s : State) (fn : Nat) : State :=
  (List.range 64).foldl (fun s qp => s.netPosts (s.qp fn qp).posts.length fn qp) s

/-- POST_SEND (R399). -/
def execPostSend (fn qp : Nat) (ptr : DWord) (len : Nat) (imm : Option Word) (s : State) : Host.Outcome State Fault Refusal :=
  if !qpOk fn qp then .fault .noSuchUnit else .next (s.netPost fn qp ⟨false, ptr, len, imm⟩)
/-- POST_RECEIVE (R399). -/
def execPostReceive (fn qp : Nat) (ptr : DWord) (len : Nat) (s : State) : Host.Outcome State Fault Refusal :=
  if !qpOk fn qp then .fault .noSuchUnit else .next (s.netPost fn qp ⟨true, ptr, len, none⟩)
/-- RDMA_SEND_ARRIVAL (R400): a send meets the oldest posted receive. -/
def execRdmaSendArrival (fn qp psn : Nat) (data : List Byte) (imm : Option Word) (s : State) : Host.Outcome State Fault Refusal :=
  if !qpOk fn qp then .fault .noSuchUnit
  else
    let q := s.qp fn qp
    if q.error then .next (s.out (.netNak fn qp psn 2))
    else match q.recvs with
    | [] => .next (s.out (.netNak fn qp psn 0))
    | w :: t =>
      if w.len < data.length then
        .next (((s.modQp fn qp fun q => { q with recvs := t }).netError fn qp .remoteAccessViolation).out (.netNak fn qp psn 2))
      else
        .next ((s.modQp fn qp fun q =>
          { q with recvs := t, pending := q.pending ++ [{ w with got := data, imm := imm, psn := psn }] }).netPlace fn qp)
/-- RDMA_REQUEST_ARRIVAL (R399): a remote-access NAK. -/
def execRdmaRequestArrival (fn qp psn : Nat) (s : State) : Host.Outcome State Fault Refusal :=
  if !qpOk fn qp then .fault .noSuchUnit else .next (s.out (.netNak fn qp psn 1))
/-- RNR_NAK (R400): the send is sent again under the RNR count, or ends with an RNR error. -/
def execRnrNak (fn qp psn : Nat) (s : State) : Host.Outcome State Fault Refusal :=
  if !qpOk fn qp then .fault .noSuchUnit
  else
    let q := s.qp fn qp
    match q.sends.find? (fun w => w.sent && w.psn == psn) with
    | none => .next s
    | some w =>
      if w.tries < q.rnr then
        .next ((s.modQp fn qp fun q =>
          { q with sends := q.sends.map fun x => if x.psn = psn then { x with tries := x.tries + 1 } else x }).out
            (.netSend fn qp w.psn w.len w.got w.imm))
      else .next ((s.modQp fn qp fun q => { q with sends := q.sends.filter fun x => x.psn != psn }).netDone fn qp .rnrError)
/-- TRANSPORT_ACK_ARRIVAL (R400): a send completes, or ends with a remote access error and the queue pair enters error. -/
def execTransportAckArrival (fn qp psn : Nat) (ok : Bool) (s : State) : Host.Outcome State Fault Refusal :=
  if !qpOk fn qp then .fault .noSuchUnit
  else
    if ((s.qp fn qp).sends.any fun w => w.sent && w.psn == psn) then
      let s := s.modQp fn qp fun q => { q with sends := q.sends.filter fun x => x.psn != psn }
      .next (if ok then s.netDone fn qp .sent else s.netError fn qp .remoteAccessError)
    else .next s

/-! ## Replies to a queue pair's requests -/

/-- The data of a send's buffer arrives. -/
def State.netData (s : State) (fn qp : Nat) (r : Req) (g : Grant) : State :=
  if ((s.qp fn qp).sends.any fun w => w.asked == some r.id) then
    let bs := toBytes r.size (lineGet g.data (r.va.toNat % 64) r.size)
    let put := fun (w : NetWork) => if w.asked = some r.id then { w with asked := none, got := w.got ++ bs } else w
    (s.modQp fn qp fun q => { q with sends := q.sends.map put }).netPush fn qp
  else s
/-- A buffer write is accepted (R400). -/
def State.netAccepted (s : State) (fn qp : Nat) (r : Req) : State :=
  if ((s.qp fn qp).pending.any fun w => w.asked == some r.id) then
    let put := fun (w : NetWork) => if w.asked = some r.id then { w with asked := none, pos := w.pos + r.size } else w
    (s.modQp fn qp fun q => { q with pending := q.pending.map put }).netPlace fn qp
  else s
/-- A request of a queue pair is cancelled or denied (R400): a receive ends at both ends in error; a send's buffer that cannot be read
ends its own queue pair. -/
def State.netRefused (s : State) (fn qp : Nat) (r : Req) : State :=
  let q := s.qp fn qp
  match q.pending.find? (fun w => w.asked == some r.id) with
  | some w =>
    ((s.modQp fn qp fun q => { q with pending := q.pending.filter fun x => x.asked != some r.id }).netError fn qp
      .remoteAccessViolation).out (.netNak fn qp w.psn 2)
  | none =>
    if (q.sends.any fun w => w.asked == some r.id) then
      (s.modQp fn qp fun q => { q with sends := q.sends.filter fun x => x.asked != some r.id }).netError fn qp .remoteAccessViolation
    else s

end Sys2Proof.Machine
end

