-- ==== Sys2Proof/Machine/Sfx.lean ====
section
/-! DEFINITION. The special functions (R305, R306): the correctly rounded ones by exact integer arithmetic, the others as the exact
value rounded RNE, found between two bounds that come closer until both round alike. -/

namespace Sys2Proof.Machine

/-! ## Fixed-point arithmetic: an integer x stands for x × 2^−P -/

/-- The largest r below 2^fuel, built on `r`, with r² ≤ n. -/
def isqrtFrom (n : Nat) (fuel r : Nat) : Nat :=
  match fuel with
  | 0 => r
  | b + 1 =>
    let c := r + 2 ^ b
    isqrtFrom n b (if c * c ≤ n then c else r)

/-- The integer square root. -/
def isqrt (n : Nat) : Nat := isqrtFrom n (Nat.log2 n / 2 + 1) 0

/-- Product in fixed point. -/
def fxMul (p : Nat) (a b : Int) : Int := a * b / 2 ^ p
/-- Quotient in fixed point. -/
def fxDiv (p : Nat) (a b : Int) : Int := a * 2 ^ p / b
/-- m × 2^e in fixed point, rounded down. -/
def fxOf (p : Nat) (m : Int) (e : Int) : Int :=
  if 0 ≤ e + p then m * 2 ^ (e + p).toNat else m / 2 ^ (-(e + p)).toNat

/-- Σ term × r^i / ((n+1) … (n+i)), until the terms vanish. -/
def expSum (p : Nat) (r : Int) (fuel n : Nat) (term acc : Int) : Int :=
  match fuel with
  | 0 => acc
  | k + 1 => if term = 0 then acc else expSum p r k (n + 1) (fxMul p term r / (n + 1)) (acc + term)

/-- e^r for |r| ≤ 1. -/
def fxExp (p : Nat) (r : Int) : Int := expSum p r (2 * p) 0 (2 ^ p) 0

/-- Σ z^(2i+1) / (2i+1) from exponent `n` on; `alt` alternates the signs. -/
def oddSum (p : Nat) (z2 : Int) (alt : Bool) (fuel n : Nat) (pw acc : Int) : Int :=
  match fuel with
  | 0 => acc
  | k + 1 =>
    if pw = 0 then acc
    else oddSum p z2 alt k (n + 2) (if alt then -(fxMul p pw z2) else fxMul p pw z2) (acc + pw / n)

/-- atanh z for |z| ≤ 1/3. -/
def fxAtanh (p : Nat) (z : Int) : Int := oddSum p (fxMul p z z) false (2 * p) 1 z 0
/-- atan z for |z| ≤ 1/5. -/
def fxAtan (p : Nat) (z : Int) : Int := oddSum p (fxMul p z z) true (2 * p) 1 z 0
/-- ln 2. -/
def fxLn2 (p : Nat) : Int := 2 * fxAtanh p (2 ^ p / 3)
/-- π, by Machin's formula. -/
def fxPi (p : Nat) : Int := 16 * fxAtan p (2 ^ p / 5) - 4 * fxAtan p (2 ^ p / 239)

/-- ln (m × 2^e), m > 0. -/
def fxLn (p : Nat) (m : Nat) (e : Int) : Int :=
  let l := Nat.log2 m
  let y := fxOf p m (-(l : Int))
  fxLn2 p * (e + l) + 2 * fxAtanh p (fxDiv p (y - 2 ^ p) (y + 2 ^ p))

/-- Σ of (−1)^i r^(n+2i) / …: the series of sine (from n = 1) and cosine (from n = 0). -/
def trigSum (p : Nat) (r2 : Int) (fuel n : Nat) (term acc : Int) : Int :=
  match fuel with
  | 0 => acc
  | k + 1 => if term = 0 then acc else trigSum p r2 k (n + 2) (-(fxMul p term r2) / ((n + 1) * (n + 2))) (acc + term)

/-- Σ (−1)^i x^(2i+1) / (i! (2i+1)). -/
def erfSum (p : Nat) (x2 : Int) (fuel i : Nat) (term acc : Int) : Int :=
  match fuel with
  | 0 => acc
  | k + 1 => if term = 0 then acc else erfSum p x2 k (i + 1) (-(fxMul p term x2) / (i + 1)) (acc + term / (2 * i + 1))

/-! ## Bounds of the exact value -/

/-- Bounds of a magnitude: between lo × 2^e and hi × 2^e, lo ≥ 0, with its sign. -/
structure Enclosure where
  neg : Bool
  lo : Nat
  hi : Nat
  e : Int
  deriving DecidableEq, Repr

/-- The slack of every series above, in units of 2^−P: more than twice the steps of any of them. -/
def slack (p : Nat) : Int := 64 * p

/-- Bounds around a signed fixed-point value whose error is below `err` units. -/
def enclose (v err : Int) (e : Int) : Enclosure :=
  ⟨decide (v < 0), ((v.natAbs : Int) - err).toNat, ((v.natAbs : Int) + err).toNat, e⟩

/-- e^x for x = v × 2^−P with an error below `err` units: the reduced argument and its power of two. -/
def encExp (p : Nat) (v err : Int) : Enclosure :=
  let l := fxLn2 p
  let k := v / l
  if 400 < k then ⟨false, 1, 1, 400⟩
  else if k < -400 then ⟨false, 1, 1, -400⟩
  else enclose (fxExp p (v - k * l)) (4 * (slack p + err) + 4 * 500 * slack p) (k - p)

/-- e^−y in fixed point for y ≥ 0, with an error below 2^12 × `slack`; 0 beyond 2^−P. -/
def fxExpNeg (p : Nat) (y : Int) : Int :=
  let l := fxLn2 p
  let k := y / l + 1
  if p < k then 0 else fxExp p (k * l - y) / 2 ^ k.toNat

/-- Bounds of special function `fn` at m × 2^e with sign `s` (never an exact case), and, for `pow`, at |a| = m × 2^e with
exponent `b` × 2^`g`. -/
def encSfx (fn p : Nat) (s : Bool) (m : Nat) (e : Int) (b : Int) (g : Int) : Enclosure :=
  let w := slack p
  let x := fxOf p (signed s m) e
  let one : Int := 2 ^ p
  match fn with
  | 4 =>
    let k := (signed s m) / 2 ^ (-e).toNat
    if 0 ≤ e then (if s then ⟨false, 1, 1, -400⟩ else ⟨false, 1, 1, 400⟩)
    else if 400 < k then ⟨false, 1, 1, 400⟩
    else if k < -400 then ⟨false, 1, 1, -400⟩
    else enclose (fxExp p (fxMul p (fxOf p (signed s m - k * 2 ^ (-e).toNat) e) (fxLn2 p))) (8 * w) (k - p)
  | 5 => enclose (fxDiv p (fxLn p m e) (fxLn2 p)) (1024 * w) (-p)
  | 6 => if 9 < e + Nat.log2 m then (if s then ⟨false, 1, 1, -400⟩ else ⟨false, 1, 1, 400⟩) else encExp p x 1
  | 7 => enclose (fxLn p m e) (512 * w) (-p)
  | 10 =>
    let t := if 9 < e + Nat.log2 m then 0 else fxExpNeg p (2 * fxOf p m e)
    let r := enclose (fxDiv p (one - t) (one + t)) (4096 * w) (-p)
    { r with neg := s }
  | 11 =>
    if 9 < e + Nat.log2 m then (if s then ⟨false, 1, 1, -400⟩ else ⟨false, 2 ^ 100 - 1, 2 ^ 100 - 1, -100⟩)
    else
      let t := fxExpNeg p (fxOf p m e)
      enclose (fxDiv p (if s then t else one) (one + t)) (4096 * w) (-p)
  | 12 =>
    if 1 < e + Nat.log2 m then ⟨s, 2 ^ 30 - 17, 2 ^ 30 - 1, -30⟩
    else
      let y := fxOf p m e
      let root : Int := isqrt ((fxPi p).toNat * 2 ^ p)
      let r := enclose (fxDiv p (2 * erfSum p (fxMul p y y) (4 * p) 0 y 0) root) (2 ^ 70 * w) (-p)
      { r with neg := s }
  | 13 => encExp p (fxOf p (b * fxLn p m e) (g - p)) (fxOf p (b.natAbs * (512 * w) + 1) (g - p) + 2)
  | _ =>
    let pp := p + (e + Nat.log2 m).toNat + 8
    let half := fxPi pp / 2
    let y := fxOf pp m e
    let n := (y + half / 2) / half
    let r := fxOf p (y - n * half) (-pp)
    let r2 := fxMul p r r
    let sn := trigSum p r2 (2 * p) 1 r 0
    let cs := trigSum p r2 (2 * p) 0 one 0
    let q := if fn = 8 then n % 4 else (n + 1) % 4
    let v := if q = 0 then sn else if q = 1 then cs else if q = 2 then -sn else -cs
    enclose (if fn = 8 && s then -v else v) (64 * w) (-p)

/-- The bounds round alike, and give the result with its flags; an inexact result is certain. -/
def settle (f : Fmt) (c : Enclosure) : Option (Nat × Flags) :=
  let a := roundTo f .rne c.neg c.lo c.e true
  let b := roundTo f .rne c.neg c.hi c.e true
  if c.lo ≠ 0 && a == b then some a else none

/-- The first of the precisions at which the bounds round alike. -/
def settleAt (f : Fmt) (enc : Nat → Enclosure) (ps : List Nat) : Nat × Flags :=
  match ps with
  | [] => (f.nan, 0#5)
  | p :: t =>
    match settle f (enc p) with
    | some r => r
    | none => settleAt f enc t

/-- The precisions tried. -/
def precisions : List Nat := [320, 640, 1280, 2560, 5120]

/-! ## The functions -/

/-- An odd count times a power of two. -/
def oddPart (fuel m : Nat) (e : Int) : Nat × Int :=
  match fuel with
  | 0 => (m, e)
  | k + 1 => if m % 2 = 0 then oddPart k (m / 2) (e + 1) else (m, e)

/-- m^(n × 2^g) × 2^(e n 2^g) for odd m, exactly, when it is a dyadic number of at most 40 bits; n ≠ 0 odd. -/
def powExact (fuel m : Nat) (e n g : Int) : Option (Nat × Int) :=
  match fuel with
  | 0 => none
  | k + 1 =>
    if g < 0 then
      let r := isqrt m
      if r * r = m ∧ e % 2 = 0 then powExact k r (e / 2) n (g + 1) else none
    else
      let b := n * 2 ^ g.toNat
      if m = 1 then some (1, e * b)
      else if 0 < b ∧ b ≤ 40 then some (m ^ b.toNat, e * b)
      else none

/-- `rcp`, `div` of finite values that are no zero: correctly rounded (R305). -/
def divFin (f : Fmt) (rm : Rm) (neg : Bool) (m : Nat) (e : Int) (n : Nat) (g : Int) : Nat × Flags :=
  let k := 2 * (f.fb + 4) + Nat.log2 n
  let q := m * 2 ^ k / n
  roundTo f rm neg q (e - g - k) (m * 2 ^ k % n != 0)

/-- Division of two values (R305, R306). -/
def divVal (f : Fmt) (rm : Rm) (a b : FVal) : Nat × Flags :=
  match a, b with
  | .nan s, .nan t => (f.nan, flagIf (s || t) fNV)
  | .nan s, _ => (f.nan, flagIf s fNV)
  | _, .nan t => (f.nan, flagIf t fNV)
  | .inf _, .inf _ => (f.nan, fNV)
  | .inf s, .fin t _ _ => (f.sign (s != t) + f.infBits, 0#5)
  | .fin s _ _, .inf t => (f.sign (s != t), 0#5)
  | .fin s m e, .fin t n g =>
    if n = 0 then (if m = 0 then (f.nan, fNV) else (f.sign (s != t) + f.infBits, fDZ))
    else if m = 0 then (f.sign (s != t), 0#5)
    else divFin f rm (s != t) m e n g

/-- Division with DAZ and FTZ. -/
def fDiv (f : Fmt) (e : FEnv) (a b : Nat) : Nat × Flags :=
  ftz f e (divVal f e.rm (fval f (daz f e a)) (fval f (daz f e b)))

/-- √(m × 2^e), m > 0, correctly rounded. -/
def sqrtFin (f : Fmt) (rm : Rm) (m : Nat) (e : Int) : Nat × Flags :=
  let k := 2 * f.fb + 8
  let k := if (e - k) % 2 = 0 then k else k + 1
  let n := m * 2 ^ k
  let r := isqrt n
  roundTo f rm false r ((e - k) / 2) (r * r != n)

/-- 1/√(m × 2^e), m > 0, rounded RNE. -/
def rsqrtFin (f : Fmt) (m : Nat) (e : Int) : Nat × Flags :=
  let k := 4 * f.fb + 16 + Nat.log2 m
  let k := if (k + e) % 2 = 0 then k else k + 1
  let r := isqrt (2 ^ k / m)
  roundTo f .rne false r (-((k + e) / 2)) (r * r * m != 2 ^ k)

/-- A finite m × 2^e is an odd integer; is an integer. -/
def isIntOdd (m : Nat) (e : Int) : Bool × Bool :=
  if 0 ≤ e then (true, decide (e = 0) && m % 2 == 1)
  else (decide (m % 2 ^ (-e).toNat = 0), m / 2 ^ (-e).toNat % 2 == 1 && decide (m % 2 ^ (-e).toNat = 0))

/-- `pow` of values, after the cases that give 1 (R306; IEEE 754-2019 pow). -/
def powVal (f : Fmt) (a b : FVal) : Nat × Flags :=
  let one := (roundTo f .rne false 1 0).1
  match a, b with
  | .nan s, .nan t => (f.nan, flagIf (s || t) fNV)
  | .nan s, _ => (f.nan, flagIf s fNV)
  | _, .nan t => (f.nan, flagIf t fNV)
  | .inf _, .inf t => (if t then 0 else f.infBits, 0#5)
  | .fin _ m e, .inf t =>
    let c := cmpVal (.fin false m e) (.fin false 1 0)
    if c.2 then (one, 0#5) else if c.1 then (if t then f.infBits else 0, 0#5) else (if t then 0 else f.infBits, 0#5)
  | .inf s, .fin t n g =>
    let sg := f.sign (s && (isIntOdd n g).2)
    (if t then sg else sg + f.infBits, 0#5)
  | .fin s m e, .fin t n g =>
    let io := isIntOdd n g
    let sg := s && io.2
    if m = 0 then (if t then (f.sign sg + f.infBits, fDZ) else (f.sign sg, 0#5))
    else if s && !io.1 then (f.nan, fNV)
    else
      let mo := oddPart 64 m e
      let no := oddPart 64 n g
      match powExact 200 mo.1 mo.2 (signed t no.1) no.2 with
      | some r => roundTo f .rne sg r.1 r.2
      | none =>
        let r := settleAt f (fun p => encSfx 13 p false m e (signed t n) g) precisions
        (f.sign sg + r.1, r.2)

/-- Special function `fn` of F32 patterns (R305, R306), before FTZ, its operands after DAZ. -/
def sfxRaw (fn : Nat) (rm : Rm) (a b : Nat) : Nat × Flags :=
  let f := F32
  let one := (roundTo f .rne false 1 0).1
  let x := fval f a
  let y := fval f b
  if fn = 13 then
    if isZero f b || decide (a = one) then (one, flagIf (x.isSNan || y.isSNan) fNV) else powVal f x y
  else if fn = 3 then divVal f rm x y
  else if fn = 0 then divVal f rm (.fin false 1 0) x
  else
    match x with
    | .nan s => (f.nan, flagIf s fNV)
    | .inf s =>
      if fn = 1 ∨ fn = 2 ∨ fn = 5 ∨ fn = 7 then
        (if s then (f.nan, fNV) else if fn = 1 then (0, 0#5) else (f.infBits, 0#5))
      else if fn = 4 ∨ fn = 6 then (if s then 0 else f.infBits, 0#5)
      else if fn = 8 ∨ fn = 9 then (f.nan, fNV)
      else if fn = 11 then (if s then 0 else one, 0#5)
      else (f.sign s + one, 0#5)
    | .fin s m e =>
      if m = 0 then
        (if fn = 1 then (f.sign s + f.infBits, fDZ)
         else if fn = 5 ∨ fn = 7 then (f.sign true + f.infBits, fDZ)
         else if fn = 4 ∨ fn = 6 ∨ fn = 9 then (one, 0#5)
         else if fn = 11 then ((roundTo f .rne false 1 (-1)).1, 0#5)
         else (a, 0#5))
      else if (fn = 1 ∨ fn = 2 ∨ fn = 5 ∨ fn = 7) ∧ s = true then (f.nan, fNV)
      else if fn = 1 then rsqrtFin f m e
      else if fn = 2 then sqrtFin f rm m e
      else if fn = 4 && (isIntOdd m e).1 && decide ((cmpVal (.fin false m e) (.fin false 1000 0)).1) then
        roundTo f .rne false 1 (signed s (m * 2 ^ e.toNat / 2 ^ (-e).toNat))
      else
        let o := oddPart 64 m e
        if fn = 5 ∧ o.1 = 1 then roundInt f .rne false o.2 0
        else if fn = 7 ∧ o = (1, 0) then (0, 0#5)
        else settleAt f (fun p => encSfx fn p s m e 0 0) precisions

/-- Special function `fn` (R305): DAZ on its operands, FTZ on its result. -/
def sfxFn (fn : Nat) (e : FEnv) (a b : Nat) : Nat × Flags :=
  ftz F32 e (sfxRaw fn e.rm (daz F32 e a) (daz F32 e b))

end Sys2Proof.Machine
end

