-- ==== Sys2Proof/Machine/Jets.lean ====
section
/-! DEFINITION. Taylor jets: the series rules of R236 to R247 and the non-smooth rules of R248 to R250. A jet is the list of its
coefficients c_0 to c_J as F32 patterns; each rule answers the coefficients and the flags by plane (R254). -/

namespace Sys2Proof.Machine

/-- A coefficient and the flags of the steps that formed it. -/
abbrev Coef := Nat × BitVec 40
/-- A jet and its flags. -/
abbrev JetRes := List Nat × BitVec 40

/-- The flags of a step in plane `k` (R254). -/
def inK (k : Nat) (r : Nat × Flags) : Coef := (r.1, inPlane k r.2)
/-- One more step on a coefficient of plane `k`. -/
def thenK (k : Nat) (c : Coef) (f : Nat → Nat × Flags) : Coef :=
  let r := f c.1
  (r.1, c.2 ||| inPlane k r.2)
/-- Steps j = 1 to n. -/
def chain (k n : Nat) (c : Coef) (f : Nat → Nat → Nat × Flags) : Coef :=
  (List.range n).foldl (fun c i => thenK k c (f (i + 1))) c
/-- Coefficient `k` of a jet. -/
def co (u : List Nat) (k : Nat) : Nat := u.getD k 0
/-- The index j as an F32 value (R237). -/
def asF32 (j : Nat) : Nat := (roundTo F32 .rne false j 0).1
/-- A value with its sign inverted exactly; a NaN result stays canonical (R236, R244). -/
def exactNeg (x : Nat) : Nat := if isNan F32 x then x else negBits F32 x

/-- P(k; u, v) (R237). DEDUCED: each step of a chain reads its inputs under DAZ, also the result of the step before it (R236, log 55). -/
def prodChain (e : FEnv) (k : Nat) (u v : List Nat) : Coef :=
  chain k k (inK k (fMul F32 e (co u 0) (co v k))) fun j s => fFma F32 e false (co u j) (co v (k - j)) s
/-- C(k, n; w, u, v) (R237). -/
def weighted (e : FEnv) (k n : Nat) (w u v : List Nat) : Coef :=
  if n = 0 then (0, 0#40)
  else
    let first := thenK k (inK k (fMul F32 e (co w 1) (co u 1))) fun s => fMul F32 e s (co v (k - 1))
    (List.range (n - 1)).foldl (fun c i =>
      let p := fMul F32 e (co w (i + 2)) (co u (i + 2))
      let r := fFma F32 e false p.1 (co v (k - (i + 2))) c.1
      (r.1, c.2 ||| inPlane k p.2 ||| inPlane k r.2)) first
/-- The weights j. -/
def jWeights : List Nat := (List.range 8).map asF32
/-- round(C(k, k; j, u, v) / k). -/
def cDiv (e : FEnv) (k : Nat) (u v : List Nat) : Coef :=
  thenK k (weighted e k k jWeights u v) fun s => fDiv F32 e s (asF32 k)
/-- Coefficients 1 to J after c_0, in ascending order, each from those before it (R236). -/
def series (j : Nat) (c0 : Coef) (f : Nat → List Nat → Coef) : JetRes :=
  (List.range j).foldl (fun a i =>
    let r := f (i + 1) a.1
    (a.1 ++ [r.1], a.2 ||| r.2)) ([c0.1], c0.2)
/-- Two jets formed together; in step `k` the first coefficient is formed before the second, which may read it. -/
def series2 (j : Nat) (a0 b0 : Coef) (f : Nat → List Nat → List Nat → Coef) (g : Nat → List Nat → List Nat → Coef) :
    List Nat × List Nat × BitVec 40 :=
  (List.range j).foldl (fun s i =>
    let a := f (i + 1) s.1 s.2.1
    let s1 := s.1 ++ [a.1]
    let b := g (i + 1) s1 s.2.1
    (s1, s.2.1 ++ [b.1], s.2.2 ||| a.2 ||| b.2)) ([a0.1], [b0.1], a0.2 ||| b0.2)

/-! ## Arithmetic (R238, R239) -/

/-- `fadd` and `fsub`: every coefficient by itself. -/
def jetLinear (e : FEnv) (j : Nat) (op : FEnv → Nat → Nat → Nat × Flags) (a b : List Nat) : JetRes :=
  series j (inK 0 (op e (co a 0) (co b 0))) fun k _ => inK k (op e.rne (co a k) (co b k))
/-- `fmul`. -/
def jetMul (e : FEnv) (j : Nat) (a b : List Nat) : JetRes :=
  series j (inK 0 (fMul F32 e (co a 0) (co b 0))) fun k _ => prodChain e.rne k a b
/-- `fma`, and with `na` `fnma`. -/
def jetFma (e : FEnv) (j : Nat) (na : Bool) (a b d : List Nat) : JetRes :=
  series j (inK 0 (fFma F32 e na (co a 0) (co b 0) (co d 0))) fun k _ =>
    chain k k (inK k (fFma F32 e.rne na (co a 0) (co b k) (co d k))) fun i s => fFma F32 e.rne na (co a i) (co b (k - i)) s
/-- `fadd` and `fsub` with a uniform operand: higher coefficients are moved bit for bit, which DEDUCED leaves DAZ out (log 55). -/
def jetLinearG (e : FEnv) (j : Nat) (op : FEnv → Nat → Nat → Nat × Flags) (a : List Nat) (g : Nat) : JetRes :=
  series j (inK 0 (op e (co a 0) g)) fun k _ => (co a k, 0#40)
/-- `fmul` with a uniform operand. -/
def jetMulG (e : FEnv) (j : Nat) (a : List Nat) (g : Nat) : JetRes :=
  series j (inK 0 (fMul F32 e (co a 0) g)) fun k _ => inK k (fMul F32 e.rne (co a k) g)
/-- `fma` with a uniform operand. -/
def jetFmaG (e : FEnv) (j : Nat) (a : List Nat) (g : Nat) (d : List Nat) : JetRes :=
  series j (inK 0 (fFma F32 e false (co a 0) g (co d 0))) fun k _ => inK k (fFma F32 e.rne false (co a k) g (co d k))

/-! ## Special functions (R241 to R247) -/

/-- `div`, and with a = (a_0, 0, …) `rcp`'s higher coefficients. -/
def sfxDivK (e : FEnv) (a b : List Nat) (k : Nat) (c : List Nat) : Coef :=
  thenK k (chain k k (co a k, 0#40) fun j s => fFma F32 e true (co b j) (co c (k - j)) s) fun s => fDiv F32 e s (co b 0)
/-- `sqrt`. -/
def sfxSqrtK (e : FEnv) (a : List Nat) (k : Nat) (c : List Nat) : Coef :=
  let s := chain k (k - 1) (co a k, 0#40) fun j s => fFma F32 e true (co c j) (co c (k - j)) s
  let d := fMul F32 e (asF32 2) (co c 0)
  thenK k (s.1, s.2 ||| inPlane k d.2) fun s => fDiv F32 e s d.1
/-- The power rule (R242). -/
def sfxPowK (e : FEnv) (p : Nat) (a : List Nat) (k : Nat) (c : List Nat) : Coef :=
  let q := fAdd F32 e p (asF32 1)
  let ws := (List.range (k + 1)).map fun j =>
    if j = 0 then ((0, 0#5) : Nat × Flags)
    else
      let x := fMul F32 e q.1 (asF32 j)
      let y := fSub F32 e x.1 (asF32 k)
      (y.1, x.2 ||| y.2)
  let n := weighted e k k (ws.map fun w => w.1) a c
  let d := fMul F32 e (asF32 k) (co a 0)
  thenK k (n.1, n.2 ||| inPlane k (ws.foldl (fun x w => x ||| w.2) (q.2 ||| d.2))) fun s => fDiv F32 e s d.1
/-- The `ln` rule's coefficient k; `l` is the natural logarithm's jet, whose l_0 is not read (R243). -/
def sfxLnK (e : FEnv) (a : List Nat) (k : Nat) (l : List Nat) : Coef :=
  let t := thenK k (weighted e k (k - 1) jWeights l a) fun s => fDiv F32 e s (asF32 k)
  thenK k (thenK k t fun s => fSub F32 e (co a k) s) fun s => fDiv F32 e s (co a 0)

/-- LN2 (R247). -/
def cLn2 : Nat := 0x3F317218
/-- LOG2E (R247). -/
def cLog2e : Nat := 0x3FB8AA3B
/-- TWO_RTPI (R247). -/
def cTwoRtPi : Nat := 0x3F906EBB
/-- −1/2. -/
def cNegHalf : Nat := 0xBF000000

/-- `exp2`: a'_j is formed once, before c_j. -/
def sfxExp2 (e : FEnv) (j : Nat) (c0 : Coef) (a : List Nat) : JetRes :=
  let r := series2 j (co a 0, 0#40) c0 (fun k _ _ => inK k (fMul F32 e (co a k) cLn2)) (fun k u c => cDiv e k u c)
  (r.2.1, r.2.2)
/-- `log2`, through the `ln` rule. -/
def sfxLog2 (e : FEnv) (j : Nat) (c0 : Coef) (a : List Nat) : JetRes :=
  let r := series2 j (0, 0#40) c0 (fun k l _ => sfxLnK e a k l) (fun k l _ => inK k (fMul F32 e (co l k) cLog2e))
  (r.2.1, r.2.2)
/-- `sin` and `cos` together: S and Q. -/
def sfxSinCos (e : FEnv) (j : Nat) (s0 q0 : Coef) (a : List Nat) : List Nat × List Nat × BitVec 40 :=
  series2 j s0 q0 (fun k _ q => cDiv e k a q) fun k s _ =>
    let r := cDiv e k a s
    (exactNeg r.1, r.2)
/-- `tanh`, and with `sg` `sigm`, through d. -/
def sfxTanh (e : FEnv) (j : Nat) (sg : Bool) (c0 : Coef) (a : List Nat) : JetRes :=
  let d0 := inK 0 (fFma F32 e true c0.1 c0.1 (if sg then c0.1 else asF32 1))
  let r := series2 j c0 d0 (fun k _ d => cDiv e k a d) fun k c _ =>
    if sg then
      (List.range (k + 1)).foldl (fun s i => thenK k s fun s => fFma F32 e true (co c i) (co c (k - i)) s) (co c k, 0#40)
    else
      chain k k (inK k (fMul F32 e (negBits F32 (co c 0)) (co c k))) fun i s => fFma F32 e true (co c i) (co c (k - i)) s
  (r.1, r.2.2)
/-- `erf`, through m, g and h. -/
def sfxErf (e : FEnv) (j : Nat) (c0 : Coef) (a : List Nat) : JetRes :=
  let m0 := inK 0 (fMul F32 e (negBits F32 (co a 0)) (co a 0))
  let g0 := inK 0 (sfxFn 6 e m0.1 0)
  let h0 := inK 0 (fMul F32 e g0.1 cTwoRtPi)
  let step := fun (s : List Nat × List Nat × List Nat × List Nat × BitVec 40) (i : Nat) =>
    let k := i + 1
    let c := cDiv e k a s.2.2.2.1
    let m := prodChain e k a a
    let ms := s.2.1 ++ [exactNeg m.1]
    let g := cDiv e k ms s.2.2.1
    let h := inK k (fMul F32 e g.1 cTwoRtPi)
    (s.1 ++ [c.1], ms, s.2.2.1 ++ [g.1], s.2.2.2.1 ++ [h.1], s.2.2.2.2 ||| c.2 ||| m.2 ||| g.2 ||| h.2)
  let r := (List.range j).foldl step ([c0.1], [m0.1], [g0.1], [h0.1], c0.2 ||| m0.2 ||| g0.2 ||| h0.2)
  (r.1, r.2.2.2.2)
/-- `pow` with a jet exponent, through l and m (R247). -/
def sfxPowJet (e : FEnv) (j : Nat) (c0 l0 : Coef) (a b : List Nat) : JetRes :=
  let step := fun (s : List Nat × List Nat × List Nat × BitVec 40) (i : Nat) =>
    let k := i + 1
    let l := sfxLnK e a k s.2.1
    let ls := s.2.1 ++ [l.1]
    let m := prodChain e k b ls
    let ms := s.2.2.1 ++ [m.1]
    let c := cDiv e k ms s.1
    (s.1 ++ [c.1], ls, ms, s.2.2.2 ||| l.2 ||| m.2 ||| c.2)
  let r := (List.range j).foldl step ([c0.1], [l0.1], [0], c0.2 ||| l0.2)
  (r.1, r.2.2.2)

/-- A special function of jets: c_0 as the entry gives it, then its series rule (R236, R241 to R247). -/
def sfxJet (fn : Nat) (e : FEnv) (j : Nat) (a b : List Nat) : JetRes :=
  let c0 := inK 0 (sfxFn fn e (co a 0) (co b 0))
  let n := e.rne
  if j = 0 then ([c0.1], c0.2)
  else if fn = 0 then series j c0 fun k c => sfxDivK n [] a k c
  else if fn = 1 then series j c0 fun k c => sfxPowK n cNegHalf a k c
  else if fn = 2 then series j c0 fun k c => sfxSqrtK n a k c
  else if fn = 3 then series j c0 fun k c => sfxDivK n a b k c
  else if fn = 4 then sfxExp2 n j c0 a
  else if fn = 5 then sfxLog2 n j c0 a
  else if fn = 6 then series j c0 fun k c => cDiv n k a c
  else if fn = 7 then series j c0 fun k c => sfxLnK n a k c
  else if fn = 8 then
    let r := sfxSinCos n j c0 (inK 0 (sfxFn 9 e (co a 0) 0)) a
    (r.1, r.2.2)
  else if fn = 9 then
    let r := sfxSinCos n j (inK 0 (sfxFn 8 e (co a 0) 0)) c0 a
    (r.2.1, r.2.2)
  else if fn = 10 then sfxTanh n j false c0 a
  else if fn = 11 then sfxTanh n j true c0 a
  else if fn = 12 then sfxErf n j c0 a
  else if b.tail.all (fun x => isZero F32 (daz F32 e x)) then series j c0 fun k c => sfxPowK n (co b 0) a k c
  else sfxPowJet n j c0 (inK 0 (sfxFn 7 e (co a 0) 0)) a b

/-! ## Non-smooth operations (R248 to R251) -/

/-- `fmin` and `fmax` (R249): the higher coefficients of the jet selected are moved bit for bit, which DEDUCED leaves DAZ out (log 55). -/
def jetMinMax (e : FEnv) (mx : Bool) (a b : List Nat) : JetRes :=
  let c0 := fMinMax F32 e mx (co a 0) (co b 0)
  match pickB F32 mx (daz F32 e (co a 0)) (daz F32 e (co b 0)) with
  | none => (a.map fun _ => F32.nan, inPlane 0 c0.2)
  | some true => (c0.1 :: b.tail, inPlane 0 c0.2)
  | some false => (c0.1 :: a.tail, inPlane 0 c0.2)
/-- Coefficients moved, read under DAZ (R236, R269). -/
def jetMove (e : FEnv) (a : List Nat) : List Nat := a.map (daz F32 e)
/-- `fmov`. -/
def jetMov (e : FEnv) (a : List Nat) : JetRes := (jetMove e a, 0#40)
/-- `fneg`. -/
def jetNeg (e : FEnv) (a : List Nat) : JetRes := ((jetMove e a).map (negBits F32), 0#40)
/-- `fabs` (R248). -/
def jetAbs (e : FEnv) (a : List Nat) : JetRes :=
  let x := daz F32 e (co a 0)
  let m := jetMove e a
  if isZero F32 x then (0 :: m.tail, nvPlanes (a.length - 1))
  else if isNan F32 x then ((if isNeg F32 x then negBits F32 x else x) :: m.tail, 0#40)
  else if isNeg F32 x then (m.map (negBits F32), 0#40)
  else (m, 0#40)
/-- The rounding family (R250). -/
def jetRint (e : FEnv) (rm : Rm) (nxf : Bool) (a : List Nat) : JetRes :=
  let c := fRint F32 e rm nxf (co a 0)
  (c.1 :: a.tail.map (fun _ => 0), inPlane 0 c.2)
/-- `fsat` (R250). -/
def jetSat (e : FEnv) (a : List Nat) : JetRes :=
  let x := daz F32 e (co a 0)
  let c := fSat F32 e (co a 0)
  let inside := !isNan F32 x && !isNeg F32 x && !isZero F32 x && decide (x < asF32 1)
  (c.1 :: (if inside then (jetMove e a).tail else a.tail.map fun _ => 0),
   inPlane 0 c.2 ||| (if isZero F32 x || x == asF32 1 then nvPlanes (a.length - 1) else 0#40))

end Sys2Proof.Machine
end

