-- ==== Sys2Proof/Machine/SfxExec.lean ====
section
/-! DEFINITION. Special functions: `sfx` pushes into the thread's `qsf` (R304 to R307), its results arrive (R305, R255), and `lpop` takes
them (R308). -/

namespace Sys2Proof.Machine

/-- The level of `qsf` that a thread uses (R304, R368). -/
def Thread.level (x : Thread) : List QsfEntry := if x.handler then x.q1 else x.q0
/-- Its current level replaced. -/
def Thread.setLevel (x : Thread) (q : List QsfEntry) : Thread := if x.handler then { x with q1 := q } else { x with q0 := q }
/-- The jet order of the issuing run (R234). -/
def State.runJo (s : State) : Nat :=
  match s.run? with
  | some (_, r) => r.jo
  | none => 0
/-- A special-function word issues (R304, R307): a participant's results, or +0 for another, enter its level, and arrive later. -/
def State.issueSfx (s : State) (i : Instr) (m : Mod) (fn : Nat) (a : BitVec 7) (b : Option (BitVec 7)) : State :=
  let j := s.runJo
  let n := j + 1
  let ops := jetOp j a :: (match b with | some b => [jetOp j b] | none => [])
  s.issueMem i m false ops
    (fun _ x => if 8 < x.level.length + n then .wait (.sfxRoom n) else .go x 0#40)
    fun s c x f => match f with
      | .go _ _ =>
        let vals := fun (r : BitVec 7) => (List.range n).map fun k => (x.r (r.toNat + k)).toNat
        let res := if takesPart m x then
            sfxJet fn (fEnv m c.group) j (vals a) (match b with | some b => vals b | none => [])
          else ((List.range n).map fun _ => 0, 0#40)
        let id := s.newId
        let es := (List.range n).map fun k => ⟨wd (co res.1 k), id.1, false, if k = 0 then res.2 else 0#40⟩
        (id.2.modThread c.ref fun x => x.setLevel (x.level ++ es)).post (.sfxResultArrival c.ref (if x.handler then 1 else 0) id.1)
      | _ => s

/-- RCP (R305). -/
def execFrcp (m : Mod) (a : BitVec 7) (s : State) : Host.Outcome State Fault Refusal :=
  .next (s.issueSfx (.frcp m a) m 0 a none)
/-- RSQRT (R305). -/
def execFrsqrt (m : Mod) (a : BitVec 7) (s : State) : Host.Outcome State Fault Refusal :=
  .next (s.issueSfx (.frsqrt m a) m 1 a none)
/-- SQRT (R305). -/
def execFsqrt (m : Mod) (a : BitVec 7) (s : State) : Host.Outcome State Fault Refusal :=
  .next (s.issueSfx (.fsqrt m a) m 2 a none)
/-- DIV (R305). -/
def execFdiv (m : Mod) (a b : BitVec 7) (s : State) : Host.Outcome State Fault Refusal :=
  .next (s.issueSfx (.fdiv m a b) m 3 a (some b))
/-- EXP2 (R305). -/
def execFexp2 (m : Mod) (a : BitVec 7) (s : State) : Host.Outcome State Fault Refusal :=
  .next (s.issueSfx (.fexp2 m a) m 4 a none)
/-- LOG2 (R305). -/
def execFlog2 (m : Mod) (a : BitVec 7) (s : State) : Host.Outcome State Fault Refusal :=
  .next (s.issueSfx (.flog2 m a) m 5 a none)
/-- EXP (R305). -/
def execFexp (m : Mod) (a : BitVec 7) (s : State) : Host.Outcome State Fault Refusal :=
  .next (s.issueSfx (.fexp m a) m 6 a none)
/-- LN (R305). -/
def execFln (m : Mod) (a : BitVec 7) (s : State) : Host.Outcome State Fault Refusal :=
  .next (s.issueSfx (.fln m a) m 7 a none)
/-- SIN (R305). -/
def execFsin (m : Mod) (a : BitVec 7) (s : State) : Host.Outcome State Fault Refusal :=
  .next (s.issueSfx (.fsin m a) m 8 a none)
/-- COS (R305). -/
def execFcos (m : Mod) (a : BitVec 7) (s : State) : Host.Outcome State Fault Refusal :=
  .next (s.issueSfx (.fcos m a) m 9 a none)
/-- TANH (R305). -/
def execFtanh (m : Mod) (a : BitVec 7) (s : State) : Host.Outcome State Fault Refusal :=
  .next (s.issueSfx (.ftanh m a) m 10 a none)
/-- SIGM (R305). -/
def execFsigm (m : Mod) (a : BitVec 7) (s : State) : Host.Outcome State Fault Refusal :=
  .next (s.issueSfx (.fsigm m a) m 11 a none)
/-- ERF (R305). -/
def execFerf (m : Mod) (a : BitVec 7) (s : State) : Host.Outcome State Fault Refusal :=
  .next (s.issueSfx (.ferf m a) m 12 a none)
/-- POW (R305). -/
def execFpow (m : Mod) (a b : BitVec 7) (s : State) : Host.Outcome State Fault Refusal :=
  .next (s.issueSfx (.fpow m a b) m 13 a (some b))

/-- SFX_RESULT_ARRIVAL (R255, R305, R307): the results of one `sfx` enter the queue and their flags `jxf`. -/
def execSfxResultArrival (t : ThreadRef) (level serial : Nat) (s : State) : Host.Outcome State Fault Refusal :=
  match s.thread? t with
  | none => .next s
  | some x =>
    let q := if level = 1 then x.q1 else x.q0
    let fl := (inFlightOf q ++ x.flying).foldl (fun a e => if e.1 = serial then a ||| e.2 else a) 0#40
    let q' := q.map fun e => if e.serial = serial then { e with arrived := true } else e
    .next ((s.modThread t fun x =>
      let x := { x with flying := x.flying.filter fun e => e.1 != serial }
      if level = 1 then { x with q1 := q' } else { x with q0 := q' }).modGroup t.ctx t.grp fun g => g.raise fl)

/-- LPOP (R308). -/
def execLpop (e : Bool) (a : BitVec 7) (s : State) : Host.Outcome State Fault Refusal :=
  .next (s.issueCtl (.lpop e a) (fun j => [jetOp j a]) [] fun c x =>
    let n := c.jo + 1
    let q := x.level
    if q.length < n then .fault cUnderflow 0 0
    else if (q.take n).any fun e => !e.arrived then .wait (.sfxEntries n)
    else .go (((List.range n).foldl (fun x k => x.setR (a.toNat + k) ((q.map fun e => e.v).getD k 0)) x).setLevel (q.drop n)) 0#40)

end Sys2Proof.Machine
end

