-- ==== Sys2Proof/Machine/CoreEvents.lean ====
section
/-! DEFINITION. Events of a core: the picker and its run starts (R141 to R144, R179), instruction fetch (R46, R57, R61, R143, R187, R192),
fills of the register cache and the lane store (R154, R55), the replies to global requests (R30, R100, R101, R105, R148 to R150), poison
(R408) and words that are no instruction (R196, R197). -/

namespace Sys2Proof.Machine

/-! ## Stalls resolved -/

/-- A lane-store line of a thread has been asked for, its last write-back is under way, or the core has no room to ask for it (R2, R55). -/
def State.laneFetching (s : State) (core : Nat) (q : ThreadRef) (line : Nat) : Bool :=
  let k := s.core core
  k.laneBusy q line || k.laneAsked.any (fun a => a.1 == q && a.2.1 == line) || decide (missRoom ≤ s.outstanding core)
/-- A stash line of a bank is still being filled (R65). -/
def State.stashFilling (s : State) (cl bank line : Nat) : Bool :=
  s.teams.any fun p => clusterOf p.2.core == cl && p.2.window.any fun q => q.2.bank == bank &&
    match q.2.stash with
    | some r => r.asked.contains line
    | none => false
/-- The cause of a stall of the threads `qs` on a core is resolved (R144): what they wait for is there, or no longer under way. -/
def State.stallOk (s : State) (core : Nat) (qs : List ThreadRef) (c : Stall) : Bool :=
  let now := s.nowAt core
  let xs := qs.filterMap s.thread?
  let gs := (groupsOf qs).filterMap fun g => s.group? g.1 g.2
  let ts := (groupsOf qs).filterMap fun g => s.team? g.1
  let cl := s.cluster (clusterOf core)
  let mine := fun (o : MmaOp) => qs.any fun q => q.ctx == o.ctx && q.grp == o.grp
  let left := fun (x : Thread) => match x.arr with
    | some (.released _ _) => true
    | _ => false
  match c with
  | .rcLine t => !(s.core core).rcAsked.contains t
  | .laneLine l => !(qs.any fun q => s.laneFetching core q l)
  | .laneBack l => !(qs.any fun q => (s.core core).laneBusy q l)
  | .missTable => decide (s.outstanding core + qs.length ≤ missRoom)
  | .stashLine k b l => !s.stashFilling k b l
  | .sfxRoom n => xs.all fun x => decide (x.level.length + n ≤ 8)
  | .sfxEntries n =>
    if n = 8 then gs.all fun g => g.threads.all fun x => x.2.sfxDone else xs.all fun x => (x.level.take n).all fun e => e.arrived
  | .release sc => xs.all fun x => releaseOk now x sc.toNat
  | .acquire t => decide (t ≤ now)
  | .loadData id => gs.all fun g => g.threads.all fun x => x.2.loads.all fun l => l.id != id
  | .fenceLoad id => xs.all fun x => x.loads.all fun l => l.id != id
  | .passes => true
  | .ownWrite id => !(cl.writes.any fun w => w.id == id)
  | .ownStore l => xs.all fun x => x.stores.all fun p => p.2 != l
  | .writes k =>
    if k = 0 then xs.all fun x => x.bankW.isEmpty
    else if k = 1 then gs.all fun g => g.threads.all fun x => x.2.stores.isEmpty && x.2.bankW.isEmpty
    else gs.all fun g => g.threads.all fun x => releaseOk now x.2 (if k = 3 then 3 else 1)
  | .counter k n => gs.all fun g => decide (g.count k ≤ n)
  | .bart => xs.all left
  | .bars => xs.all left
  | .syncw k b o gen => xs.all left || s.syncGet k b o 2 != gen
  | .bwait n => ts.all fun t => (t.slot n).arr
  | .give id => match cl.gives.find? (fun g => g.id == id) with
    | some g => g.complete
    | none => true
  | .bankDrain n => (groupsOf qs).all fun g => match s.team? g.1 with
    | some t => s.drained g.1 n (t.slot n).bank && match (t.slot n).stash with
      | some r => r.asked.isEmpty
      | none => true
    | none => true
  | .queueRoom k =>
    if k = 1 then
      match s.groupsInOrder (groupsOf (qs.filter fun q => match s.thread? q with
          | some x => x.arr != some .mma
          | none => false)) with
      | g :: _ => s.mmaRoom core g.1 g.2
      | [] => true
    else gs.all (fun g => decide (g.ops < 64)) && decide ((cl.cmds.filter fun d => d.cls == k).length < 64)
  | .strip n => !((s.core core).mq.any fun o => mine o && o.strips.contains n)
  | .tile n => !((s.core core).mq.any fun o => mine o && o.reading && s.mmaReads o n)
  | .instances => gs.all fun g => decide (g.insts.length < 8)
  | .mailbox a => !(s.mail.any fun m => m.agent == a && m.acc == .store && m.st == .asked)
/-- Threads of a group that gave up their place together, at one instruction and for one cause (R144). -/
def Group.parkedWith (g : Group) (ctx grp : Nat) (c : Stall) (pc : DWord) : List ThreadRef :=
  g.threads.filterMap fun p => if p.2.st = .parked c true ∧ p.2.pc = pc then some ⟨ctx, grp, p.1⟩ else none
/-- A parked thread's cause is resolved; a release or acquire of its own ends by an event (R103, R105, R144). -/
def State.parkedOk (s : State) (q : ThreadRef) (g : Group) (x : Thread) : Bool :=
  match x.st with
  | .parked c true => s.stallOk g.core (g.parkedWith q.ctx q.grp c x.pc) c
  | .parked (.release _) false => false
  | .parked (.acquire _) false => false
  | .parked c false => s.stallOk g.core [q] c
  | _ => false
/-- Threads of a team whose cause is resolved. -/
def State.resolvedOf (s : State) (ctx : Nat) (t : Team) : List ThreadRef :=
  t.groups.flatMap fun g => g.2.threads.filterMap fun x =>
    if s.parkedOk ⟨ctx, g.1, x.1⟩ g.2 x.2 then some ⟨ctx, g.1, x.1⟩ else none
/-- Threads of a core whose cause is resolved, of the teams that stay. -/
def State.resolved (s : State) (core : Nat) : List ThreadRef :=
  s.teams.flatMap fun p =>
    if p.2.leaving = .no then (s.resolvedOf p.1 p.2).filter fun q => match p.2.groups.find? q.grp with
      | some g => g.core == core
      | none => false
    else []
/-- They become ready together. -/
def State.wakeParked (s : State) (core : Nat) : State :=
  s.eachThread (s.resolved core) fun x => { x with st := .ready, since := s.cycle }

/-! ## Candidates (R143, R179) -/

/-- A partition's time or energy budget is spent (R389). -/
def Part.spent (p : Part) : Bool :=
  (decide (dbits p.live.budg 31 0 ≠ 0xFFFFFFFF) && decide (p.tbal ≤ 0)) || (decide (dbits p.live.budg 63 32 ≠ 0xFFFFFFFF) && decide (p.ebal ≤ 0))
/-- A thread that the picker may choose. -/
structure Cand where
  ref : ThreadRef
  lane : Nat
  tid : Nat
  prio : Nat
  since : Nat
  pc : DWord
  entry : DWord
  dom : BitVec 12
  jo : Nat
  deriving DecidableEq, Repr
/-- A ready thread as a candidate; its class is the PRIO of its grid's queue as it stands (R179). -/
def State.candOf (s : State) (t : Team) (g : Group) (q : ThreadRef) (x : Thread) : Cand :=
  { ref := q, lane := g.lane q.idx, tid := q.grp * t.width + q.idx
    prio := match s.grids.find? t.grid with
      | some d => ((s.part d.part).queue d.queue).prio
      | none => 0
    since := x.since, pc := x.pc, entry := t.entry, dom := t.dom, jo := g.jo }
/-- A fetch for a run of this team that starts at this address is under way. -/
def Core.fetchesFor (k : Core) (ctx : Nat) (pc : DWord) : Bool := k.fetching.any fun r => r.next == pc && decide (r.ctx.toNat = ctx)
/-- The candidates of a core: ready threads in no active run, of teams that stay, of partitions with budget (R143, R179, R371). -/
def State.cands (s : State) (core : Nat) : List Cand :=
  s.teams.flatMap fun p =>
    if p.2.leaving = .no ∧ (s.part p.2.part).spent = false then
      p.2.groups.flatMap fun g =>
        if g.2.core = core then g.2.threads.filterMap fun x =>
          if x.2.st = .ready ∧ (s.core core).fetchesFor p.1 x.2.pc = false then some (s.candOf p.2 g.2 ⟨p.1, g.1, x.1⟩ x.2) else none
        else []
    else []
/-- Run arbitration (R179): `a` comes before `b`. -/
def candBefore (now : Nat) (a b : Cand) : Bool :=
  let oa := decide (2048 ≤ now - a.since)
  let ob := decide (2048 ≤ now - b.since)
  let tie := if a.since ≠ b.since then decide (a.since < b.since) else if a.lane ≠ b.lane then decide (a.lane < b.lane) else decide (a.tid < b.tid)
  if oa != ob then oa else if oa then tie else if a.prio ≠ b.prio then decide (b.prio < a.prio) else tie
/-- The candidate that run arbitration puts first. -/
def firstCand (now : Nat) (cs : List Cand) : Option Cand :=
  match cs with
  | [] => none
  | c :: t => some (t.foldl (fun a b => if candBefore now b a then b else a) c)
/-- Of two candidates of a lane, `a` has waited longer; the lower thread where they have waited equally long (R143). -/
def longer (a b : Cand) : Bool := if a.since ≠ b.since then decide (a.since < b.since) else decide (a.tid < b.tid)
/-- The candidate of a lane that has waited longest (R143). -/
def longest (cs : List Cand) : Option Cand :=
  match cs with
  | [] => none
  | c :: t => some (t.foldl (fun a b => if longer b a then b else a) c)
/-- The issue set that starts with `t0` (R143): of each lane, the candidate that has waited longest. -/
def gather (cs : List Cand) (t0 : Cand) (bound : Bool) : List ThreadRef :=
  let e := cs.filter fun c => c.pc == t0.pc && c.entry == t0.entry && c.dom == t0.dom && c.jo == t0.jo &&
    (!bound || (c.ref.ctx == t0.ref.ctx && c.ref.grp == t0.ref.grp))
  (List.range 128).filterMap fun l => (longest (e.filter fun c => c.lane == l)).map fun c => c.ref

/-! ## Instruction fetch (R46, R143, R187, R192) -/

/-- What the instruction cache answers at an address. -/
inductive Fetched where
  | word (w : Word)
  | fault (cause detail : Nat) (addr : DWord)
  /-- The line of the effective address, by a word of the instruction at `ip`. -/
  | miss (ea ip : DWord)
  deriving DecidableEq, Repr
/-- The run that the picker is about to start: its core, team, context and first address. -/
structure RunAt where
  core : Nat
  ctx : Nat
  team : Team
  start : DWord
  deriving DecidableEq, Repr
/-- The line of a program that a run can be decoded from: one whose lease lives, or one fetched for this start alone (R57, R58, R61). -/
def State.codeLine (s : State) (a : RunAt) (line : Nat) (key : BitVec 16) : Option CLine :=
  match (s.core a.core).icache.find? (fun x => x.line == line && x.gkid == key && decide (s.nowAt a.core < x.lend)) with
  | some x => some x
  | none => ((s.core a.core).once.find? fun o => o.1 == a.ctx && o.2.1 == a.start && o.2.2.line == line && o.2.2.gkid == key).map
    fun o => o.2.2
/-- A word of a team's program, at `p`, of the instruction at `ip` (R46, R17, R61): a hit consults nothing else (R16). -/
def State.fetchWord (s : State) (a : RunAt) (ip p : DWord) : Fetched :=
  let ea := relocate a.team.apx p
  let line := vaOf ea / 64
  let key := locketGkid a.team.keys ea
  if !locketOk a.team.keys ea 3 then .fault cExecute 0 ea
  else match s.codeLine a line key with
  | some x => .word (wd (lineGet x.data (vaOf ea % 64) 4))
  | none =>
    match (s.core a.core).refused.find? (fun r => r.1 == line && r.2.1 == key && r.2.2.1 == a.team.dom) with
    | some r => if r.2.2.2 = 256 then .fault cRegion 0 ea else .fault cCancelled r.2.2.2 ea
    | none => .miss ea ip
/-- A run as decoded: its words, or what stands in the way of its first instruction. -/
inductive RunCode where
  | words (ws : List Word)
  | fault (cause detail : Nat) (addr : DWord)
  | miss (ea ip : DWord)
  deriving DecidableEq, Repr
/-- The words are of an instruction that ends its run (R141), or of none. -/
def lastOfRun (w : Word) (w2 : Option Word) : Bool :=
  match decodePair w w2 with
  | .ok i => endsRun i
  | .error _ => true
/-- The words of the next `n` instructions from `p` on (R141, R143); a fault ends the words before it. -/
def State.fetchRun (s : State) (a : RunAt) (n : Nat) (p : DWord) (acc : List Word) : RunCode :=
  let stop := fun (f : RunCode) => if acc = [] then f else .words acc
  match n with
  | 0 => .words acc
  | k + 1 =>
    match s.fetchWord a p p with
    | .fault c d e => stop (.fault c d e)
    | .miss ea ip => .miss ea ip
    | .word w =>
      if isPrefix w then
        match s.fetchWord a p (ptrAdd p 4) with
        | .fault c d e => stop (.fault c d e)
        | .miss ea ip => .miss ea ip
        | .word v =>
          if lastOfRun w (some v) then .words (acc ++ [w, v]) else State.fetchRun s a k (ptrAdd p 8) (acc ++ [w, v])
      else if lastOfRun w none then .words (acc ++ [w])
      else State.fetchRun s a k (ptrAdd p 4) (acc ++ [w])
/-- A refusal at or behind the words of a run is forgotten once it has been met (R35). -/
def State.meetRefusal (s : State) (core : Nat) (t : Team) (p : DWord) (words : Nat) : State :=
  let lines := (List.range (words + 2)).map fun (k : Nat) => vaOf (relocate t.apx (ptrAdd p (4 * k))) / 64
  s.modCore core fun k => { k with refused := k.refused.filter fun r => !(lines.contains r.1 && r.2.2.1 == t.dom) }
/-- Lines that a run was decoded from become the most recently used; lines fetched without a lease are held no longer (R53, R58, R61). -/
def State.useIcache (s : State) (core : Nat) (t : Team) (p : DWord) (words : Nat) : State :=
  let lines := (List.range words).map fun (k : Nat) => vaOf (relocate t.apx (ptrAdd p (4 * k))) / 64
  s.modCore core fun k =>
    let used := k.icache.filter fun x => lines.contains x.line
    { k with icache := used ++ k.icache.filter (fun x => !lines.contains x.line), once := [] }
/-- The fetch of a line sets out, for the instruction at `ip` of the run that would start with a candidate (R31, R143). -/
def State.askFetch (s : State) (core : Nat) (t : Team) (c : Cand) (ea ip : DWord) : State :=
  let n := s.newId
  let r := { reqAt (reqOf s.dev.no t c.ref.ctx core (.fetch core c.ref) ip c.pc) t ea (hostForm ip) with id := n.1, acc := .fetch }
  (n.2.modCore core fun k => { k with fetching := k.fetching ++ [r] }).toSlice r none
/-- A run starts with the candidate `t0` first, or what keeps it from starting takes place (R143, R144, R187). -/
def State.startRun (s : State) (core : Nat) (cs : List Cand) (t0 : Cand) : State :=
  match s.team? t0.ref.ctx with
  | none => s
  | some t =>
    if t0.pc.toNat % 4 ≠ 0 then s.takeFault t0.ref cIllegal 0 0 t0.pc
    else match s.fetchRun ⟨core, t0.ref.ctx, t, t0.pc⟩ 24 t0.pc [] with
    | .fault c d a => (s.meetRefusal core t t0.pc 0).takeFault t0.ref c d a t0.pc
    | .miss ea ip => s.askFetch core t t0 ea ip
    | .words ws =>
      let bound := ws.any isUniform
      let set := gather cs t0 bound
      let n := s.newId
      let s := ((n.2.meetRefusal core t t0.pc ws.length).useIcache core t t0.pc ws.length).eachThread set fun x => { x with st := .running }
      s.modCore core fun k => { k with runs := k.runs ++ [⟨n.1, bound, t0.pc, ws, set, 0, t0.jo, none⟩] }
/-- A fetch keeps the picker from choosing: its thread is not suspended by a negative reply (R143, R150). -/
def State.fetchBlocks (s : State) (r : Req) : Bool :=
  match r.client with
  | .fetch _ q => match s.thread? q with
    | some x => x.st != .suspended
    | none => false
  | _ => true
/-- The candidate that the picker starts the next run with (R143, R179): none while a fetch is under way, without a free place, or without
room for a fetch (R2); a start for which a line was fetched without a lease goes on first (R61). -/
def State.picks (s : State) (core : Nat) (cs : List Cand) : Option Cand :=
  let k := s.core core
  if 8 ≤ k.runs.length ∨ k.fetching.any s.fetchBlocks = true ∨ missRoom ≤ s.outstanding core then none
  else
    let mine := cs.filter fun c => k.once.any fun o => o.1 == c.ref.ctx && o.2.1 == c.pc
    firstCand s.cycle (if mine = [] then cs else mine)
/-- RUN_START (R143): the picker fills a free place. -/
def execRunStart (core : Nat) (s : State) : Host.Outcome State Fault Refusal :=
  if 384 ≤ core then .fault .noSuchUnit
  else
    let s := s.wakeParked core
    let cs := s.cands core
    match s.picks core cs with
    | none => .next s
    | some t0 => .next (s.startRun core cs t0)
/-- ICACHE_FILL (R61, R143, R150): the line or its refusal arrives; a negative reply suspends the thread that the fetch is for. -/
def execIcacheFill (r : Req) (res : FillRes) (s : State) : Host.Outcome State Fault Refusal :=
  match r.client with
  | .fetch core q =>
    if !((s.core core).fetching.any fun q => q.id == r.id) then .next s
    else if res = .held then .next (s.modThread q fun x => if x.st = .ready then { x with st := .suspended } else x)
    else
      let s := s.modThread q fun x => if x.st = .suspended then { x with st := .ready, since := s.cycle } else x
      .next (s.modCore core fun k =>
        let k := { k with fetching := k.fetching.filter fun q => q.id != r.id }
        match res with
        | .filled g lend =>
          let x : CLine := ⟨reqLine r, r.gkid, lend, 0, g.data, g.tag⟩
          if lend = 0 then { k with once := k.once ++ [(r.ctx.toNat, r.next, x)] } else { k with icache := icachePut k.icache x }
        | .region => { k with refused := k.refused ++ [(reqLine r, r.gkid, r.dom, 256)] }
        | .denied c => { k with refused := k.refused ++ [(reqLine r, r.gkid, r.dom, c.toNat)] }
        | .held => k)
  | _ => .fault .noSuchUnit
/-- BOUND_STALL_EXPIRY (R144): an issue set still stalled after 64 cycles gives up its run place. -/
def execBoundStallExpiry (core rid : Nat) (s : State) : Host.Outcome State Fault Refusal :=
  match (s.core core).runs.find? (fun r => r.rid == rid) with
  | none => .next s
  | some r =>
    match r.stall with
    | none => .next s
    | some (c, began) =>
      if s.stallOk core r.set c then .next s
      else if s.cycle < began + 64 then
        .next (if s.due.any (fun d => d.2 == .boundStallExpiry core rid) then s
          else s.postAt (2 * (began + 64)) (.boundStallExpiry core rid))
      else
        .next ((s.eachThread r.set fun x => { x with st := .parked c true, pc := r.pc }).modCore core fun k =>
          { k with runs := k.runs.filter fun q => q.rid != rid })

/-! ## Fills -/

/-- LANE_STORE_FILL (R55): the line asked for arrives; bytes that were pushed meanwhile stay (R364). -/
def execLaneStoreFill (r : Req) (data : Line) (s : State) : Host.Outcome State Fault Refusal :=
  match r.client with
  | .lane q =>
    match (s.core r.core).laneAsked.find? (fun a => a.1 == q && a.2.2 == r.id), s.group? q.ctx q.grp with
    | some a, some g =>
      let old : LaneLine := ((s.core r.core).laneLine q a.2.1).getD ⟨g.lane q.idx, q, a.2.1, 0, 0, 0⟩
      .next ((s.modCore r.core fun k => { k with laneAsked := k.laneAsked.erase a }).laneInsert r.core
        { old with data := lineMerge data old.data old.valid, valid := BitVec.allOnes 64 })
    | _, _ => .next s
  | _ => .fault .noSuchUnit

/-! ## Replies to global requests -/

/-- The thread is suspended for this request. -/
def Thread.awaits (x : Thread) (r : Req) : Bool :=
  x.st == .suspended && x.pc == r.pc &&
    (x.arr == some (.checked r.id) || x.loads.any (fun l => l.id == r.id) || x.stores.any (fun p => p.1 == r.id))
/-- Someone still waits for the request's outcome. -/
def State.awaited (s : State) (r : Req) : Bool :=
  match r.client with
  | .fetch core _ => (s.core core).fetching.any fun q => q.id == r.id
  | .stash cl bank _ => s.stashFilling cl bank (match s.stashOf cl r.va.toNat with
    | some x => x.2.2.2
    | none => 0)
  | .engine id => match s.cmd? id with
    | some (_, c) => c.asked == some r.id
    | none => false
  | .net fn qp =>
    ((s.qp fn qp).sends ++ (s.qp fn qp).pending).any fun w => w.asked == some r.id
  | .lane q => ((s.core r.core).laneAsked ++ (s.core r.core).laneWb).any fun a => a.1 == q && a.2.2 == r.id
  | .agent id => s.mail.any fun m => m.id == id
  | c => (clientThreads c).any fun q => match s.thread? q with
    | some x => x.awaits r
    | none => false
/-- A passing verdict (R149): a load's or store's thread is ready at the next instruction; an atomic's waits for its value, a stash's
checks go on. -/
def State.verdictPass (s : State) (r : Req) : State :=
  match r.client, r.acc with
  | .stashSet _ _ _, _ => s.stashPassed r
  | _, .atomic _ => s
  | _, _ => s.eachThread (clientThreads r.client) fun x =>
    if x.awaits r then { x with st := .ready, pc := r.next, since := s.cycle } else x
/-- A failing verdict (R17, R35, R150): the threads trap at the instruction. -/
def State.verdictFail (s : State) (r : Req) (cause detail : Nat) : State :=
  let qs := (clientThreads r.client).filter fun q => match s.thread? q with
    | some x => x.awaits r
    | none => false
  let s := s.eachThread qs fun x =>
    { x with loads := x.loads.filter fun l => l.id != r.id, stores := x.stores.filter fun p => p.1 != r.id, arr := none }
  s.takeFaults (qs.map fun q => (q, cause, detail, reqEa r)) r.pc
/-- The outcome of an agent's request is noted; the network block, which has no step of its own for it, goes on (R119). -/
def State.mailCame (s : State) (id : Nat) (st : MailSt) : State :=
  match s.mail.find? (fun m => m.id == id) with
  | none => s
  | some m => if m.agent < 384 then s.mailNote id st else (s.mailNote id st).netGoesOn (m.agent - 384)
/-- VERDICT_ARRIVAL (R148 to R150): under a negative reply the requester goes on waiting. -/
def execVerdictArrival (r : Req) (v : Verdict) (s : State) : Host.Outcome State Fault Refusal :=
  if s.awaited r = false ∨ v = .held then .next s
  else match r.client with
  | .engine id => .next (if v = .pass then s else s.cmdRefused id r)
  | .net fn qp => .next (if v = .pass then s else s.netRefused fn qp r)
  | .agent id => .next (match v with
    | .pass => if r.size = 0 then s.mailCame id (.done [] 0) else s
    | .region => s.mailCame id (.refused 0)
    | .cancelled c => s.mailCame id (.refused c)
    | .held => s)
  | _ => .next (match v with
    | .held => s
    | .pass => s.verdictPass r
    | .region => s.verdictFail r cRegion 0
    | .cancelled c => s.verdictFail r cCancelled c.toNat)
/-- A thread receives its load's data (R105, R149, R285); its tag enters what a later acquire fence takes in (R106). -/
def Thread.loadArrives (x : Thread) (r : Req) (v : Nat) (tag : Nat) : Thread :=
  match x.loads.find? (fun l => l.id == r.id) with
  | none => x
  | some l =>
    let x := { x with loads := x.loads.filter fun l => l.id != r.id }
    let x := if l.uniform then x else x.setRs l.dst l.n v
    let x := x.tagged tag
    if l.acq then x.acquire tag r.scope.toNat else x
/-- LOAD_DATA_ARRIVAL (R149). -/
def execLoadDataArrival (r : Req) (g : Grant) (_lend _ver : Nat) (s : State) : Host.Outcome State Fault Refusal :=
  let v := lineGet g.data (r.va.toNat % 64) r.size
  match r.client with
  | .thread q => .next (s.modThread q fun x => x.loadArrives r (loaded r.szc v) g.tag.toNat)
  | .group ctx grp idxs =>
    let qs := idxs.map fun i => (⟨ctx, grp, i⟩ : ThreadRef)
    if (qs.any fun q => match s.thread? q with
        | some x => x.loads.any fun l => l.id == r.id
        | none => false) then
      .next ((s.eachThread qs fun x => x.loadArrives r v g.tag.toNat).modGroup ctx grp fun q => (q.setG r.dst (dw v)).rejoinAll s.cycle)
    else .next s
  | .engine id => .next (s.cmdData id r g)
  | .net fn qp => .next (s.netData fn qp r g)
  | .agent id => .next (s.mailCame id (.done (toBytes r.size v) g.tag.toNat))
  | _ => .next s
/-- STORE_REPLY (R100, R101). -/
def execStoreReply (r : Req) (w : Nat) (s : State) : Host.Outcome State Fault Refusal :=
  match r.client with
  | .engine id => .next (s.cmdAccepted id r w)
  | .net fn qp => .next (s.netAccepted fn qp r)
  | .agent id => .next (s.mailCame id (.done [] w))
  | .lane _ => .next (s.modCore r.core fun k => { k with laneWb := k.laneWb.filter fun a => a.2.2 != r.id })
  | c => .next (s.eachThread (clientThreads c) fun x =>
    if (x.stores.any fun p => p.1 == r.id) then { x.adopt w with stores := x.stores.filter fun p => p.1 != r.id } else x)
/-- A thread receives its atomic's old value (R101, R105, R149, R287). -/
def Thread.atomicArrives (x : Thread) (r : Req) (w : Nat) (tag : Nat) (now : Nat) : Thread :=
  let x := { x.adopt w with stores := x.stores.filter fun p => p.1 != r.id, st := .ready, pc := r.next, since := now }
  let x := x.tagged tag
  if r.order.toNat % 2 = 1 then x.acquire tag r.scope.toNat else x
/-- ATOMIC_RESULT_ARRIVAL (R149). -/
def execAtomicResultArrival (r : Req) (old : BitVec 128) (w : Nat) (tag : DWord) (s : State) : Host.Outcome State Fault Refusal :=
  match r.client with
  | .thread q => .next (s.modThread q fun x =>
    if x.awaits r then (x.setRs r.dst (r.size / 4) old.toNat).atomicArrives r w tag.toNat s.cycle else x)
  | .group ctx grp idxs =>
    if s.awaited r then
      .next ((s.eachThread (idxs.map fun i => ⟨ctx, grp, i⟩) fun x =>
        if x.awaits r then x.atomicArrives r w tag.toNat s.cycle else x).modGroup ctx grp fun q => (q.setG r.dst (dw old.toNat)).rejoinAll s.cycle)
    else .next s
  | .agent id => .next (s.mailCame id (.done (toBytes r.size old.toNat) w))
  | _ => .next s
/-- RETRY_REISSUE (R30): the requester sends the request again, if it is still waited for: by its slice, or to the home directly. -/
def execRetryReissue (r : Req) (s : State) : Host.Outcome State Fault Refusal :=
  if !s.awaited r then .next s
  else if r.direct then .next (s.toHome r)
  else .next (s.toSlice r none)

/-! ## Poison and illegal words -/

/-- POISON_CONSUMED (R367, R408): the context's grid is killed. -/
def execPoisonConsumed (t : ThreadRef) (s : State) : Host.Outcome State Fault Refusal :=
  match s.team? t.ctx, s.group? t.ctx t.grp with
  | some tm, some g =>
    let a := s.free
    let b := a.2.free
    .next (b.2.killGrid tm.grid 7 0xFE (BitVec.ofNat 64 a.1.toNat) (BitVec.ofNat 64 b.1.toNat) t.ctx g.core)
  | _, _ => .next s
/-- ILLEGAL_WORD (R196, R197): every thread of the issue set takes the illegal-instruction fault. -/
def execIllegalWord (w : Word) (w2 : Option Word) (s : State) : Host.Outcome State Fault Refusal :=
  match s.run? with
  | none => .next s
  | some (_, r) =>
    .next ((s.dropRun).takeFaults (r.set.map fun q => (q, cIllegal, 0, wordsAddr (w :: w2.toList))) r.pc)

end Sys2Proof.Machine
end

