-- ==== Sys2Proof/Machine/Image.lean ====
section
/-! DEFINITION. The context image (R157 to R163, R328, R374, R375): its bytes when a team departs, when it is created (R164), and read back
when it resumes (R377). -/

namespace Sys2Proof.Machine

/-! ## Pod memory by pages, with the dispatcher's own right (R157) -/

/-- The page of an address as the dispatcher of a partition can use it at once, with its home: on this device, mapped, not at tier 1, not
switching, and none of its lines on its way. -/
def State.pageQuiet (s : State) (part va : Nat) : Option Nat :=
  match s.ownHome (s.seat part) va with
  | none => none
  | some h => match s.pte? h (va / 65536) with
    | none => none
    | some (w0, _) =>
      if pTier w0 ≠ 1 ∧ (s.home h).busyPage (va / 65536) = false ∧ ((s.home h).pageLines (va / 65536)).all (fun l => s.lineFree h l true) = true then
        some h
      else none
/-- A request that was refused is forgotten: the access can ask again. -/
def State.mailAgain (s : State) (part : Nat) (m : Mail) : State :=
  match s.mailFor m.agent m.va m.n m.acc m.bytes with
  | some k => match k.st with
    | .refused _ => (s.mailDrop k.id).mailAsk part m
    | _ => s
  | none => s.mailAsk part m
/-- Bytes within one line written to an image now, or sent to its home. -/
def State.imagePiece (s : State) (part va : Nat) (bs : List Byte) : State :=
  match s.pieceWrite part va bs with
  | some s => s
  | none => s.mailAgain part ⟨0, part, va, bs.length, .store, 0, 0, bs, 0, .asked⟩
/-- Bytes written from an address on, line after line. -/
def State.imageWrite (s : State) (part fuel va : Nat) (bs : List Byte) : State :=
  match fuel with
  | 0 => s
  | k + 1 =>
    if bs.isEmpty then s
    else
      let m := min bs.length (64 - va % 64)
      State.imageWrite (s.imagePiece part va (bs.take m)) part k (va + m) (bs.drop m)
/-- Bytes of an image written from an address on: what cannot be written at once is on its way (`imageQuiet`). -/
def State.imagePut (s : State) (part va : Nat) (bs : List Byte) : State := s.imageWrite part (bs.length / 64 + 2) va bs
/-- The dispatcher's own writes to a range that their homes have not performed. -/
def State.imageMoves (s : State) (part va n : Nat) : List Mail :=
  s.mail.filter fun m => m.agent == part && m.acc == .store && decide (va ≤ m.va) && decide (m.va < va + n) && match m.st with
    | .done _ _ => false
    | _ => true
/-- The writes to a range that were refused set out again: the page may be there now. -/
def State.imageRetry (s : State) (part va n : Nat) : State := (s.imageMoves part va n).foldl (fun s m => s.mailAgain part m) s
/-- Writes to a range that have been performed are forgotten. -/
def State.imageDone (s : State) (part va n : Nat) : State :=
  { s with mail := s.mail.filter fun m => !(m.agent == part && m.acc == .store && decide (va ≤ m.va) && decide (m.va < va + n)) }
/-- Bytes read from an address on; zeros where they are not to be had now (`imageHeld` says that they are). -/
def State.imageGet (s : State) (part va n : Nat) : List Byte := (s.podRead part (n / 64 + 2) va n).getD (List.replicate n 0)
/-- The pages of a range. -/
def pagesOf (va n : Nat) : List Nat := (List.range ((n + 65535) / 65536)).map fun k => va + 65536 * k
/-- The lines of a page. -/
def linesOf (va : Nat) : List Nat := (List.range 1024).map fun k => va + 64 * k
/-- A range can be read. -/
def State.imageHeld (s : State) (part va n : Nat) : Bool :=
  (pagesOf va n).all fun p => (s.pageQuiet part p).isSome || (linesOf p).all fun a => (s.pieceRead part a 64).isSome
/-- What cannot be read of a range is asked for. -/
def State.imageAsk (s : State) (part va n : Nat) : State :=
  ((pagesOf va n).filter fun p => (s.pageQuiet part p).isNone).foldl (fun s p => (linesOf p).foldl (fun s a =>
    if (s.pieceRead part a 64).isSome then s else s.mailAgain part ⟨0, part, a, 64, .load, 0, 0, [], 0, .asked⟩) s) s
/-- A line of zeros. -/
def zeroLine : List Byte := List.replicate 64 0
/-- A range can be zeroed: its pages can be used at once, or their lines have been zeroed on request. -/
def State.zeroHeld (s : State) (part va n : Nat) : Bool :=
  (pagesOf va n).all fun p => (s.pageQuiet part p).isSome || (linesOf p).all fun a => (s.pieceWrite part a zeroLine).isSome
/-- The lines of a range that cannot be zeroed at once are asked for. -/
def State.zeroAsk (s : State) (part va n : Nat) : State :=
  ((pagesOf va n).filter fun p => (s.pageQuiet part p).isNone).foldl (fun s p => (linesOf p).foldl (fun s a =>
    if (s.pieceWrite part a zeroLine).isSome then s else s.mailAgain part ⟨0, part, a, 64, .store, 0, 0, zeroLine, 0, .asked⟩) s) s
/-- A page zeroed: every copy comes back to its home first. -/
def State.zeroPage (s : State) (part va : Nat) : State :=
  match s.pageQuiet part va with
  | none => (linesOf va).foldl (fun s a => s.imagePiece part a zeroLine) s
  | some h =>
    let vpn := va / 65536
    let s := ((s.home h).pageLines vpn).foldl (fun s l =>
      let s := s.takeBack h l false
      s.modEntry h l fun e => { e with wl := wTime false (s.nowHome h) e.wl e.fd (max e.fr e.rl) 0 }) s
    match s.pte? h vpn with
    | some (w0, w1) =>
      if pTier w0 = 0 then { s with hbm := s.hbm.zero (chan h (pFrame w1 % 65536 * 65536)) 65536 }
      else { s with host := s.host.zero (pFrame w1 * 65536) 65536 }
    | none => s

/-! ## The header (R159, R160) -/

/-- Words as bytes, low byte first. -/
def words8 (ws : List Nat) : List Byte := ws.flatMap fun w => toBytes 8 w
/-- The WIDTH code (R159, R171). -/
def widthCode (w : Nat) : Nat := if w = 16 then 0 else if w = 32 then 1 else 2
/-- KFLAGS (R159). -/
def Team.kflags (t : Team) (resident : Bool) : Nat :=
  widthCode t.width + (t.roles.length - 1) * 4 + (t.afact - 1) * 16 + oneIf t.prog * 64 + oneIf t.cset * 128 + oneIf t.pspan * 256 +
    oneIf t.prot * 512 + oneIf resident * 1024
/-- A role descriptor (R160). -/
def Role.words (r : Role) : List Nat := [r.groups + r.vregs * 2 ^ 16 + r.tiles * 2 ^ 24 + r.strips * 2 ^ 32, r.priv]
/-- The header of a team's image (R159); `mode`s of the window as `bmap` reports them. -/
def Team.header (t : Team) (ctx : Nat) (gridid : DWord) (resident : Bool) (window : List Nat) : List Byte :=
  words8 [1 + imageSize t.roles t.width / 65536 * 2 ^ 32,
    ctx % 2 ^ 32 + t.dom.toNat * 2 ^ 32 + t.part % 64 * 2 ^ 48 + t.queue % 16 * 2 ^ 56, gridid.toNat, t.teamid, t.entry.toNat,
    t.tvec.toNat, t.kflags resident, t.core, t.depart, t.apx.toNat, 0, 0] ++
  words8 ((List.range 4).flatMap fun k => match t.roles[k]? with
    | some r => r.words
    | none => [0, 0]) ++
  words8 ((List.range 9).map fun k => areaOff t.roles t.width (k + 1)) ++ words8 [0, 0, 0] ++
  ((List.range 16).flatMap fun k => toBytes 4 (t.keys.getD k 0).toNat) ++ words8 window ++ List.replicate 576 0
/-- The window as saved (R159, R375). -/
def Team.savedWindow (t : Team) : List Nat := (List.range 16).map fun k => (t.slot k).bmap.toNat

/-! ## Records (R160, R161, R163) -/

/-- A group record (R160). -/
def Group.record (g : Group) : List Byte :=
  words8 ((List.range 64).map fun k => (g.gr k).toNat) ++
  words8 [g.jo + g.frm.toNat * 8 + oneIf g.ftz * 64 + oneIf g.daz * 128 + g.role % 4 * 256, g.jxf.toNat, 0, 0, 0, 0, 0, 0]
/-- The saved state of a thread (R161, R371). -/
def Thread.savedState (x : Thread) : Nat :=
  match x.st with
  | .notStarted => 0
  | .exited => 3
  | .waiting _ => 2
  | .parked (.instances) _ => 2
  | .parked (.bart) _ => 2
  | .parked (.bars) _ => 2
  | .parked (.syncw _ _ _ _) _ => 2
  | .parked (.bwait _) _ => 2
  | .parked (.counter _ _) _ => 2
  | .parked (.give _) _ => 2
  | _ => 1
/-- A thread record (R161). -/
def Thread.record (x : Thread) : List Byte :=
  toBytes 12 x.p.toNat ++ toBytes 4 (x.savedState + oneIf x.handler * 4 + x.q0.length * 8 + x.q1.length * 128) ++
  words8 [x.pc.toNat, x.hzg, x.hzn.toNat, x.faddr.toNat, x.fpc.toNat, x.fcause.toNat % 2 ^ 32 + x.top * 2 ^ 32]
/-- A `qsf` record (R163). -/
def Thread.qsfRecord (x : Thread) : List Byte :=
  let lev := fun (q : List QsfEntry) => (List.range 8).flatMap fun k => toBytes 4 (match q[k]? with
    | some e => e.v.toNat
    | none => 0)
  lev x.q0 ++ lev x.q1
/-- A pod pointer as it was pushed (R163, R31). -/
def pushedWord (host : Bool) (w : DWord) : Nat := if host then w.toNat % 2 ^ 47 else w.toNat
/-- The record of a command (R163). -/
def Cmd.record (c : Cmd) : List Byte :=
  let ws := (List.range 6).map fun k => if k = 0 then pushedWord c.relocs.1 (wordAt c.words 0)
    else if k = 1 then pushedWord c.relocs.2 (wordAt c.words 1) else (wordAt c.words k).toNat
  words8 ws ++ toBytes 8 c.delivered ++ toBytes 8 c.cls
/-- The open `qpush` chain as an unfinished record (R351): the words so far, and the class of its queue. -/
def chainRecord (c : Nat × List DWord) : List Byte :=
  words8 ((List.range 6).map fun k => (wordAt c.2 k).toNat) ++ toBytes 8 0 ++
    toBytes 8 (if c.1 = 2 then 0 else if c.1 = 3 then 2 else if c.1 = 4 then 3 else 1)
/-- The record of a matrix operation (R328). -/
def MmaOp.record (o : MmaOp) : List Byte :=
  let pair := fun (s : Nat) (d : DWord × DWord) => if 16 ≤ s then [d.1.toNat, d.2.toNat] else [0, 0]
  words8 (pair o.sa o.da ++ pair o.sb o.db ++ [0, 0]) ++
  toBytes 8 (o.word.toNat + (o.octets.foldl (fun a q => a + 2 ^ q) 0) * 2 ^ 32 + o.seq % 2 ^ 16 * 2 ^ 48) ++ toBytes 8 1
/-- A group engine record (R163): `recs` are its commands and operations, oldest first. -/
def Group.engineRecord (g : Group) (recs : List (List Byte)) : List Byte :=
  let q := fun (k : Nat) => (g.queues.getD k []).take 16
  let n := fun (k : Nat) => (q k).length
  ((List.range 8).map fun k => BitVec.ofNat 8 (if k < 4 then g.cnt.getD k 0 else 0)) ++
  toBytes 8 (n 1 + n 2 * 2 ^ 8 + n 3 * 2 ^ 16 + n 4 * 2 ^ 24) ++ List.replicate 48 0 ++
  ([1, 2, 3, 4].flatMap fun k => (List.range 16).flatMap fun j => toBytes 8 ((q k).getD j 0).toNat) ++
  ((recs.take 64).flatMap id) ++ List.replicate (64 * (64 - (recs.take 64).length)) 0

/-! ## Saving (R328, R375, R376) -/

/-- Records of a group's commands and matrix operations, oldest first, then of its open chain (R163, R351). -/
def State.groupWork (s : State) (ctx grp : Nat) (core : Nat) : List (List Byte) :=
  let chain := match s.group? ctx grp with
    | some g => (g.chain.map chainRecord).toList
    | none => []
  let cs := ((s.cluster (clusterOf core)).cmds.filter fun c => c.ctx == ctx && c.grp == grp).map fun c => (c.id, c.record)
  let os := ((s.core core).mq.filter fun o => o.ctx == ctx && o.grp == grp).map fun o => (o.id, o.record)
  (((cs ++ os).mergeSort fun a b => decide (a.1 ≤ b.1)).map fun p => p.2) ++ chain
/-- 16 threads of a vector register, from thread `i` on. -/
def Group.vecLine (g : Group) (n i : Nat) : List Byte :=
  (List.range 16).flatMap fun j => toBytes 4 (match g.threads.find? (i + j) with
    | some x => (x.r n).toNat
    | none => 0)
/-- Where a register-cache line stands in its team's image, and its content (R154, R162). -/
def State.rcImage (s : State) (t : RcTag) : Option (Nat × Nat × List Byte) :=
  match s.team? t.ctx, s.group? t.ctx t.grp with
  | some m, some g =>
    let area := fun (k : Nat) => m.image + areaOff m.roles m.width k
    let line := fun (bs : List Byte) => (bs.drop (64 * t.reg)).take 64
    some (m.part, match t.area with
      | .uniform => (area 1 + 576 * t.grp + 64 * t.reg, line g.record)
      | .thread => (area 2 + 64 * (m.width * t.grp + t.reg), match g.threads.find? t.reg with
        | some x => x.record
        | none => List.replicate 64 0)
      | .vector => (area 3 + sumBefore m.roles (fun r => r.vregs * m.width * 4) t.grp + (t.reg * m.width + 16 * t.blk) * 4,
          g.vecLine t.reg (16 * t.blk))
      | .engine => (area 6 + 4672 * t.grp + 64 * t.reg, line (g.engineRecord (s.groupWork t.ctx t.grp g.core))))
  | _, _ => none
/-- What a register-cache line has that its image has not: where it goes, and its bytes (R154). -/
def State.rcDirty (s : State) (t : RcTag) : Option (Nat × Nat × List Byte) :=
  match s.rcImage t with
  | some (part, a, bs) => if s.pieceRead part a 64 = some bs then none else some (part, a, bs)
  | none => none
/-- The areas from the uniform to the engine area (R158, R162). -/
def State.imageBody (s : State) (ctx : Nat) (t : Team) : List Byte :=
  let gs := t.groups.map fun p => p.2
  let vec := fun (g : Group) => (List.range (t.role g).vregs).flatMap fun n => (List.range t.width).flatMap fun i =>
    toBytes 4 (match g.threads.find? i with
      | some x => (x.r n).toNat
      | none => 0)
  let tile := fun (g : Group) => (List.range ((t.role g).tiles * 16384)).map fun k => g.tiles.getD k 0
  let strip := fun (g : Group) => (List.range ((t.role g).strips * 1024)).flatMap fun k => toBytes 4 (g.strips.getD k 0).toNat
  gs.flatMap Group.record ++ gs.flatMap (fun g => g.threads.flatMap fun x => x.2.record) ++ gs.flatMap vec ++ gs.flatMap tile ++
    gs.flatMap strip ++ (t.groups.flatMap fun p => p.2.engineRecord (s.groupWork ctx p.1 p.2.core)) ++
    gs.flatMap (fun g => g.threads.flatMap fun x => x.2.qsfRecord)
/-- A slot's bank in the bank save area (R375): whole, or for a stash its descriptor and what lies above its range. -/
def State.saveSlot (s : State) (t : Team) (k : Nat) : State :=
  let q := t.slot k
  let a := t.image + areaOff t.roles t.width 8 + 131072 * k
  let bank := fun (o : Nat) => toBytes (131072 - o) (s.bankGet (clusterOf t.core) q.bank o (131072 - o))
  match q.mode with
  | .empty => s
  | .stash => match q.stash with
    | some r => (s.imagePut t.part a (words8 [r.ptr.toNat, r.len + oneIf r.wr * 2 ^ 32])).imagePut t.part (a + r.len) (bank r.len)
    | none => s
  | _ => s.imagePut t.part a (bank 0)
/-- The dirty lane-store lines of a team set out for its image, and are clean (R376). -/
def State.lanesBack (s : State) (ctx : Nat) : State :=
  s.cores.foldl (fun s k => (k.2.lanes.filter fun x => x.owner.ctx == ctx && x.dirty != 0).foldl (fun s x =>
    (s.laneBack k.1 x).modCore k.1 fun c => { c with lanes := c.lanes.map fun y => if y = x then { y with dirty := 0 } else y }) s) s
/-- A departing team written to its image, all but the header: lane-store lines, areas, banks, the head of the array save image. -/
def State.saveBody (s : State) (ctx : Nat) (t : Team) : State :=
  let s := s.lanesBack ctx
  let s := s.imagePut t.part (t.image + 1024) (s.imageBody ctx t)
  let s := (List.range 16).foldl (fun s k => s.saveSlot t k) s
  let arr := areaOff t.roles t.width 9
  if areaOff t.roles t.width 10 = arr then s
  else
    let f := s.free
    f.2.imagePut t.part (t.image + arr) (toBytes 8 (1 + f.1.toNat % 655361 * 2 ^ 32))
/-- Then the header (R159, R376). -/
def State.saveHeader (s : State) (ctx : Nat) (t : Team) (gridid : DWord) : State :=
  s.imagePut t.part t.image (t.header ctx gridid false t.savedWindow)
/-- Nothing of a team's image is on its way: no write of the dispatcher, no lane-store line (R376). -/
def State.imageQuiet (s : State) (ctx : Nat) (t : Team) : Bool :=
  (s.imageMoves t.part t.image (imageSize t.roles t.width)).isEmpty && s.cores.all fun k => k.2.laneWb.all fun w => w.1.ctx != ctx
/-- A new team's image (R164): the header, every other area zero. -/
def State.newImage (s : State) (ctx : Nat) (t : Team) (gridid : DWord) : State :=
  let s := (pagesOf t.image (imageSize t.roles t.width)).foldl (fun s p => s.zeroPage t.part p) s
  s.imagePut t.part t.image (t.header ctx gridid true (List.replicate 16 0))

/-! ## The register cache (R154) -/

/-- REGISTER_CACHE_FILL (R154): 16,384 lines, the least recently used leaving, one of an evictable context first. A dirty line is written
to its image before its place is taken: the fill waits for that write. -/
def execRegisterCacheFill (core : Nat) (t : RcTag) (s : State) : Host.Outcome State Fault Refusal :=
  if 384 ≤ core then .fault .noSuchUnit
  else if !(s.core core).rcAsked.contains t then .next s
  else
    let gone := fun (x : RcTag) => match s.team? x.ctx with
      | some t => t.leaving != .no
      | none => true
    let rc := (s.core core).rc.filter fun x => x != t
    let victim := if rc.length < 16384 then none else match rc.reverse.find? gone with
      | some x => some x
      | none => rc.getLast?
    let enter := fun (s : State) => s.modCore core fun k =>
      { k with rcAsked := k.rcAsked.erase t, rc := t :: match victim with
          | some x => rc.erase x
          | none => rc }
    match victim.bind s.rcDirty with
    | none => .next (enter s)
    | some (part, a, bs) => match s.pieceWrite part a bs with
      | some s => .next (enter s)
      | none => .next ((s.imagePiece part a bs).postAt (s.clock + 64) (.registerCacheFill core t))

/-! ## Reading back (R377) -/

/-- `n` bytes of a list from `o` on, as a number. -/
def numAt (bs : List Byte) (o n : Nat) : Nat := ofBytes ((bs.drop o).take n)
/-- A level of `qsf` read back: arrived entries of the values the image holds. -/
def qsfBack (old : List QsfEntry) (bs : List Byte) (n : Nat) : List QsfEntry :=
  (List.range n).map fun k => match old[k]? with
    | some e => { e with v := wd (numAt bs (4 * k) 4) }
    | none => ⟨wd (numAt bs (4 * k) 4), 0, true, 0⟩
/-- A thread read back (R161, R377): a waiting one executes its instruction again; `far`: another core pair than it left (R118). What the
instruction has already come to, a barrier left or a give made, stays with it. -/
def Thread.back (x : Thread) (rec qsf vec : List Byte) (w idx : Nat) (far : Bool) (depart now : Nat) : Thread :=
  let t := numAt rec 12 4
  let hzg := numAt rec 24 8
  let v := (List.range (vec.length / (4 * w))).foldl (fun m n => SMap.store m 0 n (wd (numAt vec ((n * w + idx) * 4) 4))) []
  { x with
    v := v, p := BitVec.ofNat 96 (numAt rec 0 12), pc := dw (numAt rec 16 8)
    st := if t % 4 = 3 then .exited else if t % 4 = 0 then .notStarted else .ready
    handler := bitN t 2, hzg := hzg, hznT := numAt rec 32 8, bankW := [], faddr := dw (numAt rec 40 8), fpc := dw (numAt rec 48 8)
    fcause := dw (numAt rec 56 4), top := numAt rec 60 4, q0 := qsfBack x.q0 (qsf.take 32) (bits t 6 3)
    q1 := qsfBack x.q1 (qsf.drop 32) (bits t 10 7), stores := [], loads := [], since := now
    notBefore := if far then max x.notBefore (max (hzg + 16) (depart + 4096 + 16)) else x.notBefore
    arr := x.arr }
/-- A group read back from the image. -/
def State.groupBack (s : State) (t : Team) (grp : Nat) (g : Group) (far : Bool) : Group :=
  let at_ := fun (k off n : Nat) => s.imageGet t.part (t.image + areaOff t.roles t.width k + off) n
  let w := t.width
  let n := groupCount t.roles
  let r := t.role g
  let rec_ := at_ 1 (576 * grp) 576
  let thr := at_ 2 (64 * w * grp) (64 * w)
  let vec := at_ 3 (sumBefore t.roles (fun r => r.vregs * w * 4) grp) (r.vregs * w * 4)
  let tile := at_ 4 (sumBefore t.roles (fun r => r.tiles * 16384) grp) (r.tiles * 16384)
  let strip := at_ 5 (sumBefore t.roles (fun r => r.strips * 4096) grp) (r.strips * 4096)
  let eng := at_ 6 (4672 * grp) 4672
  let qsf := at_ 6 (4672 * n + 64 * w * grp) (64 * w)
  let gs := numAt rec_ 512 8
  let fill := fun (k : Nat) => bits (numAt eng 8 8) (8 * (k - 1) + 4) (8 * (k - 1))
  let queue := fun (k : Nat) => (List.range (fill k)).map fun j => dw (numAt eng (64 + 128 * (k - 1) + 8 * j) 8)
  { g with
    g := (List.range 64).foldl (fun m k => SMap.store m 0 k (dw (numAt rec_ (8 * k) 8))) []
    jo := gs % 8, frm := BitVec.ofNat 3 (gs / 8), ftz := bitN gs 6, daz := bitN gs 7, jxf := BitVec.ofNat 40 (numAt rec_ 520 8)
    queues := [1, 2, 3, 4].foldl (fun m k => SMap.store m [] k (queue k)) []
    tiles := ((List.range tile.length).zip tile).foldl (fun m p => SMap.store m 0 p.1 p.2) []
    strips := (List.range (strip.length / 4)).foldl (fun m k => SMap.store m 0 k (wd (numAt strip (4 * k) 4))) []
    insts := []
    threads := g.threads.mapVals fun i x =>
      x.back ((thr.drop (64 * i)).take 64) ((qsf.drop (64 * i)).take 64) vec w i far t.depart s.cycle }
/-- A slot read back from WINDOW and the bank save area into bank `b` (R375, R377): its contents, and the slot. -/
def State.slotBack (s : State) (t : Team) (cl k b : Nat) (q : Slot) : Slot × State :=
  let w := dw (numAt (s.imageGet t.part (t.image + 0x140 + 8 * k) 8) 0 8)
  let a := t.image + areaOff t.roles t.width 8 + 131072 * k
  let mode : SlotMode := match dbits w 34 32 with
    | 1 => .priv
    | 2 => .pair
    | 3 => .stash
    | 4 => .front
    | 5 => .shadow
    | _ => .empty
  let q1 := { q with mode := mode, bank := b, peer := dbits w 42 39, acc := dbit w 47, mat := false, arr := dbit w 45, det := dbit w 44
                     drn := false, tag := BitVec.ofNat 16 (dbits w 63 48), stash := none }
  match mode with
  | .empty => ({ q1 with bank := 0 }, s)
  | .stash =>
    let d := s.imageGet t.part a 16
    let len := numAt d 8 8 % 2 ^ 18
    let p := dw (numAt d 0 8)
    ({ q1 with stash := some ⟨p, len, bitN (numAt d 8 8) 32, locketGkid t.keys p, [], [], [], []⟩ },
      s.bankPut cl b len (131072 - len) (numAt (s.imageGet t.part (a + len) (131072 - len)) 0 (131072 - len)))
  | _ => (q1, s.bankPut cl b 0 131072 (numAt (s.imageGet t.part a 131072) 0 131072))
/-- The array save image is of a layout that this part implements, or there is none (R328, R329). -/
def State.arrayKnown (s : State) (t : Team) : Bool :=
  let arr := areaOff t.roles t.width 9
  areaOff t.roles t.width 10 == arr || numAt (s.imageGet t.part (t.image + arr) 8) 0 2 == 1

end Sys2Proof.Machine
end

