-- ==== Sys2Proof/Machine/Depart.lean ====
section
/-! DEFINITION. A team leaves its core and comes back (R181, R349, R371 to R379): the halt of its threads, what is withdrawn, the departure,
and the resumption. -/

namespace Sys2Proof.Machine

/-! ## The halt (R371, R372) -/

/-- What a waiting thread's arrival had counted is taken back (R349, R371). -/
def State.takeArrival (s : State) (q : ThreadRef) (x : Thread) : State :=
  match x.arr with
  | some (.bart cl bank off gen _) =>
    if s.bankGet cl bank (off + 4) 4 = gen then s.bankPut cl bank off 4 (s.bankGet cl bank off 4 - 1) else s
  | some (.syncw cl bank off) =>
    let more := (s.syncWaiters cl bank off).filter fun g => g == (q.ctx, q.grp)
    let others := (s.group? q.ctx q.grp).map fun g => (g.threads.filter fun p => p.2.arr == x.arr).length
    if more ≠ [] ∧ others = some 1 then s.syncPut cl bank off 3 (s.syncGet cl bank off 3 - 1) else s
  | some (.give id) =>
    match s.team? q.ctx with
    | some t => s.modCluster (clusterOf t.core) fun k => { k with gives := k.gives.filter fun g => !(g.id == id && g.dst.isNone) }
    | none => s
  | _ => s
/-- The arrival goes with it, but for a barrier already left, a give already matched, a check under way, or an operation already issued. -/
def State.keepArrival (s : State) (x : Thread) (core : Nat) : Option Arrival :=
  match x.arr with
  | some (.released g h) => some (.released g h)
  | some (.checked n) => some (.checked n)
  | some .mma => some .mma
  | some (.give id) => if (s.cluster (clusterOf core)).gives.any (fun g => g.id == id) then some (.give id) else none
  | _ => none
/-- Threads of a team whose wait is over stand ready. -/
def State.wakeTeam (s : State) (ctx : Nat) : State :=
  match s.team? ctx with
  | some t => s.eachThread (s.resolvedOf ctx t) fun x => { x with st := .ready, since := s.cycle }
  | none => s
/-- Arrivals of a leaving team's waiting threads are withdrawn: the threads still wait, and execute their instruction again on resume. Its
open instances of `barg` and trees are discarded, and the barrier registers of its set return to zero (R299, R349, R371). -/
def State.withdrawArrivals (s : State) (ctx : Nat) : State :=
  let s := s.wakeTeam ctx
  match s.team? ctx with
  | none => s
  | some t =>
    let still := (t.refs ctx).filter fun q => match s.thread? q with
      | some x => x.arr.isSome && x.st != .running
      | none => false
    let s := still.foldl (fun s q => match s.thread? q with
      | some x => (s.takeArrival q x).modThread q fun y => { y with arr := (s.takeArrival q x).keepArrival x t.core }
      | none => s) s
    let open_ := fun (g : Group) => if g.threads.any (fun p => p.2.st == .running) then g.insts else []
    let s := s.modTeam ctx fun t => { t with groups := t.groups.mapVals fun _ g => { g with insts := open_ g } }
    let set := if t.cset then t.leader else ctx
    s.modCluster (clusterOf t.core) fun k => { k with bars := k.bars.filter fun b => b.1 / 4 != set }
/-- A request was made on behalf of a team of device `dev`. -/
def reqOfTeam (dev ctx : Nat) (r : Req) : Bool := r.dev == dev && decide (r.ctx.toNat = ctx) && match r.client with
  | .lane _ => false
  | .net _ _ => false
  | .agent _ => false
  | _ => true
/-- A request of this device that a token of another holds is to leave its held set (R36, R372). -/
def State.withdrawAt (s : State) (dev : Nat) (r : Req) : State :=
  s.toDevice dev r.va.toNat (.withdraw (s.homeOf r.die r.va.toNat).2 r)
/-- Requests of a leaving team that tokens of other devices hold are withdrawn there (R36, R372). -/
def State.withdrawAway (s : State) (ctx : Nat) : State :=
  (s.dev.asked.filter fun a => reqOfTeam s.dev.no ctx a.2.2 && s.dev.heldAway.contains a.2.2.id).foldl (fun s a => s.withdrawAt a.1 a.2.2) s
/-- The halt of a team begins: the picker starts no run for it, and what waits is withdrawn (R371, R372). -/
def State.haltTeam (s : State) (ctx : Nat) (why : Leaving) : State :=
  match s.team? ctx with
  | some t => if t.leaving = .no then ((s.modTeam ctx fun t => { t with leaving := why }).withdrawArrivals ctx).withdrawAway ctx else s
  | none => s

/-- A request is withdrawn: its threads stand ready at the instruction, its command or line can ask again (R36, R372). -/
def State.withdrawReq (s : State) (r : Req) : State :=
  match r.client with
  | .engine id => match s.cmd? id with
    | some (cl, _) => s.modCmd cl id fun c => if c.asked = some r.id then { c with asked := none } else c
    | none => s
  | .fetch core q =>
    (s.modCore core fun k => { k with fetching := k.fetching.filter fun q => q.id != r.id }).modThread q fun x =>
      if x.st = .suspended then { x with st := .ready, since := s.cycle } else x
  | .stash cl _ _ => match s.stashOf cl r.va.toNat with
    | some (ctx, slot, _, i) => s.modStash ctx slot fun q => { q with asked := q.asked.erase i }
    | none => s
  | c => s.eachThread (clientThreads c) fun x =>
    if x.awaits r then
      { x with
        st := .ready, since := s.cycle, arr := none
        loads := x.loads.filter fun l => l.id != r.id
        stores := x.stores.filter fun p => p.1 != r.id }
    else x
/-- Requests of a leaving team that homes hold under a token, or have told to retry, are withdrawn; a token left empty is freed (R36). -/
def State.withdrawHeld (s : State) (ctx : Nat) : State :=
  let mine := reqOfTeam s.dev.no ctx
  let held := s.homes.flatMap fun h => h.2.tokens.flatMap fun t => (t.2.held.filter fun q => mine q.1).map fun q => q.1
  let late := s.due.filterMap fun d => match d.2 with
    | .retryReissue r => if mine r then some r else none
    | _ => none
  let s := (held ++ late).foldl State.withdrawReq s
  let drop := fun (d : Nat × Event) => match d.2 with
    | .retryReissue r => !mine r
    | _ => true
  let empty := fun (t : Nat × Token) => t.2.held.all fun q => mine q.1
  { s with
    due := s.due.filter drop
    homes := s.homes.mapVals fun _ (h : Home) =>
      let gone := (h.tokens.filter empty).map fun t => t.1
      { h with
        tokens := SMap.mapVals (List.filter (fun t => !empty t) h.tokens) fun _ t => { t with held := t.held.filter fun q => !mine q.1 }
        gens := gone.foldl (fun g k => SMap.store g 0 k ((SMap.getD g k 0 + 1) % 2 ^ 22)) h.gens } }

/-! ## The departure (R371 to R376, R379) -/

/-- Threads of a team have come to rest: no run, request, write or result of theirs is under way. -/
def State.threadsRest (s : State) (ctx : Nat) (t : Team) : Bool :=
  !(s.cores.any fun k => k.2.runs.any fun r => r.set.any fun q => q.ctx == ctx) &&
  t.groups.all fun g => g.2.threads.all fun x =>
    x.2.st != .running && x.2.st != .suspended && x.2.loads.isEmpty && x.2.stores.isEmpty && x.2.bankW.isEmpty && x.2.sfxDone
/-- No fetch or lane-store fill of a team is under way (R372). -/
def State.coresRest (s : State) (ctx : Nat) : Bool :=
  s.cores.all fun k => k.2.fetching.all (fun r => r.ctx.toNat != ctx) && k.2.laneAsked.all fun a => a.1.ctx != ctx
/-- Its engines have come to rest: no request or write of a command under way, no matched collective, no completion due (R374). -/
def State.enginesRest (s : State) (ctx : Nat) (t : Team) : Bool :=
  let k := s.cluster (clusterOf t.core)
  let cs := k.cmds.filter fun c => c.ctx == ctx
  cs.all (fun c => c.asked.isNone && !(k.writes.any fun w => w.engine == some c.id) && !(c.cls == 3 && c.matched.isSome && !c.finished)) &&
  !((s.cmdEnding k).any fun c => c.ctx == ctx)
/-- Its slots have come to rest: no give matched and not complete, no bank incoming, no stash line on its way (R373). -/
def State.slotsRest (s : State) (ctx : Nat) (t : Team) : Bool :=
  !((s.cluster (clusterOf t.core)).gives.any fun g => g.ctx == ctx && g.dst.isSome && !g.complete) &&
  t.window.all fun q => !q.2.mat && match q.2.stash with
    | some r => r.asked.isEmpty
    | none => true
/-- Every step of R371 to R374 has finished, pod time has reached the wait point, and no earlier write to the image is on its way
(R376). -/
def State.departReady (s : State) (ctx : Nat) : Bool :=
  let s := s.withdrawHeld ctx
  match s.team? ctx with
  | none => false
  | some t => t.leaving != .no && s.threadsRest ctx t && s.coresRest ctx && s.enginesRest ctx t && s.slotsRest ctx t &&
    decide (t.hw ≤ s.nowAt t.core) && s.imageQuiet ctx t
/-- The stash slots of a team give up every line, as by `bmop release`; W of each write-back enters `hzg` (R68, R375). -/
def State.releaseStashes (s : State) (ctx : Nat) : State :=
  match s.team? ctx with
  | none => s
  | some t => t.window.foldl (fun s q => match q.2.stash with
    | some r =>
      let w := s.giveUpStash (clusterOf t.core) ctx q.1 r
      (w.2.modTeam ctx fun t => { t with groups := t.groups.mapVals fun _ g => { g with threads := g.threads.mapVals fun _ x => x.adopt w.1 } }).modStash
        ctx q.1 fun r => { r with lines := [] }
    | none => s) s
/-- A command as a restart finds it (R374): it runs as pushed and skips what it has delivered. -/
def Cmd.restart (c : Cmd) : Cmd :=
  if c.finished then c
  else if c.cls = 0 ∧ cConv c.words = 3 then { c with pos := 0, skip := c.delivered, buf := [], blk := 0, blkPos := 0, lastN := 62 }
  else { c with pos := c.delivered, buf := [] }
/-- A departed team's grid notes what its image does not show. -/
def State.noteAway (s : State) (ctx : Nat) (t : Team) : State :=
  let mq := s.cores.flatMap fun k => k.2.mq.filter fun o => o.ctx == ctx
  let cs := ((s.cluster (clusterOf t.core)).cmds.filter fun c => c.ctx == ctx).map Cmd.restart
  s.modGrid t.grid fun g =>
    match List.find? (fun (p : Nat × Nat) => p.2 == ctx) g.slots with
    | some p =>
      let a : Away := ⟨t.teamid, ctx, p.1, t, mq, cs⟩
      { g with away := (g.away.filter fun b => b.teamid < t.teamid) ++ [a] ++ g.away.filter fun b => b.teamid > t.teamid }
    | none => g
/-- A partition's timers of the ladder are off. -/
def State.dropTimers (s : State) (part : Nat) : State :=
  { s with due := s.due.filter fun d => d.2 != .graceExpiry part && d.2 != .killTimerExpiry part }
/-- The halt rung ends when every team it targets has departed (R370). -/
def State.haltEnds (s : State) (part : Nat) : State :=
  let k := s.part part
  if k.rung = 2 ∧ !(s.teams.any fun t => t.2.part == part && k.targets.contains t.2.queue) then
    (s.dropTimers part).modPart part fun k => { k with rung := 0, targets := [] }
  else s
/-- The last steps of the halt, and the image but for its header: `saving` 0 becomes 1 (R375, R376). -/
def State.departBody (s : State) (ctx : Nat) : State :=
  if !s.departReady ctx then s
  else
    let s := ((s.withdrawHeld ctx).withdrawArrivals ctx).releaseStashes ctx
    let s := s.modTeam ctx fun t =>
      { t with
        depart := s.nowAt t.core, hs := 0, hw := 0, saving := 1
        groups := t.groups.mapVals fun _ g => { g with threads := g.threads.mapVals fun _ x => x.adopt t.hs } }
    match s.team? ctx with
    | none => s
    | some t => s.saveBody ctx t
/-- All of the image but the header stands in memory: the header follows; `saving` 1 becomes 2 (R376). -/
def State.departHeader (s : State) (ctx : Nat) (t : Team) : State :=
  let gridid := match s.grids.find? t.grid with
    | some g => g.lrec.gridid
    | none => 0
  ((s.imageDone t.part t.image (imageSize t.roles t.width)).modTeam ctx fun t => { t with saving := 2 }).saveHeader ctx t gridid
/-- The whole image stands in memory: the team is off its core (R376). -/
def State.departDone (s : State) (ctx : Nat) (t : Team) : State :=
  ((((s.imageDone t.part t.image (imageSize t.roles t.width)).noteAway ctx t).dropTeam ctx true).haltEnds t.part)
/-- A departing team goes on: with its header when its image stands, off its core when the header stands; writes that a home refused set
out again. -/
def State.departOn (s : State) (ctx stage : Nat) : State :=
  match s.team? ctx with
  | none => s
  | some t =>
    if t.saving ≠ stage then s
    else if !s.imageQuiet ctx t then s.imageRetry t.part t.image (imageSize t.roles t.width)
    else if stage = 1 then s.departHeader ctx t else s.departDone ctx t
/-- TEAM_DEPARTED (R376): the last steps of the halt and the image, all but its header, then the header, then the team is off its core; a
step waits for the homes of other devices that the one before it has written to. -/
def execTeamDeparted (ctx : Nat) (s : State) : Host.Outcome State Fault Refusal :=
  match s.team? ctx with
  | none => .next s
  | some t => .next (((if t.saving = 0 then s.departBody ctx else s).departOn ctx 1).departOn ctx 2)
/-- A team can take the next step of its departure. -/
def State.departsNow (s : State) (ctx : Nat) (t : Team) : Bool :=
  if t.saving = 0 then s.departReady ctx
  else s.imageQuiet ctx t || (s.imageMoves t.part t.image (imageSize t.roles t.width)).any fun m => m.st != .asked

/-! ## The resumption (R377) -/

/-- A command as it is reissued (R47, R374): its pointers as pushed are relocated and checked anew, and their key IDs resolved anew. DESIGN
CHOICE: the spec does not say what a command comes to that fails this check; it ends with ERR 2 as one whose page fault was cancelled.
Log 69. -/
def Cmd.reissue (c : Cmd) (apx : BitVec 13) (keys : List Word) : Cmd :=
  if c.finished then c
  else
    let old := fun (k : Nat) => dw (pushedWord (if k = 0 then c.relocs.1 else c.relocs.2) (wordAt c.words k))
    let pods := podsOf c.cls c.words
    let at_ := fun (k : Nat) => if pods.any (fun p => p.1 == k) then relocate apx (old k) else old k
    let c := { c with
      words := at_ 0 :: at_ 1 :: c.words.drop 2
      sg := if pods.any (fun p => p.1 == 0) then locketGkid keys (at_ 0) else 0
      dg := if pods.any (fun p => p.1 == 1) then locketGkid keys (at_ 1) else 0 }
    if pods.all fun p => locketOk keys (at_ p.1) p.2 then c else { c with err := 2, finished := true, started := true }
/-- Lines that a context left in the units stay with it where it resumes, on the same core and in the same lanes, and are dropped elsewhere
(R164). -/
def State.keepLines (s : State) (ctx : Nat) (bases : SMap (Nat × Nat)) : State :=
  { s with cores := s.cores.mapVals fun n (k : Core) =>
    let here := fun (g : Nat) => match bases.find? g with
      | some b => b.1 == n
      | none => false
    { k with
      lanes := k.lanes.filter fun x => x.owner.ctx != ctx || (here x.owner.grp && (bases.getD x.owner.grp (0, 0)).2 + x.owner.idx == x.lane)
      rc := k.rc.filter fun x => x.ctx != ctx || here x.grp } }
/-- A saved team put on its cores again: fresh banks `bs` for its slots, lane bases `bases` for its groups, then what the image holds. The
aperture index is the table's, entered in the image as at any dispatch (R11, R159, R377). -/
def State.resumeTeam (s : State) (a : Away) (core leader : Nat) (slotBanks : List (Nat × Nat)) (bases : SMap (Nat × Nat)) : State :=
  let cl := clusterOf core
  let t0 := a.saved
  let hdr := s.imageGet t0.part t0.image 1024
  let far := core / 2 != numAt hdr 0x38 8 % 512 / 2
  let keys := (List.range 16).map fun k => wd (numAt hdr (0x100 + 4 * k) 4)
  let t0 := { t0 with depart := numAt hdr 0x40 8 }
  let t := { t0 with
    core := core, leader := leader, leaving := .no, saving := 0, apx := BitVec.ofNat 13 (s.aptAt (dieOf core) t0.dom.toNat).toNat, keys := keys
    entry := dw (numAt hdr 0x20 8), tvec := dw (numAt hdr 0x28 8) }
  let t := { t with groups := t.groups.mapVals fun i g =>
    let b := bases.getD i (core, 0)
    { s.groupBack t0 i g far with core := b.1, base := b.2 } }
  let w := (List.range 16).foldl (fun (acc : SMap Slot × State) k =>
    let b := match List.find? (fun (p : Nat × Nat) => p.1 == k) slotBanks with
      | some p => p.2
      | none => 0
    let v := acc.2.newId
    let r := v.2.slotBack t cl k b { t0.slot k with seq := v.1 }
    (acc.1.put k r.1, r.2)) ([], s)
  let t := { t with window := w.1 }
  let s := { w.2 with teams := w.2.teams.put a.ctx t }.keepLines a.ctx bases
  let s := s.modCluster cl fun k =>
    { k with
      banks := slotBanks.foldl (fun m p => SMap.put m p.2 ⟨some a.ctx, false⟩) k.banks
      cmds := k.cmds ++ a.cmds.map fun c => { c.reissue t.apx keys with core := (bases.getD c.grp (core, 0)).1, part := t.part, dom := t.dom } }
  let s := a.mq.foldl (fun s o =>
    let c := (bases.getD o.grp (core, 0)).1
    let left := o.octets.filter fun q => !(o.doneOct.contains q || o.failed.any fun f => f.1 == q)
    (s.modCore c fun k => { k with mq := k.mq ++ [o] }).postAll (left.map fun q => .mmaOctetDone c o.id q)) s
  let s := s.postAll (t.groups.flatMap fun g => g.2.arms.map fun m => .qmxArmMark a.ctx g.1 m.w0 m.w1)
  let s := s.podTaken t.part t.image (imageSize t.roles t.width)
  ((s.imagePut t.part (t.image + 0x30) (words8 [t.kflags true])).imagePut t.part (t.image + 0x48) (words8 [t.apx.toNat])).matchGives cl

end Sys2Proof.Machine
end

