-- ==== Sys2Proof/Machine/LaneArith.lean ====
section
/-! DEFINITION. Lane-set arithmetic (R262 to R281) and the words that build and take apart jets (R260, R261): each reads and writes
one thread's registers and predicates. -/

namespace Sys2Proof.Machine

/-! ## Shared forms -/

/-- Coefficients 0 to `j` of the jet at a register (R230). -/
def Thread.coefs (x : Thread) (r : BitVec 7) (j : Nat) : List Nat := (List.range (j + 1)).map fun k => (x.r (r.toNat + k)).toNat
/-- Registers from `r` on written with coefficients. -/
def Thread.setCoefs (x : Thread) (r : Nat) (cs : List Nat) : Thread :=
  match cs with
  | [] => x
  | c :: t => Thread.setCoefs (x.setR r (wd c)) (r + 1) t
/-- The addend's register: vc with a prefix, vd without (R191). -/
def addend (m : Mod) (d : BitVec 7) : BitVec 7 := if m.pfx.isSome then m.vc else d
/-- The uniform operand of a type (R268). -/
def gOperand (s : BitVec 2) (g : DWord) : Nat := if s = 3#2 then g.toNat else g.toNat % 2 ^ 32
/-- A uniform operand repeated in each element of a packed type is read element by element (R268). -/
def floatWrite (m : Mod) (s : BitVec 2) (d : BitVec 7) (c : LaneCtx) (x : Thread) (jet : FEnv → JetRes)
    (el : FEnv → Nat × Flags) : Thread × BitVec 40 :=
  let e := fEnv m c.group
  if s = 0#2 then (x.setCoefs d.toNat (jet e).1, (jet e).2)
  else (x.set (fOp s c.jo d) (el e).1, inPlane 0 (el e).2)

/-- The binary floating-point family (R267, R238, R239, R249). -/
def State.floatBin (s : State) (i : Instr) (m : Mod) (f : LR) (jet : FEnv → Nat → List Nat → List Nat → JetRes)
    (op : Fmt → FEnv → Nat → Nat → Nat × Flags) : State :=
  s.laneArith i m (fun j => [fOp f.s j f.d, fOp f.s j f.a, fOp f.s j f.b]) [] (fun j x => x.clear (fOp f.s j f.d)) fun c x =>
    floatWrite m f.s f.d c x (fun e => jet e c.jo (x.coefs f.a c.jo) (x.coefs f.b c.jo)) fun e =>
      mapEl2 (fmtOf f.s).width (fCount f.s) (op (fmtOf f.s) e) (x.get (fOp f.s c.jo f.a)) (x.get (fOp f.s c.jo f.b))
/-- `fma` and `fnma` (R267, R239). -/
def State.floatFma (s : State) (i : Instr) (m : Mod) (f : LR) (na : Bool) : State :=
  let d := addend m f.d
  s.laneArith i m (fun j => [fOp f.s j f.d, fOp f.s j f.a, fOp f.s j f.b, fOp f.s j d]) []
    (fun j x => x.clear (fOp f.s j f.d)) fun c x =>
    floatWrite m f.s f.d c x (fun e => jetFma e c.jo na (x.coefs f.a c.jo) (x.coefs f.b c.jo) (x.coefs d c.jo)) fun e =>
      mapEl3 (fmtOf f.s).width (fCount f.s) (fFma (fmtOf f.s) e na) (x.get (fOp f.s c.jo f.a)) (x.get (fOp f.s c.jo f.b))
        (x.get (fOp f.s c.jo d))
/-- The forms with a uniform operand (R268, R238). -/
def State.floatG (s : State) (i : Instr) (m : Mod) (f : LGF) (jet : FEnv → Nat → List Nat → Nat → List Nat → JetRes)
    (op : Fmt → FEnv → Nat → Nat → Nat → Nat × Flags) (fused : Bool) : State :=
  let d := if fused then addend m f.d else f.d
  s.laneArith i m (fun j => [fOp f.s j f.d, fOp f.s j f.a, fOp f.s j d]) [f.g.toNat] (fun j x => x.clear (fOp f.s j f.d))
    fun c x =>
    let g := gOperand f.s (c.group.gr f.g.toNat)
    floatWrite m f.s f.d c x (fun e => jet e c.jo (x.coefs f.a c.jo) g (x.coefs d c.jo)) fun e =>
      mapEl3 (fmtOf f.s).width (fCount f.s) (fun a b d => op (fmtOf f.s) e a b d) (x.get (fOp f.s c.jo f.a)) g
        (x.get (fOp f.s c.jo d))
/-- The unary family (R269, R248, R250). -/
def State.floatUn (s : State) (i : Instr) (m : Mod) (f : LU) (jet : FEnv → List Nat → JetRes)
    (op : Fmt → FEnv → Nat → Nat × Flags) : State :=
  s.laneArith i m (fun j => [fOp f.s j f.d, fOp f.s j f.a]) [] (fun j x => x.clear (fOp f.s j f.d)) fun c x =>
    floatWrite m f.s f.d c x (fun e => jet e (x.coefs f.a c.jo)) fun e =>
      mapEl1 (fmtOf f.s).width (fCount f.s) (op (fmtOf f.s) e) (x.get (fOp f.s c.jo f.a))
/-- `fclass` (R270, R251): the mask of c_0, of the pair, or of each element, in the single register vd. -/
def State.floatClass (s : State) (i : Instr) (m : Mod) (f : LU) : State :=
  s.laneArith i m (fun j => [one f.d, fOp f.s j f.a]) [] (fun _ x => x.clear (one f.d)) fun c x =>
    let e := fEnv m c.group
    let a := if f.s = 0#2 then (x.r f.a.toNat).toNat else x.get (fOp f.s c.jo f.a)
    (x.setR f.d.toNat (wd (joined 16 ((elems (fmtOf f.s).width (fCount f.s) a).map (fClass (fmtOf f.s) e)))), 0#40)
/-- `fcmp` (R271, R251); with `pt` as its destination it has no effect, and raises no flag (R262). -/
def State.floatCmp (s : State) (i : Instr) (m : Mod) (f : LC) (cond : Nat) : State :=
  let ty : BitVec 2 := if m.width = 2#2 then 3#2 else 0#2
  s.laneArith i m (fun j => [fOp ty j f.a, fOp ty j f.b]) [] (fun _ x => x.setP f.p false) fun c x =>
    let r := fCmp (fmtOf ty) (fEnv m c.group) cond (x.rs f.a.toNat (fRegs ty)) (x.rs f.b.toNat (fRegs ty))
    (x.setP f.p r.1, if f.p = 127#7 then 0#40 else inPlane 0 r.2)

/-! ## Conversions and quantisation -/

/-- A converted integer in a register of 32 bits, sign-extended if signed (R217). -/
def narrowInt (r : Int × Flags) : Nat × Flags := (umod 32 r.1, r.2)
/-- Two elements of a pair in one word, or two elements of a word in a pair, each by `f` from `w` to `v` bits. -/
def convPair (w v : Nat) (f : Nat → Nat × Flags) (a : Nat) : Nat × Flags :=
  let x := f (a % 2 ^ w)
  let y := f (a / 2 ^ w % 2 ^ w)
  (x.1 % 2 ^ v + 2 ^ v * y.1, x.2 ||| y.2)
/-- The conversions of R217 under R218, from the source's number to the result's. -/
def convertFn (code : Nat) (e : FEnv) (sat : Bool) (a : Nat) : Nat × Flags :=
  let h := a % 2 ^ 16
  match code with
  | 0x01 => fToF F32 F16 e sat a
  | 0x02 => fToF F32 BF16 e sat a
  | 0x03 => fToF F16 F32 e sat h
  | 0x04 => fToF BF16 F32 e sat h
  | 0x05 => fToF F32 F64 e sat a
  | 0x06 => fToF F64 F32 e sat a
  | 0x07 => convPair 32 16 (fToF F32 F16 e sat) a
  | 0x08 => convPair 32 16 (fToF F32 BF16 e sat) a
  | 0x09 => convPair 16 32 (fToF F16 F32 e sat) a
  | 0x0A => convPair 16 32 (fToF BF16 F32 e sat) a
  | 0x10 => narrowInt (fToI F32 e sat true 32 a)
  | 0x11 => narrowInt (fToI F32 e sat false 32 a)
  | 0x12 => iToF F32 e (sint 32 a)
  | 0x13 => iToF F32 e (a % 2 ^ 32 : Nat)
  | 0x14 => narrowInt (fToI F64 e sat true 32 a)
  | 0x15 => iToF F64 e (sint 32 a)
  | 0x16 => let r := fToI F64 e sat true 64 a; (umod 64 r.1, r.2)
  | 0x17 => iToF F64 e (sint 64 a)
  | 0x18 => narrowInt (fToI F32 e sat true 8 a)
  | 0x19 => narrowInt (fToI F32 e sat false 8 a)
  | 0x1A => narrowInt (fToI F32 e sat true 16 a)
  | _ => narrowInt (fToI F32 e sat false 16 a)
/-- `fcvt` (R272). -/
def State.convert (s : State) (i : Instr) (m : Mod) (f : LCvt) : State :=
  let d := many (if codePairDst f.c then 2 else 1) f.d
  let a := many (if codePairSrc f.c then 2 else 1) f.a
  s.laneArith i m (fun _ => [d, a]) [] (fun _ x => x.clear d) fun c x =>
    let r := convertFn f.c.toNat (fEnv m c.group) m.sat (x.get a)
    (x.set d r.1, inPlane 0 r.2)
/-- `qnt`'s element, outlier mark and flags for a value `v` after DAZ (R273). -/
def qntFn (e : FEnv) (sat : Bool) (fmt : Nat) (g : DWord) (v : Nat) : Nat × Flags :=
  let lo : Int := if fmt = 0 then -128 else if fmt = 1 then -8 else -32768
  let q := quantise e.rm v (sint 8 (dbits g 7 0)) lo (-lo - 1)
  let out := !(fCmp F32 e 2 (v % 2 ^ 31) (dbits g 63 32)).1
  ((if out then 2 ^ 31 else 0) + umod 16 q.1, if sat && !isNan F32 v then q.2 &&& ~~~fNV else q.2)
/-- `qnt` (R273). -/
def State.quantiseLane (s : State) (i : Instr) (m : Mod) (f : LQ) : State :=
  s.laneArith i m (fun _ => [one f.d, one f.a]) [f.g.toNat] (fun _ x => x.clear (one f.d)) fun c x =>
    let e := fEnv m c.group
    let r := qntFn e m.sat f.f.toNat (c.group.gr f.g.toNat) (daz F32 e (x.r f.a.toNat).toNat)
    (x.setR f.d.toNat (wd r.1), inPlane 0 r.2)

/-! ## Selection, integers, immediates, predicates -/

/-- `sel` (R274, R251): whole jets are moved. -/
def State.selectLane (s : State) (i : Instr) (m : Mod) (f : R3) : State :=
  s.laneArith i m (fun j => [jetOp j f.d, jetOp j f.a, jetOp j f.b]) [] (fun j x => x.clear (jetOp j f.d)) fun c x =>
    (x.setCoefs f.d.toNat (x.coefs (if x.pr m.vc then f.a else f.b) c.jo), 0#40)

/-- An exact integer fitted into `w` bits: clamped to the signed range or wrapped (R275). -/
def iFit (w : Nat) (sat : Bool) (x : Int) : Nat := umod w (if sat then clampS w x else x)
/-- `iadd`. -/
def iAdd (w : Nat) (sat : Bool) (a b : Nat) : Nat := iFit w sat (sint w a + sint w b)
/-- `isub`. -/
def iSub (w : Nat) (sat : Bool) (a b : Nat) : Nat := iFit w sat (sint w a - sint w b)
/-- `imul`. -/
def iMul (w : Nat) (sat : Bool) (a b : Nat) : Nat := iFit w sat (sint w a * sint w b)
/-- `imad`. -/
def iMad (w : Nat) (sat : Bool) (a b d : Nat) : Nat := iFit w sat (sint w a * sint w b + sint w d)
/-- `imulhs`. -/
def iMulhs (w : Nat) (_ : Bool) (a b : Nat) : Nat := umod w (sint w a * sint w b / 2 ^ w)
/-- `imulhu`. -/
def iMulhu (w : Nat) (_ : Bool) (a b : Nat) : Nat := a * b / 2 ^ w
/-- `iabsd`. -/
def iAbsd (w : Nat) (_ : Bool) (a b : Nat) : Nat := (sint w a - sint w b).natAbs
/-- `and`. -/
def iAnd (_ : Nat) (_ : Bool) (a b : Nat) : Nat := a &&& b
/-- `or`. -/
def iOr (_ : Nat) (_ : Bool) (a b : Nat) : Nat := a ||| b
/-- `xor`. -/
def iXor (_ : Nat) (_ : Bool) (a b : Nat) : Nat := a ^^^ b
/-- `andn`. -/
def iAndn (_ : Nat) (_ : Bool) (a b : Nat) : Nat := a ^^^ (a &&& b)
/-- The shifts of R216; the amount is bits [7:0] of b. -/
def iShift (op w : Nat) (_ : Bool) (a b : Nat) : Nat := shift op w a (b % 256)
/-- `imins`. -/
def iMins (w : Nat) (_ : Bool) (a b : Nat) : Nat := if sint w b < sint w a then b else a
/-- `imaxs`. -/
def iMaxs (w : Nat) (_ : Bool) (a b : Nat) : Nat := if sint w a < sint w b then b else a
/-- `iminu`. -/
def iMinu (_ : Nat) (_ : Bool) (a b : Nat) : Nat := min a b
/-- `imaxu`. -/
def iMaxu (_ : Nat) (_ : Bool) (a b : Nat) : Nat := max a b
/-- An integer function of elements. -/
def intEl2 (wd : BitVec 2) (f : Nat → Nat → Nat) (a b : Nat) : Nat := (mapEl2 (iBits wd) (iCount wd) (fun a b => (f a b, 0#5)) a b).1

/-- The integer binary families (R275). -/
def State.intBin (s : State) (i : Instr) (m : Mod) (f : R3) (op : Nat → Bool → Nat → Nat → Nat) : State :=
  s.laneArith i m (fun _ => [iOp m.width f.d, iOp m.width f.a, iOp m.width f.b]) [] (fun _ x => x.clear (iOp m.width f.d))
    fun _ x =>
    (x.set (iOp m.width f.d)
      (intEl2 m.width (op (iBits m.width) m.sat) (x.get (iOp m.width f.a)) (x.get (iOp m.width f.b))), 0#40)
/-- `imad` (R275). -/
def State.intMad (s : State) (i : Instr) (m : Mod) (f : R3) : State :=
  let d := addend m f.d
  let w := m.width
  s.laneArith i m (fun _ => [iOp w f.d, iOp w f.a, iOp w f.b, iOp w d]) [] (fun _ x => x.clear (iOp w f.d)) fun _ x =>
    (x.set (iOp w f.d) (mapEl3 (iBits w) (iCount w) (fun a b d => (iMad (iBits w) m.sat a b d, 0#5)) (x.get (iOp w f.a))
      (x.get (iOp w f.b)) (x.get (iOp w d))).1, 0#40)
/-- The uniform operand of a width (R276). -/
def gInt (w : BitVec 2) (g : DWord) : Nat := if w = 2#2 then g.toNat else g.toNat % 2 ^ 32
/-- The integer forms with a uniform operand (R276). -/
def State.intG (s : State) (i : Instr) (m : Mod) (f : LG) (op : Nat → Bool → Nat → Nat → Nat) : State :=
  s.laneArith i m (fun _ => [iOp m.width f.d, iOp m.width f.a]) [f.g.toNat] (fun _ x => x.clear (iOp m.width f.d)) fun c x =>
    (x.set (iOp m.width f.d)
      (intEl2 m.width (op (iBits m.width) m.sat) (x.get (iOp m.width f.a)) (gInt m.width (c.group.gr f.g.toNat))), 0#40)
/-- `imad` with a uniform operand (R276). -/
def State.intMadG (s : State) (i : Instr) (m : Mod) (f : LG) : State :=
  let d := addend m f.d
  let w := m.width
  s.laneArith i m (fun _ => [iOp w f.d, iOp w f.a, iOp w d]) [f.g.toNat] (fun _ x => x.clear (iOp w f.d)) fun c x =>
    (x.set (iOp w f.d) (mapEl3 (iBits w) (iCount w) (fun a b d => (iMad (iBits w) m.sat a b d, 0#5)) (x.get (iOp w f.a))
      (gInt w (c.group.gr f.g.toNat)) (x.get (iOp w d))).1, 0#40)
/-- The integer unary operations (R277). -/
def State.intUn (s : State) (i : Instr) (m : Mod) (f : R2) (op : Nat → Bool → Nat → Nat) : State :=
  let w := m.width
  s.laneArith i m (fun _ => [iOp w f.d, iOp w f.a]) [] (fun _ x => x.clear (iOp w f.d)) fun _ x =>
    (x.set (iOp w f.d) (mapEl1 (iBits w) (iCount w) (fun a => (op (iBits w) m.sat a, 0#5)) (x.get (iOp w f.a))).1, 0#40)
/-- The integer compares (R278). -/
def State.intCmp (s : State) (i : Instr) (m : Mod) (f : LC) (rel : Nat → Nat → Nat → Bool) : State :=
  let w := m.width
  s.laneArith i m (fun _ => [iOp w f.a, iOp w f.b]) [] (fun _ x => x.setP f.p false) fun _ x =>
    (x.setP f.p (rel (iBits w) (x.get (iOp w f.a)) (x.get (iOp w f.b))), 0#40)
/-- The immediates (R279). -/
def State.immediate (s : State) (i : Instr) (m : Mod) (f : LK) (v : Nat → Nat) : State :=
  s.laneArith i m (fun _ => [one f.d]) [] (fun _ x => x.clear (one f.d)) fun _ x =>
    (x.setR f.d.toNat (wd (v (x.r f.d.toNat).toNat)), 0#40)
/-- Predicate logic (R280). -/
def State.predLane (s : State) (i : Instr) (m : Mod) (d : BitVec 7) (v : Thread → Bool) : State :=
  s.laneArith i m (fun _ => []) [] (fun _ x => x.setP d false) fun _ x => (x.setP d (v x), 0#40)

/-! ## Building and taking apart jets (R260, R261) -/

/-- `jseed`. -/
def State.jetSeed (s : State) (i : Instr) (m : Mod) (f : R3) : State :=
  s.laneArith i m (fun j => [jetOp j f.d, one f.a, one f.b]) [] (fun j x => x.clear (jetOp j f.d)) fun c x =>
    (x.setCoefs f.d.toNat ((List.range (c.jo + 1)).map fun k =>
      if k = 0 then (x.r f.a.toNat).toNat else if k = 1 then (x.r f.b.toNat).toNat else 0), 0#40)
/-- k! (R261). -/
def factorial (k : Nat) : Nat := (List.range k).foldl (fun a i => a * (i + 1)) 1
/-- `jget` and `jder`: a single register from coefficient k, +0 above J. DEDUCED: what `jget`, `jset` and `jtrunc` move they move as it stands,
DAZ left out (R261, log 55). -/
def State.jetOut (s : State) (i : Instr) (m : Mod) (f : LJk) (v : FEnv → Nat → Nat → Coef) : State :=
  s.laneArith i m (fun j => [one f.d, jetOp j f.a]) [] (fun _ x => x.clear (one f.d)) fun c x =>
    let k := f.k.toNat
    let r := if k ≤ c.jo then v (fEnv m c.group) k (x.r (f.a.toNat + k)).toNat else (0, 0#40)
    (x.setR f.d.toNat (wd r.1), r.2)
/-- `jset`: coefficient k of vd, nothing above J. -/
def State.jetSet (s : State) (i : Instr) (m : Mod) (f : LJk) : State :=
  let k := f.k.toNat
  s.laneArith i m (fun j => [jetOp j f.d, one f.a]) [] (fun j x => if k ≤ j then x.setR (f.d.toNat + k) 0 else x) fun c x =>
    (if k ≤ c.jo then x.setR (f.d.toNat + k) (x.r f.a.toNat) else x, 0#40)
/-- `jdiff`, `jint` and `jtrunc`: the coefficients `ks j` of vd, each from the jet va, all read before any write. -/
def State.jetMap (s : State) (i : Instr) (m : Mod) (d a : BitVec 7) (ks : Nat → List Nat)
    (v : FEnv → Nat → List Nat → Nat → Coef) : State :=
  s.laneArith i m (fun j => [jetOp j d, jetOp j a]) []
    (fun j x => (ks j).foldl (fun x k => x.setR (d.toNat + k) 0) x) fun c x =>
    let u := x.coefs a c.jo
    (ks c.jo).foldl (fun r k =>
      let q := v (fEnv m c.group) c.jo u k
      (r.1.setR (d.toNat + k) (wd q.1), r.2 ||| q.2)) (x, 0#40)

/-! ## Meanings -/

/-- FADD (R267). -/
def execFadd (m : Mod) (f : LR) (s : State) : Host.Outcome State Fault Refusal :=
  .next (s.floatBin (.fadd m f) m f (fun e j a b => jetLinear e j (fAdd F32) a b) fAdd)
/-- FSUB (R267). -/
def execFsub (m : Mod) (f : LR) (s : State) : Host.Outcome State Fault Refusal :=
  .next (s.floatBin (.fsub m f) m f (fun e j a b => jetLinear e j (fSub F32) a b) fSub)
/-- FMUL (R267). -/
def execFmul (m : Mod) (f : LR) (s : State) : Host.Outcome State Fault Refusal :=
  .next (s.floatBin (.fmul m f) m f jetMul fMul)
/-- FMA (R267). -/
def execFma (m : Mod) (f : LR) (s : State) : Host.Outcome State Fault Refusal :=
  .next (s.floatFma (.fma m f) m f false)
/-- FNMA (R267). -/
def execFnma (m : Mod) (f : LR) (s : State) : Host.Outcome State Fault Refusal :=
  .next (s.floatFma (.fnma m f) m f true)
/-- FMIN (R267). -/
def execFmin (m : Mod) (f : LR) (s : State) : Host.Outcome State Fault Refusal :=
  .next (s.floatBin (.fmin m f) m f (fun e _ a b => jetMinMax e false a b) (fun t e a b => fMinMax t e false a b))
/-- FMAX (R267). -/
def execFmax (m : Mod) (f : LR) (s : State) : Host.Outcome State Fault Refusal :=
  .next (s.floatBin (.fmax m f) m f (fun e _ a b => jetMinMax e true a b) (fun t e a b => fMinMax t e true a b))
/-- FMOV (R269). -/
def execFmov (m : Mod) (f : LU) (s : State) : Host.Outcome State Fault Refusal :=
  .next (s.floatUn (.fmov m f) m f jetMov (fun t e a => (daz t e a, 0#5)))
/-- FABS (R269). -/
def execFabs (m : Mod) (f : LU) (s : State) : Host.Outcome State Fault Refusal :=
  .next (s.floatUn (.fabs m f) m f jetAbs (fun t e a => (daz t e a % 2 ^ (t.width - 1), 0#5)))
/-- FNEG (R269). -/
def execFneg (m : Mod) (f : LU) (s : State) : Host.Outcome State Fault Refusal :=
  .next (s.floatUn (.fneg m f) m f jetNeg (fun t e a => (negBits t (daz t e a), 0#5)))
/-- FRINT (R269). -/
def execFrint (m : Mod) (f : LU) (s : State) : Host.Outcome State Fault Refusal :=
  .next (s.floatUn (.frint m f) m f (fun e a => jetRint e e.rm true a) (fun t e a => fRint t e e.rm true a))
/-- FFLOOR (R269). -/
def execFfloor (m : Mod) (f : LU) (s : State) : Host.Outcome State Fault Refusal :=
  .next (s.floatUn (.ffloor m f) m f (fun e a => jetRint e .rdn false a) (fun t e a => fRint t e .rdn false a))
/-- FCEIL (R269). -/
def execFceil (m : Mod) (f : LU) (s : State) : Host.Outcome State Fault Refusal :=
  .next (s.floatUn (.fceil m f) m f (fun e a => jetRint e .rup false a) (fun t e a => fRint t e .rup false a))
/-- FTRUNC (R269). -/
def execFtrunc (m : Mod) (f : LU) (s : State) : Host.Outcome State Fault Refusal :=
  .next (s.floatUn (.ftrunc m f) m f (fun e a => jetRint e .rtz false a) (fun t e a => fRint t e .rtz false a))
/-- FSAT (R269). -/
def execFsat (m : Mod) (f : LU) (s : State) : Host.Outcome State Fault Refusal :=
  .next (s.floatUn (.fsat m f) m f jetSat fSat)
/-- FCLASS (R270). -/
def execFclass (m : Mod) (f : LU) (s : State) : Host.Outcome State Fault Refusal :=
  .next (s.floatClass (.fclass m f) m f)
/-- FCMPEQ (R271). -/
def execFcmpeq (m : Mod) (f : LC) (s : State) : Host.Outcome State Fault Refusal :=
  .next (s.floatCmp (.fcmpeq m f) m f 0)
/-- FCMPLT (R271). -/
def execFcmplt (m : Mod) (f : LC) (s : State) : Host.Outcome State Fault Refusal :=
  .next (s.floatCmp (.fcmplt m f) m f 1)
/-- FCMPLE (R271). -/
def execFcmple (m : Mod) (f : LC) (s : State) : Host.Outcome State Fault Refusal :=
  .next (s.floatCmp (.fcmple m f) m f 2)
/-- FCMPUN (R271). -/
def execFcmpun (m : Mod) (f : LC) (s : State) : Host.Outcome State Fault Refusal :=
  .next (s.floatCmp (.fcmpun m f) m f 3)
/-- FADD_G (R268). -/
def execFaddG (m : Mod) (f : LGF) (s : State) : Host.Outcome State Fault Refusal :=
  .next (s.floatG (.faddG m f) m f (fun e j a g _ => jetLinearG e j (fAdd F32) a g) (fun t e a g _ => fAdd t e a g) false)
/-- FMUL_G (R268). -/
def execFmulG (m : Mod) (f : LGF) (s : State) : Host.Outcome State Fault Refusal :=
  .next (s.floatG (.fmulG m f) m f (fun e j a g _ => jetMulG e j a g) (fun t e a g _ => fMul t e a g) false)
/-- FMA_G (R268). -/
def execFmaG (m : Mod) (f : LGF) (s : State) : Host.Outcome State Fault Refusal :=
  .next (s.floatG (.fmaG m f) m f jetFmaG (fun t e a g d => fFma t e false a g d) true)
/-- FSUB_G (R268). -/
def execFsubG (m : Mod) (f : LGF) (s : State) : Host.Outcome State Fault Refusal :=
  .next (s.floatG (.fsubG m f) m f (fun e j a g _ => jetLinearG e j (fSub F32) a g) (fun t e a g _ => fSub t e a g) false)
/-- FCVT (R272). -/
def execFcvt (m : Mod) (f : LCvt) (s : State) : Host.Outcome State Fault Refusal :=
  .next (s.convert (.fcvt m f) m f)
/-- QNT (R273). -/
def execQnt (m : Mod) (f : LQ) (s : State) : Host.Outcome State Fault Refusal :=
  .next (s.quantiseLane (.qnt m f) m f)
/-- SEL (R274). -/
def execSel (m : Mod) (f : R3) (s : State) : Host.Outcome State Fault Refusal :=
  .next (s.selectLane (.sel m f) m f)
/-- IADD (R275). -/
def execIadd (m : Mod) (f : R3) (s : State) : Host.Outcome State Fault Refusal :=
  .next (s.intBin (.iadd m f) m f iAdd)
/-- ISUB (R275). -/
def execIsub (m : Mod) (f : R3) (s : State) : Host.Outcome State Fault Refusal :=
  .next (s.intBin (.isub m f) m f iSub)
/-- IMUL (R275). -/
def execImul (m : Mod) (f : R3) (s : State) : Host.Outcome State Fault Refusal :=
  .next (s.intBin (.imul m f) m f iMul)
/-- IMAD (R275). -/
def execImad (m : Mod) (f : R3) (s : State) : Host.Outcome State Fault Refusal :=
  .next (s.intMad (.imad m f) m f)
/-- IMULHS (R275). -/
def execImulhs (m : Mod) (f : R3) (s : State) : Host.Outcome State Fault Refusal :=
  .next (s.intBin (.imulhs m f) m f iMulhs)
/-- IMULHU (R275). -/
def execImulhu (m : Mod) (f : R3) (s : State) : Host.Outcome State Fault Refusal :=
  .next (s.intBin (.imulhu m f) m f iMulhu)
/-- IABSD (R275). -/
def execIabsd (m : Mod) (f : R3) (s : State) : Host.Outcome State Fault Refusal :=
  .next (s.intBin (.iabsd m f) m f iAbsd)
/-- AND (R275). -/
def execLand (m : Mod) (f : R3) (s : State) : Host.Outcome State Fault Refusal :=
  .next (s.intBin (.land m f) m f iAnd)
/-- OR (R275). -/
def execLor (m : Mod) (f : R3) (s : State) : Host.Outcome State Fault Refusal :=
  .next (s.intBin (.lor m f) m f iOr)
/-- XOR (R275). -/
def execLxor (m : Mod) (f : R3) (s : State) : Host.Outcome State Fault Refusal :=
  .next (s.intBin (.lxor m f) m f iXor)
/-- ANDN (R275). -/
def execLandn (m : Mod) (f : R3) (s : State) : Host.Outcome State Fault Refusal :=
  .next (s.intBin (.landn m f) m f iAndn)
/-- SHL (R216). -/
def execShl (m : Mod) (f : R3) (s : State) : Host.Outcome State Fault Refusal :=
  .next (s.intBin (.shl m f) m f (iShift 0))
/-- SHR (R216). -/
def execShr (m : Mod) (f : R3) (s : State) : Host.Outcome State Fault Refusal :=
  .next (s.intBin (.shr m f) m f (iShift 1))
/-- SAR (R216). -/
def execSar (m : Mod) (f : R3) (s : State) : Host.Outcome State Fault Refusal :=
  .next (s.intBin (.sar m f) m f (iShift 2))
/-- ROTL (R216). -/
def execRotl (m : Mod) (f : R3) (s : State) : Host.Outcome State Fault Refusal :=
  .next (s.intBin (.rotl m f) m f (iShift 3))
/-- IMINS (R275). -/
def execImins (m : Mod) (f : R3) (s : State) : Host.Outcome State Fault Refusal :=
  .next (s.intBin (.imins m f) m f iMins)
/-- IMAXS (R275). -/
def execImaxs (m : Mod) (f : R3) (s : State) : Host.Outcome State Fault Refusal :=
  .next (s.intBin (.imaxs m f) m f iMaxs)
/-- IMINU (R275). -/
def execIminu (m : Mod) (f : R3) (s : State) : Host.Outcome State Fault Refusal :=
  .next (s.intBin (.iminu m f) m f iMinu)
/-- IMAXU (R275). -/
def execImaxu (m : Mod) (f : R3) (s : State) : Host.Outcome State Fault Refusal :=
  .next (s.intBin (.imaxu m f) m f iMaxu)
/-- IMOV (R277). -/
def execImov (m : Mod) (f : R2) (s : State) : Host.Outcome State Fault Refusal :=
  .next (s.intUn (.imov m f) m f (fun _ _ a => a))
/-- NOT (R277). -/
def execLnot (m : Mod) (f : R2) (s : State) : Host.Outcome State Fault Refusal :=
  .next (s.intUn (.lnot m f) m f (fun w _ a => umod w (-1 - (a : Int))))
/-- INEG (R277). -/
def execIneg (m : Mod) (f : R2) (s : State) : Host.Outcome State Fault Refusal :=
  .next (s.intUn (.ineg m f) m f (fun w sat a => iFit w sat (-(sint w a))))
/-- IABS (R277). -/
def execIabs (m : Mod) (f : R2) (s : State) : Host.Outcome State Fault Refusal :=
  .next (s.intUn (.iabs m f) m f (fun w sat a => iFit w sat (sint w a).natAbs))
/-- CLZ (R277). -/
def execClz (m : Mod) (f : R2) (s : State) : Host.Outcome State Fault Refusal :=
  .next (s.intUn (.clz m f) m f (fun w _ a => Machine.clz w a))
/-- POPC (R277). -/
def execPopc (m : Mod) (f : R2) (s : State) : Host.Outcome State Fault Refusal :=
  .next (s.intUn (.popc m f) m f (fun w _ a => Machine.popc w a))
/-- BREV (R277). -/
def execBrev (m : Mod) (f : R2) (s : State) : Host.Outcome State Fault Refusal :=
  .next (s.intUn (.brev m f) m f (fun w _ a => Machine.brev w a))
/-- SEXT8 (R277). -/
def execSext8 (m : Mod) (f : R2) (s : State) : Host.Outcome State Fault Refusal :=
  .next (s.intUn (.sext8 m f) m f (fun w _ a => umod w (sint 8 a)))
/-- SEXT16 (R277). -/
def execSext16 (m : Mod) (f : R2) (s : State) : Host.Outcome State Fault Refusal :=
  .next (s.intUn (.sext16 m f) m f (fun w _ a => umod w (sint 16 a)))
/-- ZEXT8 (R277). -/
def execZext8 (m : Mod) (f : R2) (s : State) : Host.Outcome State Fault Refusal :=
  .next (s.intUn (.zext8 m f) m f (fun _ _ a => a % 2 ^ 8))
/-- ZEXT16 (R277). -/
def execZext16 (m : Mod) (f : R2) (s : State) : Host.Outcome State Fault Refusal :=
  .next (s.intUn (.zext16 m f) m f (fun _ _ a => a % 2 ^ 16))
/-- ICMPEQ (R278). -/
def execIcmpeq (m : Mod) (f : LC) (s : State) : Host.Outcome State Fault Refusal :=
  .next (s.intCmp (.icmpeq m f) m f (fun _ a b => a == b))
/-- ICMPNE (R278). -/
def execIcmpne (m : Mod) (f : LC) (s : State) : Host.Outcome State Fault Refusal :=
  .next (s.intCmp (.icmpne m f) m f (fun _ a b => a != b))
/-- ICMPLTS (R278). -/
def execIcmplts (m : Mod) (f : LC) (s : State) : Host.Outcome State Fault Refusal :=
  .next (s.intCmp (.icmplts m f) m f (fun w a b => decide (sint w a < sint w b)))
/-- ICMPLTU (R278). -/
def execIcmpltu (m : Mod) (f : LC) (s : State) : Host.Outcome State Fault Refusal :=
  .next (s.intCmp (.icmpltu m f) m f (fun _ a b => decide (a < b)))
/-- ICMPLES (R278). -/
def execIcmples (m : Mod) (f : LC) (s : State) : Host.Outcome State Fault Refusal :=
  .next (s.intCmp (.icmples m f) m f (fun w a b => decide (sint w a ≤ sint w b)))
/-- ICMPLEU (R278). -/
def execIcmpleu (m : Mod) (f : LC) (s : State) : Host.Outcome State Fault Refusal :=
  .next (s.intCmp (.icmpleu m f) m f (fun _ a b => decide (a ≤ b)))
/-- IADD_G (R276). -/
def execIaddG (m : Mod) (f : LG) (s : State) : Host.Outcome State Fault Refusal :=
  .next (s.intG (.iaddG m f) m f iAdd)
/-- ISUB_G (R276). -/
def execIsubG (m : Mod) (f : LG) (s : State) : Host.Outcome State Fault Refusal :=
  .next (s.intG (.isubG m f) m f iSub)
/-- IMUL_G (R276). -/
def execImulG (m : Mod) (f : LG) (s : State) : Host.Outcome State Fault Refusal :=
  .next (s.intG (.imulG m f) m f iMul)
/-- AND_G (R276). -/
def execLandG (m : Mod) (f : LG) (s : State) : Host.Outcome State Fault Refusal :=
  .next (s.intG (.landG m f) m f iAnd)
/-- OR_G (R276). -/
def execLorG (m : Mod) (f : LG) (s : State) : Host.Outcome State Fault Refusal :=
  .next (s.intG (.lorG m f) m f iOr)
/-- XOR_G (R276). -/
def execLxorG (m : Mod) (f : LG) (s : State) : Host.Outcome State Fault Refusal :=
  .next (s.intG (.lxorG m f) m f iXor)
/-- SHL_G (R276). -/
def execShlG (m : Mod) (f : LG) (s : State) : Host.Outcome State Fault Refusal :=
  .next (s.intG (.shlG m f) m f (iShift 0))
/-- SHR_G (R276). -/
def execShrG (m : Mod) (f : LG) (s : State) : Host.Outcome State Fault Refusal :=
  .next (s.intG (.shrG m f) m f (iShift 1))
/-- SAR_G (R276). -/
def execSarG (m : Mod) (f : LG) (s : State) : Host.Outcome State Fault Refusal :=
  .next (s.intG (.sarG m f) m f (iShift 2))
/-- IMINS_G (R276). -/
def execIminsG (m : Mod) (f : LG) (s : State) : Host.Outcome State Fault Refusal :=
  .next (s.intG (.iminsG m f) m f iMins)
/-- IMAXS_G (R276). -/
def execImaxsG (m : Mod) (f : LG) (s : State) : Host.Outcome State Fault Refusal :=
  .next (s.intG (.imaxsG m f) m f iMaxs)
/-- IMINU_G (R276). -/
def execIminuG (m : Mod) (f : LG) (s : State) : Host.Outcome State Fault Refusal :=
  .next (s.intG (.iminuG m f) m f iMinu)
/-- IMAXU_G (R276). -/
def execImaxuG (m : Mod) (f : LG) (s : State) : Host.Outcome State Fault Refusal :=
  .next (s.intG (.imaxuG m f) m f iMaxu)
/-- IMAD_G (R276). -/
def execImadG (m : Mod) (f : LG) (s : State) : Host.Outcome State Fault Refusal :=
  .next (s.intMadG (.imadG m f) m f)
/-- MOVI (R279). -/
def execMovi (m : Mod) (f : LK) (s : State) : Host.Outcome State Fault Refusal :=
  .next (s.immediate (.movi m f) m f (fun _ => umod 32 (sint 16 f.i.toNat)))
/-- MOVHI (R279). -/
def execMovhi (m : Mod) (f : LK) (s : State) : Host.Outcome State Fault Refusal :=
  .next (s.immediate (.movhi m f) m f (fun old => f.i.toNat * 2 ^ 16 + old % 2 ^ 16))
/-- PAND (R280). -/
def execPand (m : Mod) (f : LP) (s : State) : Host.Outcome State Fault Refusal :=
  .next (s.predLane (.pand m f) m f.d (fun x => x.pr f.a && x.pr f.b))
/-- POR (R280). -/
def execPor (m : Mod) (f : LP) (s : State) : Host.Outcome State Fault Refusal :=
  .next (s.predLane (.por m f) m f.d (fun x => x.pr f.a || x.pr f.b))
/-- PXOR (R280). -/
def execPxor (m : Mod) (f : LP) (s : State) : Host.Outcome State Fault Refusal :=
  .next (s.predLane (.pxor m f) m f.d (fun x => x.pr f.a != x.pr f.b))
/-- PANDN (R280). -/
def execPandn (m : Mod) (f : LP) (s : State) : Host.Outcome State Fault Refusal :=
  .next (s.predLane (.pandn m f) m f.d (fun x => x.pr f.a && !x.pr f.b))
/-- PNOT (R280). -/
def execPnot (m : Mod) (f : LP2) (s : State) : Host.Outcome State Fault Refusal :=
  .next (s.predLane (.pnot m f) m f.d (fun x => !x.pr f.a))
/-- PCOPY (R280). -/
def execPcopy (m : Mod) (f : LP2) (s : State) : Host.Outcome State Fault Refusal :=
  .next (s.predLane (.pcopy m f) m f.d (fun x => x.pr f.a))
/-- PSET (R280). -/
def execPset (m : Mod) (d : BitVec 7) (b : Bool) (s : State) : Host.Outcome State Fault Refusal :=
  .next (s.predLane (.pset m d b) m d (fun _ => b))
/-- PMOV_V (R281). -/
def execPmovV (m : Mod) (f : R2) (s : State) : Host.Outcome State Fault Refusal :=
  .next (s.laneArith (.pmovV m f) m (fun _ => [one f.d]) [] (fun _ x => x.clear (one f.d)) fun _ x =>
    (x.setR f.d.toNat (if x.pr f.a then 1 else 0), 0#40))
/-- PMOV_P (R281). -/
def execPmovP (m : Mod) (f : R2) (s : State) : Host.Outcome State Fault Refusal :=
  .next (s.laneArith (.pmovP m f) m (fun _ => [one f.a]) [] (fun _ x => x.setP f.d false) fun _ x =>
    (x.setP f.d (x.r f.a.toNat != 0), 0#40))
/-- JSEED (R260). -/
def execJseed (m : Mod) (f : R3) (s : State) : Host.Outcome State Fault Refusal :=
  .next (s.jetSeed (.jseed m f) m f)
/-- JGET (R261). -/
def execJget (m : Mod) (f : LJk) (s : State) : Host.Outcome State Fault Refusal :=
  .next (s.jetOut (.jget m f) m f fun _ _ c => (c, 0#40))
/-- JSET (R261). -/
def execJset (m : Mod) (f : LJk) (s : State) : Host.Outcome State Fault Refusal :=
  .next (s.jetSet (.jset m f) m f)
/-- JDER (R261). -/
def execJder (m : Mod) (f : LJk) (s : State) : Host.Outcome State Fault Refusal :=
  .next (s.jetOut (.jder m f) m f fun e k c => inK k (fMul F32 e (asF32 (factorial k)) c))
/-- JDIFF (R261). -/
def execJdiff (m : Mod) (f : R2) (s : State) : Host.Outcome State Fault Refusal :=
  .next (s.jetMap (.jdiff m f) m f.d f.a (fun j => List.range (j + 1)) fun e j u k =>
    if k < j then inK k (fMul F32 e.rne (asF32 (k + 1)) (co u (k + 1))) else (0, 0#40))
/-- JINT (R261). -/
def execJint (m : Mod) (f : R2) (s : State) : Host.Outcome State Fault Refusal :=
  .next (s.jetMap (.jint m f) m f.d f.a (fun j => (List.range j).map fun i => i + 1) fun e _ u k =>
    inK k (fDiv F32 e.rne (co u (k - 1)) (asF32 k)))
/-- JTRUNC (R261). -/
def execJtrunc (m : Mod) (f : LJk) (s : State) : Host.Outcome State Fault Refusal :=
  .next (s.jetMap (.jtrunc m f) m f.d f.a (fun j => List.range (j + 1)) fun _ _ u k =>
    (if k ≤ f.k.toNat then co u k else 0, 0#40))

end Sys2Proof.Machine
end

