-- ==== Sys2Proof/Machine/Records.lean ====
section
/-! DEFINITION. Launch queues (R169, R170, R184, R185), launch records (R171, R172), their refusals (R41, R172 to R174), and their
wait-conditions (R174). -/

namespace Sys2Proof.Machine

/-! ## Partitions and their queues (R169, R381, R383) -/

/-- Clusters of a partition's live set, rising (R381, R382). -/
def Part.clusters (p : Part) : List Nat := setBits 64 p.live.clm0.toNat ++ (setBits 32 p.live.clm1.toNat).map fun k => 64 + k
/-- Its cores, rising (R381). -/
def Part.cores (p : Part) : List Nat := p.clusters.flatMap fun c => [4 * c, 4 * c + 1, 4 * c + 2, 4 * c + 3]
/-- The partition owns a cluster (R381). -/
def Part.active (p : Part) : Bool := !p.clusters.isEmpty
/-- DOM of a queue's protection entry (R39). -/
def Part.dom (p : Part) (q : Nat) : BitVec 12 := BitVec.ofNat 12 (p.prot.getD q (0, 0)).2.toNat
/-- The address of a queue's key set (R39). -/
def Part.kset (p : Part) (q : Nat) : Nat := vaOf (p.prot.getD q (0, 0)).1 / 64 * 64
/-- Entries of a ring (R169). -/
def LQueue.size (q : LQueue) : Nat := 2 ^ (min 11 q.logn + 4)
/-- Bytes of an entry (R170). -/
def LQueue.entry (q : LQueue) : Nat := if q.dev then 512 else 256
/-- Where the entry of an index stands: LQBASE counts from a multiple of the ring's size (R169, R170). -/
def LQueue.entryAt (q : LQueue) (k : Nat) : Nat := vaOf q.base / (q.size * q.entry) * (q.size * q.entry) + k * q.entry
/-- The queue is full (R170). -/
def LQueue.full (q : LQueue) : Bool := (q.wp + 1) % q.size == q.rp
/-- The queue's EN may be set (R381, R383). -/
def Part.mayEnable (p : Part) (q : Nat) : Bool := p.active && inWindow p.doms (p.dom q).toNat
/-- LQCFG written (R169). -/
def LQueue.cfgWrite (q : LQueue) (v : DWord) (may : Bool) : LQueue :=
  let high := dbits v 62 10 * 2 ^ 10
  let on := dbit v 8 && may
  if q.en then { q with en := dbit v 8, rsvd := dw (high + q.rsvd.toNat % 2 ^ 10) }
  else
    let q := { q with logn := dbits v 3 0, prio := dbits v 5 4, dev := dbit v 9, rsvd := dw (high + dbits v 7 6 * 2 ^ 6), en := on }
    if on then { q with wp := 0, rp := 0, err := false } else q
/-- What the dispatcher of a partition has read or had checked is used up: it reads anew. -/
def State.readsDropped (s : State) (part : Nat) : State :=
  { s with mail := s.mail.filter fun m => !(m.agent == part && (m.n == 0 || m.acc == .load)) }
/-- LAUNCH_QUEUE_ENABLE (R169): a write of LQCFG. -/
def execLaunchQueueEnable (part queue : Nat) (v : DWord) (s : State) : Host.Outcome State Fault Refusal :=
  if 64 ≤ part ∨ 16 ≤ queue then .fault .noSuchUnit
  else .next ((s.readsDropped part).modPart part fun p => p.modQueue queue fun q => q.cfgWrite v (p.mayEnable queue))
/-- Grids of a partition's queues whose conditions have not held: their queues. -/
def State.waitingQueues (s : State) (part : Nat) : List Nat :=
  (s.part part).queues.filterMap fun q => match q.2.head with
    | some g => match s.grids.find? g with
      | some d => if d.status.isNone && d.ready.isNone then some q.1 else none
      | none => none
    | none => none
/-- LQWP has been written: the dispatcher reads the event words of the partition's records (R174). -/
def State.lqwpWritten (s : State) (part : Nat) : State :=
  (s.waitingQueues part).foldl (fun s q => s.postOnce (.waitConditionPoll part q)) s
/-- LQWP_WRITE (R169, R170, R174). -/
def execLqwpWrite (part queue : Nat) (v : DWord) (s : State) : Host.Outcome State Fault Refusal :=
  if 64 ≤ part ∨ 16 ≤ queue then .fault .noSuchUnit
  else
    let q := (s.part part).queue queue
    if q.dev then .next s
    else .next ((s.modPart part fun p => p.modQueue queue fun q => { q with wp := v.toNat % q.size }).lqwpWritten part)

/-! ## Records (R171, R172) -/

/-- A role descriptor (R160). -/
def roleOfWords (w0 w1 : Nat) : Role := ⟨bits w0 15 0, bits w0 23 16, bits w0 31 24, bits w0 47 32, bits w1 31 0⟩
/-- A launch record of 256 bytes, its fields taken apart (R171). -/
def parseRecord (bs : List Byte) : LRec :=
  let w := fun (o : Nat) => numAt bs o 8
  let kfl := w 0x20
  let n := bits kfl 3 2 + 1
  let width := bits kfl 1 0
  { entry := dw (w 0), handler := dw (w 8), gridid := dw (w 0x10), nteam := w 0x18 % 2 ^ 32
    width := if width = 0 then 16 else if width = 1 then 32 else if width = 2 then 64 else 0
    nrole := n, afact := bits kfl 5 4 + 1, prog := bitN kfl 6, cset := bitN kfl 7, pspan := bitN kfl 8, prot := bitN kfl 9
    jo := bits kfl 12 10, banks := bits kfl 17 13, csize := bits kfl 19 18 + 1, msien := bitN kfl 20, msiv := bits kfl 31 21
    ipool := dw (w 0x30), ipsize := w 0x38
    roles := (List.range n).map fun k => roleOfWords (w (0x40 + 16 * k)) (w (0x48 + 16 * k))
    waits := (List.range 4).map fun c => (numAt bs (0xC0 + c) 1, dw (w (0x80 + 16 * c)), dw (w (0x88 + 16 * c)))
    csig := dw (w 0xC8), cval := dw (w 0xD0)
    clean := decide (w 0x18 / 2 ^ 32 = 0) && decide (kfl / 2 ^ 32 = 0) && decide (w 0x28 = 0) && decide (w 0xC0 / 2 ^ 32 = 0) &&
      decide (numAt bs 0xD8 40 = 0) &&
      (List.range 4).all fun k =>
        if k < n then decide (w (0x40 + 16 * k) / 2 ^ 48 = 0) && decide (w (0x48 + 16 * k) / 2 ^ 32 = 0)
        else decide (numAt bs (0x40 + 16 * k) 16 = 0) }
/-- A role breaks R165. -/
def Role.bad (r : Role) : Bool :=
  r.groups == 0 || r.vregs % 8 != 0 || decide (r.vregs < 8) || decide (128 < r.vregs) || decide (16 < r.tiles) || decide (512 < r.strips) ||
    decide (65536 < r.priv)
/-- Threads of a team. -/
def LRec.threads (r : LRec) : Nat := groupCount r.roles * r.width
/-- The checks of status 1 (R172). -/
def LRec.bad (r : LRec) : Bool :=
  !r.clean || r.width == 0 || decide (16 < r.banks) || (r.waits.any fun w => decide (3 < w.1)) || r.nteam == 0 ||
    decide (r.entry.toNat % 4 ≠ 0) || decide (r.handler.toNat % 4 ≠ 0) || r.roles.any Role.bad || decide (32768 < r.threads) ||
    (r.pspan && r.cset) || decide (r.ipool.toNat % 65536 ≠ 0) || r.ipsize % 65536 != 0 || decide (r.csig.toNat % 16 ≠ 0) ||
    r.waits.any fun w => w.1 != 0 && decide (w.2.1.toNat % 8 ≠ 0)
/-- Teams of a cluster set; 1 without CSET (R178). -/
def LRec.setSize (r : LRec) : Nat := if r.cset then r.csize else 1
/-- Image slots of the pool (R173). -/
def LRec.slots (r : LRec) : Nat := r.ipsize / imageSize r.roles r.width
/-- Groups of a team on the even core of a pair, or with `odd` on the other; all of them without the pair-span flag (R138). -/
def LRec.groupsOn (r : LRec) (odd : Bool) : List Nat :=
  let all := List.range (groupCount r.roles)
  if r.pspan then all.filter fun g => (g % 2 == 1) == odd else if odd then [] else all

/-! ## Room on a core (R139, R166) -/

/-- Groups resident on a core, each with its team. -/
def State.groupsAt (s : State) (core : Nat) : List (Team × Group) :=
  s.teams.flatMap fun t => t.2.groups.filterMap fun g => if g.2.core = core then some (t.2, g.2) else none
/-- Resident threads of each lane of a core. -/
def laneCounts (here : List (Team × Group)) : List Nat :=
  (List.range 128).map fun l => (here.filter fun p => decide (p.2.base ≤ l) && decide (l < p.2.base + p.1.width)).length
/-- The lane base that a group of `w` threads is given, and the counts after it (R139). -/
def bindGroup (w : Nat) (cs : List Nat) : Option (Nat × List Nat) :=
  let tops := (List.range (128 / w)).map fun b => (maxL 0 ((cs.drop (b * w)).take w), b * w)
  match tops.foldl (fun (a : Option (Nat × Nat)) t => match a with
    | none => some t
    | some m => if t.1 < m.1 then some t else a) none with
  | some (m, b) =>
    if m < 128 then some (b, cs.take b ++ ((cs.drop b).take w).map (fun c => c + 1) ++ cs.drop (b + w)) else none
  | none => none
/-- Lane bases for groups in `grpid` order on a core (R139); none: one cannot be bound. -/
def bindGroups (w core : Nat) (gs : List Nat) (cs : List Nat) : Option (SMap (Nat × Nat)) :=
  match gs with
  | [] => some []
  | g :: t =>
    match bindGroup w cs with
    | none => none
    | some (b, cs) => (bindGroups w core t cs).map fun m => (g, (core, b)) :: m
/-- The conditions of R166 on a core but for its banks, with `here` resident and groups `gs` of a new team added: where they go. -/
def LRec.room (r : LRec) (core : Nat) (gs : List Nat) (here : List (Team × Group)) : Option (SMap (Nat × Nat)) :=
  let role := fun (g : Nat) => r.roles.getD (roleOf r.roles g) ⟨0, 0, 0, 0, 0⟩
  let f := here.foldl (fun a p => min a p.1.afact) r.afact
  let sum := fun (old : Team × Group → Nat) (new : Nat → Nat) => (here.map old).sum + (gs.map new).sum
  if sum (fun p => p.1.width * (p.1.role p.2).vregs) (fun g => r.width * (role g).vregs) ≤ 262144 * f ∧
      sum (fun p => p.1.width) (fun _ => r.width) ≤ 16384 ∧
      sum (fun p => (p.1.role p.2).tiles) (fun g => (role g).tiles) ≤ 64 ∧
      sum (fun p => (p.1.role p.2).strips) (fun g => (role g).strips) ≤ 512 then
    bindGroups r.width core gs (laneCounts here)
  else none
/-- A team, or a set, can be admitted on empty cores (R138, R166, R172, R178). -/
def LRec.admissible (r : LRec) : Bool :=
  (r.room 0 (r.groupsOn false) []).isSome && (r.room 1 (r.groupsOn true) []).isSome && decide (r.banks * min r.setSize r.nteam ≤ 32)

/-! ## Taking a record (R41, R170, R172 to R174) -/

/-- A check of R29 at the home of a page, as the dispatcher of a partition asks for it; `code` as of `Mail.tag`. -/
def pageMail (part va : Nat) (dom : BitVec 12) (gkid : BitVec 16) (acc : Acc) (code : Nat) : Mail :=
  ⟨0, part, va, 0, acc, dom, gkid, [], code, .asked⟩
/-- `code` of a ring's page: domain, tier 0 or 2 (R170). -/
def ringCode : Nat := 13
/-- `code` of a key set's page: tier 0 (R41). -/
def keyCode : Nat := 25
/-- `code` of a pool page: domain, tier 0 (R173). -/
def poolCode : Nat := 9
/-- `code` of an event word or completion word: all of R29 (R174). -/
def wordCode : Nat := 0
/-- The check that has been asked for. -/
def State.checkMail (s : State) (m : Mail) : Option Mail := s.mail.find? fun k => { k with id := m.id, st := m.st } == m
/-- The outcome of a check; none: it is not known yet. -/
def State.pageCheck (s : State) (m : Mail) : Option Bool :=
  let die := s.seat m.agent
  let h := s.homeOf die m.va
  if s.regionSt die m.va ≠ 1 then some false
  else if h.1 = s.dev.no ∧ 192 ≤ h.2 then some false
  else if h.1 = s.dev.no ∧ (s.home h.2).busyPage (m.va / 65536) = false then
    some (s.checkAlone h.2 (m.va / 65536) (s.mailReq m.agent m)).isNone
  else match s.checkMail m with
  | some k => match k.st with
    | .asked => none
    | .done _ _ => some true
    | .refused _ => some false
  | none => none
/-- A check is asked for, once. -/
def State.pageAsk (s : State) (m : Mail) : State :=
  if (s.pageCheck m).isSome || (s.checkMail m).isSome then s
  else
    let n := s.newId
    let k := { m with id := n.1 }
    { n.2 with mail := n.2.mail ++ [k] }.toHome (n.2.mailReq m.agent k)
/-- What a read of the dispatcher finds at its home: none: not to be had now; some none: a check fails. -/
def State.dispRead (s : State) (m : Mail) (n : Nat) : Option (Option (List Byte)) :=
  match s.pageCheck m with
  | none => none
  | some false => some none
  | some true =>
    if s.podFails m.agent (n / 64 + 1) m.va n then some none else (s.podRead m.agent (n / 64 + 1) m.va n).map some
/-- The read is asked for: its check, then its bytes. -/
def State.dispAsk (s : State) (m : Mail) (n : Nat) : State :=
  if s.pageCheck m = some true then s.podAsk m.agent m.agent (n / 64 + 1) m.va n else s.pageAsk m
/-- The check of a queue's ring at LQRP (R170). -/
def State.ringMail (s : State) (part queue : Nat) : Mail :=
  let p := s.part part
  pageMail part ((p.queue queue).entryAt (p.queue queue).rp) (p.dom queue) 0 .load ringCode
/-- The check of a queue's key set (R41). -/
def State.keyMail (s : State) (part queue : Nat) : Mail := pageMail part ((s.part part).kset queue) 0 0 .load keyCode
/-- The entry at LQRP of a queue (R170). -/
def State.ringEntry (s : State) (part queue : Nat) : Option (Option (List Byte)) :=
  s.dispRead (s.ringMail part queue) ((s.part part).queue queue).entry
/-- Sixteen words of 32 bits. -/
def keysOf (bs : List Byte) : List Word := (List.range 16).map fun k => wd (numAt bs (4 * k) 4)
/-- Every team of a grid has been dispatched, or its record refused (R170). -/
def Grid.dispatched (g : Grid) : Bool := g.status.isSome || (decide (g.lrec.nteam ≤ g.next) && g.away.isEmpty)
/-- The record taken last stops the queue (R170, R174). -/
def State.headHolds (s : State) (q : LQueue) : Bool :=
  match q.head with
  | none => false
  | some g => match s.grids.find? g with
    | some d => !d.dispatched
    | none => false
/-- The queue has an entry that the dispatcher may take now (R169, R170, R370, R385, R391). -/
def State.takeOpen (s : State) (part queue : Nat) : Bool :=
  let p := s.part part
  let q := p.queue queue
  q.en && !q.err && !q.stopped && !p.closed && !p.imported && q.rp != q.wp && !s.headHolds q
/-- A domain's aperture index in a die's copy of the table (R11, R16). -/
def State.apxOn (s : State) (die : Nat) (dom : BitVec 12) : BitVec 13 := BitVec.ofNat 13 (s.aptAt die dom.toNat).toNat
/-- The same as the dispatcher of a partition has it (R10). -/
def State.apx (s : State) (part : Nat) (dom : BitVec 12) : BitVec 13 := s.apxOn (s.seat part) dom
/-- Where a word of a record stands, under its key index (R10). -/
def State.wordEa (s : State) (part : Nat) (dom : BitVec 12) (p : DWord) : DWord := relocate (s.apx part dom) p
/-- The check at its home of a word of a record: an event word is read, a completion word written (R174). -/
def State.wordMail (s : State) (part : Nat) (dom : BitVec 12) (keys : List Word) (p : DWord) (right : Nat) : Mail :=
  let ea := s.wordEa part dom p
  pageMail part (vaOf ea) dom (locketGkid keys ea) (if right = 0 then .load else .atomic 11) wordCode
/-- An access of right `right` by a record's keys passes at the core and at its home (R43, R44, R174). -/
def State.recordMay (s : State) (part : Nat) (dom : BitVec 12) (keys : List Word) (p : DWord) (right : Nat) : Option Bool :=
  if locketOk keys (s.wordEa part dom p) right then s.pageCheck (s.wordMail part dom keys p right) else some false
/-- Address of the image pool (R10, R173). -/
def State.poolBase (s : State) (part : Nat) (dom : BitVec 12) (r : LRec) : Nat := vaOf (s.wordEa part dom r.ipool)
/-- The checks of the pages of a pool (R173). -/
def State.poolMails (s : State) (part : Nat) (dom : BitVec 12) (r : LRec) : List Mail :=
  (List.range (r.ipsize / 65536)).map fun k => pageMail part (s.poolBase part dom r + 65536 * k) dom 0 .load poolCode
/-- All of a list of checks pass; one that fails decides at once. -/
def allPass (cs : List (Option Bool)) : Option Bool :=
  if cs.contains (some false) then some false else if cs.contains none then none else some true
/-- The checks of status 4 pass (R173). -/
def State.poolOk (s : State) (part : Nat) (dom : BitVec 12) (r : LRec) : Option Bool :=
  if r.slots == 0 || (r.prog && decide (r.slots < r.nteam)) then some false
  else allPass ((s.poolMails part dom r).map s.pageCheck)
/-- Event-word pointers that are checked and read (R174). -/
def LRec.events (r : LRec) : List DWord := (r.waits.filter fun w => w.1 != 0).map fun w => w.2.1
/-- CSIG may be checked, and its checks pass (R174, R175). -/
def State.csigMay (s : State) (part : Nat) (dom : BitVec 12) (r : LRec) (keys : Option (List Word)) : Option Bool :=
  match keys with
  | some ks => if r.csig = 0 ∨ r.csig.toNat % 16 ≠ 0 then some false else s.recordMay part dom ks r.csig 2
  | none => some false
/-- The status with which a record is refused, the first failing check in the order of R172; none: it is not known yet. -/
def State.refusal (s : State) (part : Nat) (dom : BitVec 12) (r : LRec) (keys : Option (List Word)) (csigOk : Bool) : Option (Option Nat) :=
  if r.bad then some (some 1)
  else match keys with
  | none => some (some 3)
  | some ks =>
    if !r.admissible then some (some 2)
    else match s.poolOk part dom r with
    | none => none
    | some false => some (some 4)
    | some true =>
      (allPass (some (r.csig == 0 || csigOk) :: r.events.map fun p => s.recordMay part dom ks p 0)).map fun ok => if ok then none else some 5
/-- What an entry comes to when it is taken (R41, R170, R172). -/
structure Taken where
  lrec : LRec
  keys : Option (List Word)
  csigOk : Bool
  status : Option Nat
  deriving DecidableEq, Repr
/-- The keys of an entry: behind the record in a device-fed queue, else the queue's key set (R41, R170). -/
def State.entryKeys (s : State) (part queue : Nat) (bs : List Byte) : Option (Option (List Word)) :=
  if ((s.part part).queue queue).dev then some (some (keysOf (bs.drop 256)))
  else (s.dispRead (s.keyMail part queue) 64).map fun k => k.map keysOf
/-- The entry at LQRP as it is taken now: none: something it needs is not to be had now; some none: the ring cannot be read. -/
def State.takeLook (s : State) (part queue : Nat) : Option (Option Taken) :=
  (s.ringEntry part queue).bind fun e => match e with
  | none => some none
  | some bs =>
    let r := parseRecord (bs.take 256)
    let dom := (s.part part).dom queue
    (s.entryKeys part queue bs).bind fun ks => (s.csigMay part dom r ks).bind fun c =>
      (s.refusal part dom r ks c).map fun st => some ⟨r, ks, c, st⟩
/-- What taking the entry at LQRP needs is asked for (R119). -/
def State.takeAsk (s : State) (part queue : Nat) : State :=
  let q := (s.part part).queue queue
  match s.ringEntry part queue with
  | none => s.dispAsk (s.ringMail part queue) q.entry
  | some none => s
  | some (some bs) =>
    let r := parseRecord (bs.take 256)
    let dom := (s.part part).dom queue
    match s.entryKeys part queue bs with
    | none => s.dispAsk (s.keyMail part queue) 64
    | some none => s
    | some (some ks) =>
      let word := fun (s : State) (p : DWord) (right : Nat) =>
        if locketOk ks (s.wordEa part dom p) right then s.pageAsk (s.wordMail part dom ks p right) else s
      let s := if r.csig = 0 then s else word s r.csig 2
      if r.bad then s
      else r.events.foldl (fun s p => word s p 0) ((s.poolMails part dom r).foldl State.pageAsk s)
/-- The dispatcher can take the next entry of a queue, or ask for what that needs. -/
def State.takeReady (s : State) (part queue : Nat) : Bool :=
  s.takeOpen part queue && ((s.takeLook part queue).isSome || (s.takeAsk part queue).mail.length != s.mail.length)
/-- RECORD_TAKE (R41, R170, R172): the entry at LQRP becomes a grid, or its record is refused; while the homes of what it needs have not
answered, it is not taken yet. -/
def execRecordTake (part queue : Nat) (s : State) : Host.Outcome State Fault Refusal :=
  if 64 ≤ part ∨ 16 ≤ queue then .fault .noSuchUnit
  else if !s.takeOpen part queue then .next s
  else match s.takeLook part queue with
  | none => .next (s.takeAsk part queue)
  | some none => .next ((s.readsDropped part).modPart part fun p => p.modQueue queue fun q => { q with err := true })
  | some (some t) =>
    let n := (s.readsDropped part).newId
    let ready := if t.lrec.events.isEmpty then some 0 else none
    let g : Grid := ⟨part, queue, (s.part part).dom queue, t.keys.getD [], t.lrec, t.keys.isSome, t.csigOk, 0, [], [], 0, 0, t.status, ready,
      none, false, none, false, false⟩
    let s := { n.2 with grids := n.2.grids.put n.1 g }
    let s := s.modPart part fun p => p.modQueue queue fun q => { q with rp := (q.rp + 1) % q.size, head := some n.1 }
    .next (if t.status.isSome then s.post (.gridComplete n.1) else if g.ready.isNone then s.post (.waitConditionPoll part queue) else s)

/-! ## Wait-conditions (R174) -/

/-- The release tag of a line, as its owner or its home holds it (R104). -/
def State.lineTag (s : State) (home line : Nat) : Nat :=
  let own := (List.range 4).findSome? fun die => (s.holders die line).findSome? fun n =>
    match (s.slice n).lines.find? line with
    | some x => if x.owns then some (s.heldInfo line x).tag else none
    | none => none
  match own with
  | some t => max t.toNat ((s.home home).entry line).tag.toNat
  | none => ((s.home home).entry line).tag.toNat
/-- A condition compared (R171). -/
def condHolds (op : Nat) (word value : Nat) : Bool :=
  if op = 1 then decide (value ≤ word) else if op = 2 then word == value else if op = 3 then word != value else true
/-- Where a condition's event word stands. -/
def State.condVa (s : State) (g : Grid) (w : Nat × DWord × DWord) : Nat := vaOf (s.wordEa g.part g.dom w.2.1)
/-- A condition read at its home: whether it holds, and the tag of its line; none: not to be had now. DESIGN CHOICE: the spec does not say
what a word counts as whose page has been removed, or whose region closed, since the check at take time; its condition does not hold, and
the dispatcher goes on polling. Log 70. -/
def State.condRead (s : State) (g : Grid) (w : Nat × DWord × DWord) : Option (Bool × Nat) :=
  let va := s.condVa g w
  if w.1 = 0 then some (true, 0)
  else match s.directRead (s.seat g.part) va 8, s.ownHome (s.seat g.part) va with
  | .ok bs, some h => some (condHolds w.1 (ofBytes bs) w.2.2.toNat, s.lineTag h (va / 64))
  | _, _ => match s.mailFor g.part va 8 .load [] with
    | some m => match m.st with
      | .asked => none
      | .done bs t => some (condHolds w.1 (ofBytes bs) w.2.2.toNat, t)
      | .refused _ => some (false, 0)
    | none => none
/-- The event words of a round that are not to be had now are asked for (R119). -/
def State.condAsk (s : State) (g : Grid) : State :=
  (g.lrec.waits.filter fun w => (s.condRead g w).isNone).foldl (fun s w =>
    s.mailAsk g.part ⟨0, g.part, s.condVa g w, 8, .load, 0, 0, [], 0, .asked⟩) s
/-- A round of reads is over. -/
def State.condTaken (s : State) (g : Grid) : State := g.lrec.waits.foldl (fun s w => s.podTaken g.part (s.condVa g w) 8) s
/-- The next poll of a queue is due at tick `t`, unless one is due already. -/
def State.pollAt (s : State) (part queue t : Nat) : State :=
  if s.due.any (fun d => d.2 == .waitConditionPoll part queue) then s else s.postAt t (.waitConditionPoll part queue)
/-- WAIT_CONDITION_POLL (R174): one round of reads. -/
def execWaitConditionPoll (part queue : Nat) (s : State) : Host.Outcome State Fault Refusal :=
  if 64 ≤ part ∨ 16 ≤ queue then .fault .noSuchUnit
  else if !(s.waitingQueues part).contains queue then .next s
  else match ((s.part part).queue queue).head with
  | none => .next s
  | some k => match s.grids.find? k with
    | none => .next s
    | some g =>
      match g.lrec.waits.mapM (s.condRead g) with
      | none => .next ((s.condAsk g).pollAt part queue (s.clock + 64))
      | some rs =>
        let s := s.condTaken g
        if rs.all fun r => r.1 then .next (s.modGrid k fun g => { g with ready := some (maxL 0 (rs.map fun r => r.2) + delta 5) })
        else .next (s.pollAt part queue (s.clock + 6144))

/-! ## launch (R184, R185) -/

/-- The record at a bank address, read in lines of 64 bytes (R184): checks and waits as of `sld`, then `ok`. -/
def State.launchRecord (s : State) (u : UniCtx) (a : DWord) (n : Nat) (acc : List Byte) (ok : List Byte → UFate) : UFate :=
  match n with
  | 0 => ok acc
  | k + 1 => s.uniNear u a (64 * (3 - k)) 64 64 .load fun p => State.launchRecord s u a k (acc ++ toBytes 64 (s.placeGet p 64)) ok
/-- The places of the record's four lines. -/
def State.launchPlaces (s : State) (u : UniCtx) (a : DWord) : List Place :=
  (List.range 4).filterMap fun k => match s.bankPlace u.ctx u.team (a.toNat % 2 ^ 32 + 64 * k) 64 64 .load with
    | .ok p => some p
    | .error _ => none
/-- The 512 bytes of a device-fed entry (R170). -/
def launchEntry (rec : List Byte) (keys : List Word) : List Byte :=
  rec ++ ((List.range 16).flatMap fun k => toBytes 4 (keys.getD k 0).toNat) ++ List.replicate 192 0
/-- The launch block's writes to a range that were for other bytes are forgotten once they have been performed. -/
def State.othersDone (s : State) (part va : Nat) (bs : List Byte) : State :=
  { s with mail := s.mail.filter fun m =>
    !(m.agent == part && m.acc == .store && decide (va ≤ m.va) && decide (m.va < va + bs.length) && (bs.drop (m.va - va)).take m.n != m.bytes) }
/-- The entry of a `launch` is written by the launch block of its partition and LQWP advances (R119, R185), or the launch waits in the state
given. DESIGN CHOICE: the spec does not say what becomes of an entry whose page is gone; it is lost, and LQWP advances. Log 71. -/
def State.append (s : State) (part queue : Nat) (bs : List Byte) : Except State State :=
  let q := (s.part part).queue queue
  let va := q.entryAt q.wp
  let go := fun (s : State) =>
    (s.modPart part fun p => p.modQueue queue fun q => { q with wp := (q.wp + 1) % q.size }).lqwpWritten part
  if (s.imageMoves part va bs.length).any fun m => m.st == .asked then .error s
  else
    let s := s.othersDone part va bs
    if s.podFailsW part 9 va bs then .ok (go (s.imageDone part va bs.length))
    else match s.podWrite part 9 va bs with
    | some s => .ok (go s)
    | none => .error (s.podAskW part part 9 va bs)
/-- LAUNCH (R184, R185). -/
def execLaunch (e : Bool) (f : GR) (s : State) : Host.Outcome State Fault Refusal :=
  let s1 := s.issueUni (.launch e f) false [f.d.toNat, f.a.toNat, f.b.toNat] fun u s =>
    let a := u.group.gr f.a.toNat
    let b := (u.group.gr f.b.toNat).toNat
    let done := fun (s : State) (v : Nat) => UFate.go (s.modGroup u.ctx u.grp fun g => g.setG f.d.toNat (dw v))
    if b / 16 ≠ 0 ∨ a.toNat % 64 ≠ 0 then done s 3
    else s.launchRecord u a 4 [] fun rec =>
      if u.group.threads.any (fun x => !releaseOk (s.nowAt u.core) x.2 3) then .wait s (.writes 3)
      else
        let s := (s.launchPlaces u a).foldl (fun s p => match p with
          | .stash ctx slot _ line _ _ _ => s.stashUsed ctx slot line
          | _ => s) s
        let p := s.part u.team.part
        let q := p.queue b
        if !q.en || !q.dev || q.err || p.dom b != u.team.dom then done s 2
        else if q.full then done s 1
        else match s.append u.team.part b (launchEntry rec u.team.keys) with
        | .ok s => done s 0
        | .error s => .wait s (.mailbox u.team.part)
  let told := match s.uniCtx with
    | some u => s.launchPlaces u (u.group.gr f.a.toNat)
    | none => []
  .next (told.foldl (fun s p => s.stashTold (some p)) s1)

end Sys2Proof.Machine
end

