-- ==== Sys2Proof/Machine/Sched.lean ====
section
/-! DEFINITION. The dispatcher: placement (R138, R139, R166, R176 to R178, R377), teams created, put back and ended (R164, R181), grids
completed (R175), and grid stalls (R180 to R183). -/

namespace Sys2Proof.Machine

/-! ## Where a team goes -/

/-- The entries of a rising list after `last`, then the others (R177, R178). -/
def scanFrom (last : Option Nat) (xs : List Nat) : List Nat :=
  match last with
  | none => xs
  | some l => (xs.filter fun x => decide (l < x)) ++ xs.filter fun x => decide (x ≤ l)
/-- Banks of a cluster in the pool, zeroed (R76). -/
def State.freeBanks (s : State) (cl : Nat) : List Nat :=
  (List.range 32).filter fun b => match (s.cluster cl).banks.find? b with
    | some k => k.owner.isNone && !k.zeroing
    | none => true
/-- A core can take work: it is not power-gated (R380). -/
def State.coreOn (s : State) (core : Nat) : Bool := !(s.core core).gated && !(s.cluster (clusterOf core)).gated
/-- A team to be placed: a new one, or a saved one. -/
structure Entrant where
  teamid : Nat
  away : Option Away
  deriving DecidableEq, Repr
/-- The slots of a team that need a bank. -/
def Entrant.banks (e : Entrant) (r : LRec) : List Nat :=
  match e.away with
  | none => List.range r.banks
  | some a => a.saved.window.filterMap fun q => if q.2.mode = .empty then none else some q.1
/-- The stash ranges of a saved team meet none in the cluster (R64, R377). -/
def State.stashesFit (s : State) (cl : Nat) (e : Entrant) : Bool :=
  match e.away with
  | none => true
  | some a => a.saved.window.all fun q => match q.2.stash with
    | some r => !s.stashOverlaps cl (vaOf r.ptr) r.len
    | none => true
/-- Core and lane base of each group of a team on a core, or with the pair-span flag on its pair, if R166 holds there but for banks. -/
def State.fitAt (s : State) (r : LRec) (core : Nat) : Option (SMap (Nat × Nat)) :=
  if r.pspan then
    if s.coreOn core && s.coreOn (core + 1) then
      match r.room core (r.groupsOn false) (s.groupsAt core), r.room (core + 1) (r.groupsOn true) (s.groupsAt (core + 1)) with
      | some a, some b => some (b.foldl (fun m p => SMap.put m p.1 p.2) a)
      | _, _ => none
    else none
  else if s.coreOn core then r.room core (r.groupsOn false) (s.groupsAt core) else none
/-- A team placed: on which core, and where its groups go. -/
structure Spot where
  who : Entrant
  core : Nat
  bases : SMap (Nat × Nat)
  deriving DecidableEq, Repr
/-- The spot of a team without the cluster-set flag (R177). -/
def State.spotOf (s : State) (p : Part) (r : LRec) (e : Entrant) : Option Spot :=
  let cores := if r.pspan then p.cores.filter fun c => c % 2 == 0 else p.cores
  (scanFrom p.lastCore cores).findSome? fun c =>
    if (e.banks r).length ≤ (s.freeBanks (clusterOf c)).length ∧ s.stashesFit (clusterOf c) e = true then
      (s.fitAt r c).map fun m => ⟨e, c, m⟩
    else none
/-- The spots of the teams of a cluster set on one cluster: team j of the set on core j (R137, R178). -/
def State.setSpotsAt (s : State) (r : LRec) (cl : Nat) (es : List Entrant) : Option (List Spot) :=
  if (es.map fun e => (e.banks r).length).sum ≤ (s.freeBanks cl).length ∧ es.all (s.stashesFit cl) = true then
    es.mapM fun e => (s.fitAt r (4 * cl + e.teamid % r.setSize)).map fun m => ⟨e, 4 * cl + e.teamid % r.setSize, m⟩
  else none
/-- The spots of a cluster set (R178). -/
def State.setSpots (s : State) (p : Part) (r : LRec) (es : List Entrant) : Option (List Spot) :=
  (scanFrom p.lastCluster p.clusters).findSome? fun cl => s.setSpotsAt r cl es

/-! ## Whose turn it is (R176) -/

/-- The `n` lowest image slots that no team of the grid holds, or as many as there are (R173). -/
def Grid.freeSlots (g : Grid) (n : Nat) : List Nat :=
  ((List.range (min g.lrec.slots (g.slots.length + n))).filter fun k => (g.slots.find? k).isNone).take n
/-- The teams that go next (R177, R178, R181): the next never dispatched, with its whole set, if it has image slots; else the first of
those that were resident and departed. -/
def State.entrants (s : State) (k : Nat) (g : Grid) : List Entrant :=
  let r := g.lrec
  let n := min r.setSize (r.nteam - g.next)
  let fresh := (List.range n).map fun j => (⟨g.next + j, none⟩ : Entrant)
  if fresh ≠ [] ∧ n ≤ (g.freeSlots n).length then fresh
  else match g.away with
  | [] => []
  | a :: _ =>
    if r.cset then
      let set := a.teamid / r.setSize
      let out := s.teams.any fun t => t.2.grid == k && t.2.teamid / r.setSize == set
      if out then [] else (g.away.filter fun b => b.teamid / r.setSize == set).map fun b => ⟨b.teamid, some b⟩
    else [⟨a.teamid, some a⟩]
/-- The grid has teams to dispatch, and nothing but room keeps them (R170, R174, R370). -/
def State.gridWants (s : State) (g : Grid) : Bool :=
  let p := s.part g.part
  g.status.isNone && !(p.queue g.queue).stopped && !p.closed && !p.imported &&
    (match g.ready with
     | some t => decide (t ≤ s.nowOn (s.seat g.part))
     | none => false) && (decide (g.next < g.lrec.nteam) || !g.away.isEmpty)
/-- The addresses of the images of new teams among those that go next (R173). -/
def State.newImages (s : State) (g : Grid) (es : List Entrant) : List Nat :=
  (g.freeSlots (es.filter fun e => e.away.isNone).length).map fun k =>
    s.poolBase g.part g.dom g.lrec + k * imageSize g.lrec.roles g.lrec.width
/-- The addresses of the images of saved teams among them. -/
def oldImages (es : List Entrant) : List Nat := es.filterMap fun e => e.away.map fun a => a.saved.image
/-- The images of the teams that go next can be zeroed or read now. -/
def State.imagesHeld (s : State) (g : Grid) (es : List Entrant) : Bool :=
  let size := imageSize g.lrec.roles g.lrec.width
  (s.newImages g es).all (fun a => s.zeroHeld g.part a size) && (oldImages es).all fun a => s.imageHeld g.part a size
/-- What they lack is asked for (R119). -/
def State.imagesAsk (s : State) (g : Grid) (es : List Entrant) : State :=
  let size := imageSize g.lrec.roles g.lrec.width
  (oldImages es).foldl (fun s a => s.imageAsk g.part a size) ((s.newImages g es).foldl (fun s a => s.zeroAsk g.part a size) s)
/-- The PRIO of a grid's queue as it stands (R169, R176). -/
def State.gridPrio (s : State) (g : Grid) : Nat := ((s.part g.part).queue g.queue).prio
/-- Where the grid's next teams would go; none: they do not fit now. -/
def State.spots (s : State) (k : Nat) (g : Grid) : Option (List Spot) :=
  let es := s.entrants k g
  let p := s.part g.part
  if es = [] then none
  else if g.lrec.cset then s.setSpots p g.lrec es
  else match es with
  | e :: _ => (s.spotOf p g.lrec e).map fun t => [t]
  | [] => none
/-- Grids of a partition in the order of their turns: PRIO, highest first, then queue number (R176). -/
def State.turns (s : State) (part : Nat) : List (Nat × Grid) :=
  let mine := List.filter (fun (g : Nat × Grid) => g.2.part == part && s.gridWants g.2) s.grids
  [3, 2, 1, 0].flatMap fun pr => (List.range 16).flatMap fun q => mine.filter fun g => s.gridPrio g.2 == pr && g.2.queue == q
/-- The turn of a partition: the first grid whose next teams fit, none of higher PRIO stopping it (R176). -/
def State.turn (s : State) (part : Nat) : Option (Nat × List Spot) :=
  let gs := s.turns part
  let bar := maxL 0 ((gs.filter fun g => g.2.blocks).map fun g => s.gridPrio g.2)
  (gs.filter fun g => decide (bar ≤ s.gridPrio g.2)).findSome? fun g => (s.spots g.1 g.2).map fun t => (g.1, t)

/-! ## Teams put on cores -/

/-- `n` of the banks given, each chosen by a free value (R76). -/
def State.pickBanks (s : State) (n : Nat) (bs : List Nat) : List Nat × State :=
  match n with
  | 0 => ([], s)
  | k + 1 =>
    let f := s.free
    let b := bs.getD (f.1.toNat % bs.length) 0
    let r := State.pickBanks f.2 k (bs.erase b)
    (b :: r.1, r.2)
/-- A new team (R76, R164). -/
def State.makeTeam (s : State) (k : Nat) (g : Grid) (p : Spot) (image leader : Nat) (slots : List (Nat × Nat)) : Team :=
  let r := g.lrec
  let thread : Thread := { pc := r.entry, st := .ready, since := s.cycle }
  let group := fun (i : Nat) => match SMap.find? p.bases i with
    | some b => ({ role := roleOf r.roles i, core := b.1, base := b.2, jo := r.jo, threads := (List.range r.width).map fun j => (j, thread) } : Group)
    | none => {}
  { grid := k, teamid := p.who.teamid, part := g.part, queue := g.queue, dom := g.dom, width := r.width, roles := r.roles, prog := r.prog
    cset := r.cset, pspan := r.pspan, prot := r.prot || s.dev.conf, afact := r.afact, entry := r.entry, handler := r.handler
    tvec := r.handler, core := p.core, leader := leader, apx := s.apxOn (dieOf p.core) g.dom, keys := g.keys
    window := slots.map fun q => (q.1, { mode := if r.pspan then .pair else .priv, bank := q.2 })
    image := image, groups := (List.range (groupCount r.roles)).map fun i => (i, group i) }
/-- A team put on its core: a new one with a context and the lowest free image slot, or a saved one (R159, R173, R377). -/
def State.place (s : State) (k : Nat) (g : Grid) (leader : Nat) (p : Spot) : State :=
  let cl := clusterOf p.core
  let need := p.who.banks g.lrec
  let b := s.pickBanks need.length (s.freeBanks cl)
  let slots := need.zip b.1
  let s := b.2
  match p.who.away with
  | some a => (s.resumeTeam a p.core leader slots p.bases).modGrid k fun g => { g with away := g.away.filter fun x => x.teamid != a.teamid }
  | none =>
    let slot := (g.freeSlots 1).headD 0
    let image := s.poolBase g.part g.dom g.lrec + slot * imageSize g.lrec.roles g.lrec.width
    let n := s.newId
    let t := s.makeTeam k g p image leader slots
    let s := (n.2.newImage n.1 t g.lrec.gridid).modCluster cl fun c =>
      { c with banks := slots.foldl (fun m q => SMap.put m q.2 ⟨some n.1, false⟩) c.banks }
    { s with teams := s.teams.put n.1 t }.modGrid k fun g => { g with next := g.next + 1, slots := g.slots.put slot n.1 }
/-- The spots of a grid's turn can be filled: images to be zeroed or read are at hand. -/
def State.spotsHeld (s : State) (g : Grid) (ps : List Spot) : Bool := s.imagesHeld g (ps.map fun p => p.who)
/-- A saved team among those that go next has an array save image of a layout that this part does not implement (R329). -/
def State.spotsUnknown (s : State) (ps : List Spot) : Bool :=
  ps.any fun p => match p.who.away with
    | some a => !s.arrayKnown a.saved
    | none => false
/-- A turn of a grid: what its images lack is asked for first; a layout not implemented ends it with status 7 (R329). -/
def State.takeTurn (s : State) (k : Nat) (g : Grid) (ps : List Spot) (go : State → State) : State :=
  if !s.spotsHeld g ps then s.imagesAsk g (ps.map fun p => p.who)
  else if s.spotsUnknown ps then s.endGrid k 7
  else go s
/-- Spots filled, one after another; the first core noted for the next scan (R177). -/
def State.placeAll (s : State) (k : Nat) (ps : List Spot) (leader : Nat) : State :=
  ps.foldl (fun s p => match s.grids.find? k with
    | some g => (s.place k g leader p).modPart g.part fun q => { q with lastCore := some p.core }
    | none => s) s
/-- The team that had waited has been dispatched (R176). -/
def State.unblock (s : State) (k : Nat) : State := s.modGrid k fun g => { g with blocked := none, blocks := false }
/-- The spots of a grid whose turn it is. -/
def State.spotsOfTurn (s : State) (k : Nat) : Option (Grid × List Spot) :=
  match s.grids.find? k with
  | none => none
  | some g => match s.turn g.part with
    | some (j, ps) => if j = k then some (g, ps) else none
    | none => none
/-- TEAM_DISPATCH (R164, R177). -/
def execTeamDispatch (grid : Nat) (s : State) : Host.Outcome State Fault Refusal :=
  match s.spotsOfTurn grid with
  | some (g, ps) =>
    if g.lrec.cset then .next s
    else
      let leader := match ps with
        | ⟨⟨_, some a⟩, _, _⟩ :: _ => a.saved.leader
        | _ => s.nextId
      .next (s.takeTurn grid g ps fun s => (s.placeAll grid ps leader).unblock grid)
  | none => .next s
/-- CLUSTER_SET_DISPATCH (R178): a set is dispatched at once; its number is new, a saved set keeps its own. -/
def execClusterSetDispatch (grid : Nat) (s : State) : Host.Outcome State Fault Refusal :=
  match s.spotsOfTurn grid with
  | some (g, ps) =>
    if !g.lrec.cset then .next s
    else
      .next (s.takeTurn grid g ps fun s =>
        let n := s.newId
        let leader := match ps with
          | ⟨⟨_, some a⟩, _, _⟩ :: _ => a.saved.leader
          | _ => n.1
        ((n.2.placeAll grid ps leader).modPart g.part fun q => { q with lastCluster := ps.head?.map fun p => clusterOf p.core }).unblock grid)
  | none => .next s
/-- DISPATCH_PRIORITY_BLOCK (R176): the next team has not fitted for 1 ms. -/
def execDispatchPriorityBlock (grid : Nat) (s : State) : Host.Outcome State Fault Refusal :=
  match s.grids.find? grid with
  | none => .fault .noSuchUnit
  | some g => match g.blocked with
    | some t => if t + 1000000 ≤ s.nowOn (s.seat g.part) then .next (s.modGrid grid fun g => { g with blocks := true }) else .next s
    | none => .next s

/-! ## Ends (R164, R175) -/

/-- The team has ended: every thread exited, every operation completed, no bank incoming, no write to its image on its way (R83, R164). -/
def State.teamOver (s : State) (ctx : Nat) : Bool :=
  match s.team? ctx with
  | none => false
  | some t =>
    t.leaving == .no &&
    (t.groups.all fun g => g.2.ops == 0 && g.2.threads.all fun x =>
      x.2.st == .exited && x.2.stores.isEmpty && x.2.loads.isEmpty && x.2.bankW.isEmpty) &&
    !(s.cores.any fun c => c.2.mq.any fun o => o.ctx == ctx) &&
    !((s.cluster (clusterOf t.core)).cmds.any fun c => c.ctx == ctx) && s.slotsRest ctx t &&
    s.cores.all (fun k => k.2.laneWb.all fun w => w.1.ctx != ctx) &&
    (s.imageMoves t.part t.image (imageSize t.roles t.width)).all fun m => m.st != .asked
/-- TEAM_END (R76, R164, R175). -/
def execTeamEnd (ctx : Nat) (s : State) : Host.Outcome State Fault Refusal :=
  if !s.teamOver ctx then .next s
  else
    let s := s.releaseStashes ctx
    match s.team? ctx with
    | none => .next s
    | some t =>
      let s := ((s.imageDone t.part t.image (imageSize t.roles t.width)).dropTeam ctx false).modGrid t.grid fun g =>
        { g with ended := g.ended + 1, hmax := max g.hmax t.hzMax, slots := List.filter (fun p => p.2 != ctx) g.slots }
      match s.grids.find? t.grid with
      | some g => .next (if g.lrec.nteam ≤ g.ended then s.postOnce (.gridComplete t.grid) else s)
      | none => .next s
/-- The grid is over (R175). -/
def Grid.over (g : Grid) : Bool := g.status.isSome || decide (g.lrec.nteam ≤ g.ended)
/-- A write of R175 by the dispatcher, with release tag H: `acc` with `bytes`, `f` what it does; `.error` while its home has not performed
it. DESIGN CHOICE: the spec does not say what becomes of a write whose page has been removed since its check; it is not made. Log 70. -/
def State.csigWrite (s : State) (g : Grid) (va : Nat) (acc : Acc) (v : DWord) (f : Nat → Nat) : Except State State :=
  let bs := toBytes 8 v.toNat
  match s.podRmw g.part va g.hmax acc bs f with
  | some r => .ok r.2
  | none =>
    if s.pieceFails g.part va 8 acc bs then .ok s
    else .error (s.rmwAsk g.part g.part va g.hmax acc bs)
/-- The writes of R175 to the completion word, the status first; `.error` while one of them is on its way. -/
def State.signal (s : State) (k : Nat) (g : Grid) : Except State State :=
  if !g.csigOk then .ok s
  else
    let va := vaOf (s.wordEa g.part g.dom g.lrec.csig)
    let st := g.status.getD 0
    let first := if g.told then .ok s
      else (s.csigWrite g (va + 8) .store (dw st) fun _ => st).map fun s => s.modGrid k fun g => { g with told := true }
    match first with
    | .error s => .error s
    | .ok s => s.csigWrite g va (.atomic 11) g.lrec.cval fun old => (old + g.lrec.cval.toNat) % 2 ^ 64
/-- GRID_COMPLETE (R175). -/
def execGridComplete (grid : Nat) (s : State) : Host.Outcome State Fault Refusal :=
  match s.grids.find? grid with
  | none => .next s
  | some g =>
    if !g.over then .next s
    else if s.nowOn (s.seat g.part) < g.hmax + 64 then .next (s.postAt (max (3 * (g.hmax + 64)) (s.clock + 2)) (.gridComplete grid))
    else match s.signal grid g with
    | .error s => .next (s.postAt (s.clock + 64) (.gridComplete grid))
    | .ok s =>
      let s := if g.lrec.msien then s.out (.msix (g.part + 1) g.lrec.msiv) else s
      let s := s.modPart g.part fun p => p.modQueue g.queue fun q => if q.head = some grid then { q with head := none } else q
      .next ({ s with grids := s.grids.del grid }.imageDone g.part (s.poolBase g.part g.dom g.lrec) g.lrec.ipsize)

/-! ## Grid stalls (R180 to R183) -/

/-- A wait of R180. -/
def Stall.gridWait (c : Stall) : Bool :=
  match c with
  | .bart => true
  | .bars => true
  | .syncw _ _ _ _ => true
  | .bwait _ => true
  | .give _ => true
  | .counter _ _ => true
  | .instances => true
  | _ => false
/-- A thread waits in one of the instructions of R180: at it, parked there, or in a run that it stalls. -/
def State.waitsLong (s : State) (core : Nat) (q : ThreadRef) (x : Thread) : Bool :=
  match x.st with
  | .waiting _ => true
  | .parked c _ => c.gridWait
  | .running => (s.core core).runs.any fun r => r.set.contains q && match r.stall with
    | some (c, _) => c.gridWait
    | none => false
  | _ => false
/-- A grid is stalled (R180). -/
def State.gridStalled (s : State) (k : Nat) (g : Grid) : Bool :=
  let ts := List.filter (fun (t : Nat × Team) => t.2.grid == k) s.teams
  let some_ := ts.any fun t => t.2.groups.any fun q => q.2.threads.any fun x => s.waitsLong q.2.core ⟨t.1, q.1, x.1⟩ x.2
  g.status.isNone && (decide (g.next < g.lrec.nteam) || !g.away.isEmpty) && some_ &&
    ts.all fun t => t.2.leaving == .no && t.2.groups.all fun q => q.2.ops == 0 && q.2.threads.all fun x =>
      x.2.st == .exited || s.waitsLong q.2.core ⟨t.1, q.1, x.1⟩ x.2
/-- The cycles that a stall lasts before it has its effect (R181, R182). -/
def LRec.stallBound (r : LRec) : Nat := if r.prog then 65536 else 2 ^ 24
/-- A grid has been stalled for as long as it takes. -/
def State.stallDue (s : State) (g : Grid) : Bool :=
  match g.stalled with
  | some c => decide (c + g.lrec.stallBound ≤ s.cycle)
  | none => false
/-- GRID_STALL_EVICT (R181): every resident team of the grid is halted. -/
def execGridStallEvict (grid : Nat) (s : State) : Host.Outcome State Fault Refusal :=
  match s.grids.find? grid with
  | none => .fault .noSuchUnit
  | some g =>
    if !g.lrec.prog || !s.stallDue g then .next s
    else
      let mine := s.teams.filterMap fun t => if t.2.grid = grid then some t.1 else none
      .next ((mine.foldl (fun s c => s.haltTeam c .evicted) s).modGrid grid fun g => { g with stalled := none })
/-- A thread gives up the wait it is in: its arrival is taken back, and it leaves the run it stalls (R299, R349). -/
def State.leaveWait (s : State) (q : ThreadRef) (core : Nat) : State :=
  match s.thread? q with
  | none => s
  | some x =>
    let s := s.takeArrival q x
    let s := s.modGroup q.ctx q.grp fun g =>
      { g with insts := (g.insts.map fun i => { i with arrived := i.arrived &&& ~~~((1#64) <<< q.idx) }).filter fun i => i.arrived != 0 }
    s.modCore core fun k =>
      { k with runs := (k.runs.map fun r => { r with set := r.set.filter fun t => t != q }).filter fun r => !r.set.isEmpty }
/-- GRID_STALL_FAULT (R183): every waiting thread takes a grid-stall fault at its instruction. -/
def execGridStallFault (grid : Nat) (s : State) : Host.Outcome State Fault Refusal :=
  match s.grids.find? grid with
  | none => .fault .noSuchUnit
  | some g =>
    if g.lrec.prog || !s.stallDue g then .next s
    else
      let ws := s.teams.flatMap fun t => if t.2.grid = grid then
          t.2.groups.flatMap fun q => q.2.threads.filterMap fun x =>
            if s.waitsLong q.2.core ⟨t.1, q.1, x.1⟩ x.2 then some ((⟨t.1, q.1, x.1⟩ : ThreadRef), q.2.core, x.2.pc) else none
        else []
      let s := s.modGrid grid fun g => { g with stalled := none }
      let s := ws.foldl (fun s w => s.leaveWait w.1 w.2.1) s
      .next (ws.foldl (fun s w => s.takeFault w.1 cStall 0 0 w.2.2) s)

end Sys2Proof.Machine
end

