-- ==== Sys2Proof/Machine/Preempt.lean ====
section
/-! DEFINITION. The pre-emption ladder (R369, R370): its requests, its timers, and where a rung ends. -/

namespace Sys2Proof.Machine

/-- The queues that a PCTL write names (R369). -/
def pctlQueues (v : DWord) : List Nat := if dbit v 4 then List.range 16 else [dbits v 3 0]
/-- GRACE, in ticks of pod time (R369). -/
def Part.grace (p : Part) : Nat := 3000 * dbits p.pcfg 15 0
/-- KILLT, in ticks; 0 acts as 1 (R369). -/
def Part.killt (p : Part) : Nat := 300000 * max 1 (dbits p.pcfg 47 32)
/-- Queues stopped or started (R370). -/
def Part.stopQueues (p : Part) (qs : List Nat) (stop : Bool) : Part := qs.foldl (fun p q => p.modQueue q fun k => { k with stopped := stop }) p
/-- A rung is entered for queues. -/
def State.enterRung (s : State) (part rung : Nat) (qs : List Nat) : State :=
  (s.dropTimers part).modPart part fun p => { p.stopQueues qs true with rung := rung, targets := qs }
/-- Resident teams of queues of a partition. -/
def State.residents (s : State) (part : Nat) (qs : List Nat) : List Nat :=
  s.teams.filterMap fun t => if t.2.part = part ∧ qs.contains t.2.queue = true then some t.1 else none
/-- The halt rung begins (R370, R371). -/
def State.enterHalt (s : State) (part : Nat) (qs : List Nat) : State :=
  let s := s.enterRung part 2 qs
  let s := (s.residents part qs).foldl (fun s c => s.haltTeam c .halted) s
  s.postAt (s.clock + (s.part part).killt) (.killTimerExpiry part)
/-- The kill rung: every grid of the queues is killed, and the rung ends at once (R367, R370). -/
def State.killQueues (s : State) (part : Nat) (qs : List Nat) : State :=
  let gs := s.grids.filterMap fun g => if g.2.part = part ∧ qs.contains g.2.queue = true ∧ g.2.over = false then some g.1 else none
  let s := gs.foldl (fun s g => s.killGrid g 7 0xFF 0 0 0 0) s
  (s.dropTimers part).modPart part fun p => { p with rung := 0, targets := [] }
/-- A request to a partition's ladder: dropped unless stronger than the rung in progress (R369). -/
def State.ladder (s : State) (part rung : Nat) (f : State → State) : Host.Outcome State Fault Refusal :=
  if 64 ≤ part then .fault .noSuchUnit else if rung ≤ (s.part part).rung then .next s else .next (f s)
/-- SOFT_PREEMPT (R370). -/
def execSoftPreempt (part : Nat) (v : DWord) (s : State) : Host.Outcome State Fault Refusal :=
  s.ladder part 1 fun s =>
    let g := (s.part part).grace
    if g = 0 then s.enterHalt part (pctlQueues v)
    else (s.enterRung part 1 (pctlQueues v)).postAt (s.clock + g) (.graceExpiry part)
/-- HALT (R370, R371). -/
def execHalt (part : Nat) (v : DWord) (s : State) : Host.Outcome State Fault Refusal := s.ladder part 2 fun s => s.enterHalt part (pctlQueues v)
/-- KILL (R367, R370). -/
def execKill (part : Nat) (v : DWord) (s : State) : Host.Outcome State Fault Refusal := s.ladder part 3 fun s => s.killQueues part (pctlQueues v)
/-- RESUME (R370): OP 4 starts the queues again; it is no rung, and dropped while one is in progress. -/
def execResume (part : Nat) (v : DWord) (s : State) : Host.Outcome State Fault Refusal :=
  if 64 ≤ part then .fault .noSuchUnit
  else if (s.part part).rung ≠ 0 then .next s
  else .next (s.modPart part fun p => p.stopQueues (pctlQueues v) false)
/-- GRACE_EXPIRY (R370). -/
def execGraceExpiry (part : Nat) (s : State) : Host.Outcome State Fault Refusal :=
  if 64 ≤ part then .fault .noSuchUnit
  else .next (if (s.part part).rung = 1 then s.enterHalt part (s.part part).targets else s)
/-- KILL_TIMER_EXPIRY (R370). -/
def execKillTimerExpiry (part : Nat) (s : State) : Host.Outcome State Fault Refusal :=
  if 64 ≤ part then .fault .noSuchUnit
  else .next (if (s.part part).rung = 2 then s.killQueues part (s.part part).targets else s)
/-- A soft or halt rung ends when no team that it targets is resident any more (R370). -/
def State.ladderEnds (s : State) : State :=
  s.parts.foldl (fun s p =>
    if p.2.rung ≠ 0 ∧ s.residents p.1 p.2.targets = [] then (s.dropTimers p.1).modPart p.1 fun k => { k with rung := 0, targets := [] }
    else s) s

end Sys2Proof.Machine
end

