-- ==== Sys2Proof/Machine/Partition.lean ====
section
/-! DEFINITION. Partitions (R381 to R391): layout commits and Bezel's restarts (R385, R386), partition reset (R387, R388), budgets (R389) and
migration (R391). -/

namespace Sys2Proof.Machine

/-! ## Layout sets (R382, R385) -/

/-- SLICESET of a die in a layout set. -/
def Layout.sls (l : Layout) (d : Nat) : DWord := if d = 0 then l.sls0 else if d = 1 then l.sls1 else if d = 2 then l.sls2 else l.sls3
/-- Clusters of a layout set. -/
def Layout.clusters (l : Layout) : List Nat := setBits 64 l.clm0.toNat ++ (setBits 32 l.clm1.toNat).map fun k => 64 + k
/-- Slices of a layout set, by slice number. -/
def Layout.slices (l : Layout) : List Nat := (List.range 4).flatMap fun d => (setBits 32 (l.sls d).toNat).map (sliceNo d)
/-- The windows of a layout set: frames, then domains. -/
def Layout.windows (l : Layout) : (Nat × Nat) × (Nat × Nat) :=
  ((dbits l.memw 15 0, dbits l.memw 38 22), (dbits l.memw 50 39, dbits l.memw 63 51))
/-- Two windows share a number; an empty one shares none. -/
def windowsMeet (a b : Nat × Nat) : Bool := a.2 != 0 && b.2 != 0 && decide (a.1 < b.1 + b.2) && decide (b.1 < a.1 + a.2)
/-- A layout set is invalid by itself (R385). -/
def Layout.bad (l : Layout) : Bool :=
  let w := l.windows
  (l.clusters.any fun c => (l.sls (dieOfCluster c)).toNat % 2 ^ 32 == 0) || decide (65536 < w.1.1 + w.1.2) || decide (4096 < w.2.1 + w.2.2) ||
    decide (l.clm1.toNat / 2 ^ 32 ≠ 0) || ((List.range 4).any fun d => decide ((l.sls d).toNat / 2 ^ 32 ≠ 0)) || dbits l.memw 21 16 != 0
/-- Two layout sets do not go together (R385). -/
def Layout.clash (a b : Layout) : Bool :=
  (a.clusters.any fun c => b.clusters.contains c) || (a.slices.any fun n => b.slices.contains n) ||
    windowsMeet a.windows.1 b.windows.1 || windowsMeet a.windows.2 b.windows.2
/-- The shadow sets make no valid layout (R385). -/
def State.layoutBad (s : State) : Bool :=
  (List.range 64).any fun p => (s.part p).shadow.bad || (List.range p).any fun q => (s.part p).shadow.clash (s.part q).shadow
/-- A: partitions whose shadow set differs from their live set, with those shadow sets (R385). -/
def State.layoutA (s : State) : List (Nat × Layout) :=
  (List.range 64).filterMap fun p => if (s.part p).shadow ≠ (s.part p).live then some (p, (s.part p).shadow) else none
/-- A partition has a resident team or a running engine command (R385). -/
def State.partBusy (s : State) (p : Nat) : Bool :=
  (s.teams.any fun t => t.2.part == p) || s.clusters.any fun k => k.2.cmds.any fun c => c.part == p
/-- Slices that leave or join a partition of A, by number. -/
def State.movingSlices (s : State) (a : List (Nat × Layout)) : List Nat :=
  (List.range 128).filter fun n => a.any fun p => (s.part p.1).live.slices.contains n != p.2.slices.contains n
/-- Clusters that leave or join a partition of A. -/
def State.movingClusters (s : State) (a : List (Nat × Layout)) : List Nat :=
  (List.range 96).filter fun c => a.any fun p => (s.part p.1).live.clusters.contains c != p.2.clusters.contains c
/-- Slices write back and drop every line, with the near copies leased from it, and tell the homes (R127, R136). -/
def State.flushSlices (s : State) (ns : List Nat) : State :=
  ns.foldl (fun s n => ((s.slice n).lines.map fun l => l.1).foldl (fun s l => (s.giveUp n l).dropNear (dieOfSlice n) l) s) s
/-- What slices have given up is still on its way to the homes (R125, R129, R136). -/
def State.flushing (s : State) (ns : List Nat) : Bool :=
  (ns.any fun n => !(s.slice n).wb.isEmpty) || s.agenda.any fun e => match e with
    | .cleanDropNotice _ d _ _ => ns.any fun n => dieOfSlice n == d
    | _ => false
/-- LCMD ends with a RESULT (R384). -/
def State.layoutResult (s : State) (r : Nat) : State := s.modDev fun d => { d with layResult := r, layBusy := false }
/-- LAYOUT_COMMIT (R384, R385): the shadow sets are validated, A's queues close, the slices are flushed and the banks zeroed. -/
def execLayoutCommit (s : State) : Host.Outcome State Fault Refusal :=
  if s.dev.layBusy then .next s
  else
    let a := s.layoutA
    if s.layoutBad then .next (s.layoutResult 1)
    else if a.any (fun p => s.partBusy p.1) then .next (s.layoutResult 2)
    else
      let s := a.foldl (fun s p => s.modPart p.1 fun k => { k with closed := true }) s
      let s := s.flushSlices (s.movingSlices a)
      let s := (s.movingClusters a).foldl (fun s c => (List.range 32).foldl (fun s b => s.bankClear c b) s) s
      .next (s.modDev fun d => { d with layBusy := true, layResult := 0, layA := a })

/-! ## What travels for a partition (R388) -/

/-- The request that an event carries. -/
def eventReq (e : Event) : Option Req :=
  match e with
  | .icacheFill r _ => some r
  | .laneStoreFill r _ => some r
  | .verdictArrival r _ => some r
  | .loadDataArrival r _ _ _ => some r
  | .storeReply r _ => some r
  | .atomicResultArrival r _ _ _ => some r
  | .retryReissue r => some r
  | .sliceRequest r => some r
  | .sliceRenewal r _ => some r
  | .homeRequest _ r => some r
  | .homeReadShared _ r => some r
  | .homeReadExclusive _ r => some r
  | .homeUpgrade _ r => some r
  | .homeDirectRequest _ r => some r
  | .ownershipGrant r _ => some r
  | .remoteLeaseGrant _ r => some r
  | .stashFill r _ => some r
  | .stashUpgradeGrant r _ => some r
  | _ => none
/-- The home and the line of a message between a home and the dies that serves the request in service there; none for another event. -/
def State.eventLine (s : State) (e : Event) : Option (Nat × Nat) :=
  match e with
  | .invalidation home _ va => some (home, va.toNat / 64)
  | .invalidationAck home _ va _ => some (home, va.toNat / 64)
  | .forwardedSnoop home _ va _ => some (home, va.toNat / 64)
  | .snoopResponse home _ va _ => some (home, va.toNat / 64)
  | .stashSnoop home _ _ va _ => if home / 256 = s.dev.no then some (home % 256, va.toNat / 64) else none
  | _ => none
/-- The request is a partition's of this device. -/
def State.reqOfPart (s : State) (part : Nat) (r : Req) : Bool := r.part == part && r.dev == s.dev.no
/-- An event is a flit that carries a partition's tag: the requester's, in replies and in what a home sends for a request too (R388). What a
slice sends of itself carries none. -/
def State.eventOf (s : State) (part : Nat) (e : Event) : Bool :=
  match eventReq e, s.eventLine e with
  | some r, _ => s.reqOfPart part r
  | none, some (home, line) => match ((s.home home).entry line).pend with
    | some r => s.reqOfPart part r
    | none => false
  | none, none => false
/-- What the home or another device's home has from a flit that is dropped. DESIGN CHOICE: the spec does not say what becomes of the lease
record, the ownership or the modified data that a dropped flit carries; the home keeps them, so that no other partition loses them. Log 73. -/
def State.dropped (s : State) (e : Event) : State :=
  match e with
  | .invalidationAck home die va lmax => s.modEntry home (va.toNat / 64) fun e =>
      { e with fd := max e.fd lmax, sharers := e.sharers &&& ~~~(dieBit die) }
  | .snoopResponse home _ va (.data i) =>
    let line := va.toNat / 64
    let taken := match ((s.home home).entry line).pend with
      | some r => reqWrites r
      | none => true
    if taken then (s.takeData home line true i).modEntry home line fun e => { e with owner := none }
    else s.modEntry home line fun e => { e with tag := if e.tag < i.tag then i.tag else e.tag, wl := max e.wl i.wl }
  | .ownershipGrant r g =>
    let line := reqLine r
    let h := s.homeOf r.die r.va.toNat
    let holds := match s.ownerSlice r.die line with
      | some _ => true
      | none => false
    if holds || h.1 != s.dev.no then s
    else
      let s := if g.dirty then s.setMemLine h.2 line g.data else s
      (s.modEntry h.2 line fun e => if e.owner = some (.die r.die) then { e with owner := none } else e).resumeHome h.2 line
  | .stashFill r (.filled g _) =>
    let h := s.homeOf r.die r.va.toNat
    if r.excl && h.1 != s.dev.no then
      s.toDevice h.1 r.va.toNat (.writeBack h.2 s.dev.no r.die (BitVec.ofNat 60 (64 * reqLine r)) ⟨g.data, 0, g.wl, g.tag, g.dirty⟩ r.part)
    else s
  | _ => s
/-- An entry that served a dropped request goes on: nothing of it travels any longer on this device, and what another device or the host has
been asked for is still awaited (R388). -/
def State.settle (s : State) (home line : Nat) : State :=
  let e := (s.home home).entry line
  let awaits := e.st == .BI || match e.owner with
    | some (.remote _ _) => e.st == .XF || e.st == .XW
    | _ => false
  if awaits then s.modEntry home line fun e => { e with pend := none }
  else (s.modEntry home line fun e => { e with pend := none }).resumeHome home line
/-- A message that a port has not sent goes, if it is the partition's (R388). -/
def Port.purge (q : Port) (part : Nat) (dev : Nat) : Port :=
  let own := fun (m : Remote) => msgPart m == part && match m with
    | .request _ r => r.dev == dev
    | .withdraw _ _ => true
    | .replayTo _ _ _ _ => true
    | _ => false
  { q with replay := q.replay.take q.out ++ (q.replay.drop q.out).filterMap fun f =>
      let ms := f.flit.msgs.filter fun m => !own m
      if ms = [] then none else some { f with flit := { f.flit with msgs := ms, count := BitVec.ofNat 3 (ms.map msgFlits).sum } } }
/-- Agents that act for a partition (R119): its dispatcher, its fault-queue unit and its function's network block. -/
def agentOf (part agent : Nat) : Bool := agent == part || agent == fqAgent part || agent == netAgent (part + 1)
/-- Routers, bridges, ports and homes drop what carries a partition's tag (R388). -/
def State.purge (s : State) (part : Nat) : State :=
  let mine := fun (r : Req) => s.reqOfPart part r
  let es := s.agenda.filter (s.eventOf part)
  let lines := s.homes.flatMap fun h => h.2.dir.filterMap fun e => match e.2.pend with
    | some r => if mine r then some (h.1, e.1) else none
    | none => none
  let s1 := { s with
    agenda := s.agenda.filter fun e => !s.eventOf part e
    due := s.due.filter fun d => !s.eventOf part d.2
    slices := s.slices.mapVals fun _ (k : Slice) => { k with wait := k.wait.filter fun r => !mine r }
    homes := s.homes.mapVals fun _ (h : Home) =>
      { h with
        heldReqs := h.heldReqs.filter fun r => !mine r
        dir := h.dir.mapVals fun _ e => { e with held := e.held.filter fun r => !mine r } }
    mail := s.mail.filter fun m => !agentOf part m.agent
    dev := { s.dev with
      asked := s.dev.asked.filter fun q => !mine q.2.2
      ports := s.dev.ports.mapVals fun _ q => q.purge part s.dev.no } }
  lines.foldl (fun s h => s.settle h.1 h.2) (es.foldl State.dropped s1)
/-- A commit is under way and its slices are being flushed (R385). -/
def State.inPhase1 (s : State) : Bool := s.dev.layBusy && s.dev.resetting.isNone && s.dev.journal == .idle
/-- The commit can go to phase 2: the slices that change hands are empty, the homes have what they gave up, and nothing travels for A (R136,
R385). -/
def State.flipReady (s : State) : Bool :=
  let ns := s.movingSlices s.dev.layA
  s.inPhase1 && !(s.agenda.any fun e => s.dev.layA.any fun p => s.eventOf p.1 e) && (ns.all fun n => (s.slice n).lines.isEmpty) && !s.flushing ns
/-- The commit has lines to flush that came in late. -/
def State.flushMore (s : State) : Bool := s.inPhase1 && (s.movingSlices s.dev.layA).any fun n => !(s.slice n).lines.isEmpty
/-- The commit has something to do (R385). -/
def State.layoutDue (s : State) : Bool := s.dev.journal != .idle || s.flushMore || s.flipReady
/-- A's queues are released, but those of an aborted commit not all of whose partitions are covered (R385, R386). -/
def State.releaseLayout (s : State) (a : List Nat) : State :=
  let held := s.dev.layHeld.filter fun g => !(g.all fun p => a.contains p)
  let s := a.foldl (fun s p => s.modPart p fun k => { k with closed := held.any fun g => g.contains p }) s
  (s.modDev fun d => { d with journal := .idle, layA := [], layHeld := held }).layoutResult 0
/-- The layout sets of A go live in one step, slice masks with them (R385, R120). -/
def State.flip (s : State) (a : List (Nat × Layout)) : State :=
  a.foldl (fun s p =>
    let s := s.modPart p.1 fun k => { k with live := p.2, lastCore := none, lastCluster := none }
    { s with slicesets := (List.range 4).foldl (fun m d => SMap.store m 0 (4 * p.1 + d) (wd (p.2.sls d).toNat)) s.slicesets }) s
/-- LAYOUT_FLIP (R385, R406, R177): the flush ends and the journal takes PREP; then, in one step, FLIP and the new layout; then A's queues
are released. DEDUCED: what goes live is what was validated, also where a shadow set is written meanwhile. Log 72. -/
def execLayoutFlip (s : State) : Host.Outcome State Fault Refusal :=
  match s.dev.journal with
  | .idle =>
    if s.flushMore then .next (s.flushSlices (s.movingSlices s.dev.layA))
    else if s.flipReady then .next (s.modDev fun d => { d with journal := .prep d.layA })
    else .next s
  | .prep a => .next ((s.flip a).modDev fun d =>
      { d with journal := .flip (a.map fun p => p.1), layGen := if a = [] then d.layGen else d.layGen + 1 })
  | .flip a => .next (s.releaseLayout a)
/-- BEZEL_RESTART (R386, R409): the watchdog reset Bezel; it acts on the journal. DESIGN CHOICE: the table gives a restart in phase 1, where
the journal is IDLE, nothing to do; the commit goes on. Log 72. -/
def execBezelRestart (s : State) : Host.Outcome State Fault Refusal :=
  let twice := s.dev.watchdogs.any fun t => decide (s.now < t + 1000000000)
  let s := s.modDev fun d => { d with watchdogs := [s.now] }
  let s := if twice then s.post (.fatalError .watchdog) else s
  match s.dev.journal with
  | .idle => .next s
  | .prep a =>
    let s := a.foldl (fun s p => s.modPart p.1 fun k => { k with shadow := k.live }) s
    .next ((s.modDev fun d => { d with journal := .idle, layA := [], layHeld := d.layHeld ++ [a.map fun p => p.1] }).layoutResult 3)
  | .flip a => .next (s.releaseLayout a)

/-! ## The memory of a partition (R387, R391) -/

/-- Valid entries of a home's page table: channel address and words. -/
def State.ptes (s : State) (home : Nat) : List (Nat × DWord × DWord) :=
  let h := s.home home
  let base := dbits h.hptb 15 0 * 65536
  if h.mapped then
    s.hbm.filterMap fun c =>
      let a := c.1 - chan home 0
      if chan home 0 + base ≤ c.1 ∧ c.1 < chan home 0 + base + 2 ^ h.logn * 128 ∧ c.1 % 16 = 7 ∧ bitN c.2.toNat 7 = true then
        some (a - 7, s.pteAt home (a - 7))
      else none
  else []
/-- The VPN of an entry. -/
def pVpn (w0 : DWord) : Nat := dbits w0 43 0
/-- The homes. -/
def homeNos : List Nat := List.range 192
/-- The homes with lines of a partition's pages. -/
def State.tenantHomes (s : State) (part : Nat) : List Nat :=
  s.homes.filterMap fun h => if (h.2.linesOf (s.tenantPage part h.1)).isEmpty then none else some h.1
/-- Homes whose recall of a partition's pages has entries to take (R25, R387). -/
def State.tenantOpen (s : State) (part : Nat) : List Nat :=
  (s.tenantHomes part).filter fun h => !s.linesMove h (s.tenantPage part h) && s.recallOpen h (s.tenantPage part h) != []
/-- Every line of a partition's pages is home, and no lease of another device on one runs (R25, R387). -/
def State.tenantDue (s : State) (part : Nat) : Bool :=
  s.dev.recalling == some part &&
    (s.tenantHomes part).all fun h => !s.linesMove h (s.tenantPage part h) && s.recallDue h (s.tenantPage part h)
/-- The homes recall the pages of a partition, as far as they can now. -/
def State.tenantRecall (s : State) (part : Nat) : State :=
  (s.tenantOpen part).foldl (fun s h => s.recallEnter h (s.tenantPage part h)) (s.modDev fun d => { d with recalling := some part })
/-- The recall of a partition's pages ends: their lines are home. -/
def State.tenantBack (s : State) (part : Nat) : State :=
  (s.tenantHomes part).foldl (fun s h => s.recallLines h (s.tenantPage part h)) s
/-- The homes serve what they held for a partition's pages. -/
def State.tenantServe (s : State) : State :=
  s.homes.foldl (fun s h => s.serveHeld h.1) (s.modDev fun d => { d with recalling := none })
/-- A page leaves its home: its entry cleared, what it held given back. -/
def State.clearPage (s : State) (home a : Nat) (w0 w1 : DWord) : State :=
  let v := pVpn w0
  (s.changePte home a v (w0 &&& dw (2 ^ 63 - 1)) w1).modHome home fun h => (h.release v w0 w1).forgetPage v
/-- Every page of a partition cleared at every home, and every frame of its window zeroed (R387 step 5). -/
def State.scrub (s : State) (part : Nat) : State :=
  let p := s.part part
  homeNos.foldl (fun s h =>
    let s := ((s.ptes h).filter fun e => p.ownsPage e.2.1 e.2.2).foldl (fun s e => s.clearPage h e.1 e.2.1 e.2.2) s
    { s with hbm := s.hbm.zero (chan h (p.frames.1 * 65536)) (p.frames.2 * 65536) }) (s.tenantBack part)
/-- `f` once the homes have recalled a partition's pages; until then `again` is to happen again (R25, R391). -/
def State.onceHome (s : State) (part : Nat) (again : Event) (f : State → State) : State :=
  if s.dev.recalling.isSome && s.dev.recalling != some part then s.postAt (s.clock + 64) again
  else if s.tenantDue part then (f s).tenantServe
  else (s.tenantRecall part).postAt (s.clock + 64) again

/-! ## Reset (R387, R388) -/

/-- A record of a kill (R367). -/
def killRecord (r : BitVec 512) : Bool := r.getLsbD 279
/-- The registers of a partition's virtual function return to reset; layout, budgets and protection entries are kept (R387 step 6). Records
of the kills of step 1 wait for a queue to be written to. -/
def State.resetRegs (s : State) (part : Nat) : State :=
  let s := s.modPart part fun p =>
    { p with queues := [], fq := { waiting := p.fq.waiting.filter killRecord }, rung := 0, targets := [], pcfg := 0x00C8000000C8
             closed := s.dev.layHeld.any fun g => g.contains part
             imported := false, lastCore := none, lastCluster := none, sharedBase := 0, sharedCount := 0 }
  s.modDev fun d => { d with qps := d.qps.filter fun q => q.1 / 64 != part + 1 }
/-- The clusters of a partition are power-cycled: cores, pair caches and banks are zero (R380, R387 step 4). -/
def State.cycleClusters (s : State) (cs : List Nat) : State :=
  cs.foldl (fun s c =>
    let s := (List.range 32).foldl (fun s b => s.bankClear c b) s
    { s with
      clusters := s.clusters.del c
      cores := s.cores.filter fun k => clusterOf k.1 != c
      pairs := s.pairs.filter fun k => k.1 / 2 != c
      agenda := s.agenda.filter fun e => match e with
        | .bankZeroDone k _ => k != c
        | _ => true }) s
/-- Requests of a partition held by tokens are cancelled, and its tokens freed, with no record (R387 step 2). -/
def State.cancelTokens (s : State) (part : Nat) : State :=
  let p := s.part part
  s.homes.foldl (fun s h => h.2.tokens.foldl (fun s t =>
    if (t.2.part == part && t.2.dev == s.dev.no) || inWindow p.doms t.2.dom.toNat then
      t.2.held.foldl (fun s q => s.tell q.1 (.cancelled q.2)) (s.freeToken h.1 t.1)
    else s) s) s
/-- PARTITION_RESET (R387 steps 1 to 3). -/
def execPartitionReset (part : Nat) (s : State) : Host.Outcome State Fault Refusal :=
  if 64 ≤ part then .fault .noSuchUnit
  else if s.dev.layBusy then .next s
  else
    let s := (s.killQueues part (List.range 16)).cancelTokens part
    let s := s.modPart part fun p => { p with closed := true, fq := { p.fq with err := true } }
    let s := s.flushSlices (s.part part).live.slices
    .next (s.modDev fun d => { d with layBusy := true, layResult := 0, resetting := some part, cycled := false })
/-- The grids of a partition have ended, and its slices are empty (R387 steps 1 and 3). -/
def State.resetFlushed (s : State) (part : Nat) : Bool :=
  let ns := (s.part part).live.slices
  !(s.grids.any fun g => g.2.part == part) && (ns.all fun n => (s.slice n).lines.isEmpty) && !s.flushing ns
/-- A reset has slice lines to flush that came in late. -/
def State.resetFlushes (s : State) (part : Nat) : Bool := (s.part part).live.slices.any fun n => !(s.slice n).lines.isEmpty
/-- Something that carries a partition's tag travels, or a home has it in service (R388). -/
def State.tagged (s : State) (part : Nat) : Bool :=
  (s.agenda.any (s.eventOf part)) || s.homes.any fun h => h.2.dir.any fun e => match e.2.pend with
    | some r => s.reqOfPart part r
    | none => false
/-- The next step of a reset can be done. -/
def State.resetDue (s : State) (part : Nat) : Bool :=
  if s.dev.cycled then
    s.tagged part || (s.dev.recalling.isNone || s.dev.recalling == some part) &&
      (s.tenantDue part || s.tenantOpen part != [] || s.dev.recalling.isNone)
  else s.resetFlushes part || s.resetFlushed part
/-- PARTITION_RESET_DONE (R387 steps 3 to 6, R388): the flush ends; the clusters are power-cycled and the partition's flits purged; its pages
are recalled, then cleared, its frames zeroed and its registers reset. -/
def execPartitionResetDone (part : Nat) (s : State) : Host.Outcome State Fault Refusal :=
  if s.dev.resetting ≠ some part ∨ s.resetDue part = false then .next s
  else if !s.dev.cycled then
    if s.resetFlushes part then .next (s.flushSlices (s.part part).live.slices)
    else .next (((s.cycleClusters (s.part part).clusters).purge part).modDev fun d => { d with cycled := true })
  else if s.tagged part then .next (s.purge part)
  else if !s.tenantDue part then .next (s.tenantRecall part)
  else .next (((((s.scrub part).resetRegs part).tenantServe).modDev fun d =>
    { d with resetting := none, cycled := false }).layoutResult 0)

/-! ## Budgets (R389) -/

/-- A balance at a refill: the allocation less any deficit. -/
def refilled (alloc : Nat) (bal : Int) : Int := alloc + min bal 0
/-- BUDGET_REFILL (R389). -/
def execBudgetRefill (s : State) : Host.Outcome State Fault Refusal :=
  .next { s with parts := s.parts.mapVals fun _ (p : Part) =>
    { p with tbal := refilled (dbits p.live.budg 31 0) p.tbal, ebal := refilled (dbits p.live.budg 63 32) p.ebal } }
/-- A partition as a microsecond ends: each core that issued costs a time unit; its activity, weighted, accumulates and each whole µJ is
charged (R389). -/
def Part.charged (p : Part) : Part :=
  let pj := p.pj + (p.counts.map fun c => c.2 * (Config.energy c.1).toNat).sum
  { p with tbal := p.tbal - p.busy.length, busy := [], counts := [], ebal := p.ebal - ((pj / 1000000 : Nat) : Int), pj := pj % 1000000 }
/-- ENERGY_CHARGE (R389). -/
def execEnergyCharge (s : State) : Host.Outcome State Fault Refusal := .next { s with parts := s.parts.mapVals fun _ (p : Part) => p.charged }

/-! ## Migration (R391) -/

/-- The end of a migration command in MSTAT. DESIGN CHOICE: the spec gives MSTAT no codes; the model takes 0 for success, 1 for an error and
2 for the abort of a tenant whose transport key is lost. Log 74. -/
def State.migrated (s : State) (r : Nat) : State := s.modDev fun d => { d with mstat := dw r }
/-- The transport key of a session is at hand: the physical function's SPDM session derived it, or it is held already; not one destroyed. -/
def Device.hasKey (d : Device) (session : DWord) : Bool :=
  (d.transport.contains session || (d.spdm.getD 0 {}).sessions.any fun x => x.1 == session && x.2.1) && !d.destroyed.contains session
/-- A transport key is kept. -/
def Device.keepKey (d : Device) (session : DWord) : Device :=
  { d with transport := if d.transport.contains session then d.transport else d.transport ++ [session] }
/-- A transport key is destroyed (R391). -/
def Device.dropKey (d : Device) (session : DWord) : Device :=
  { d with transport := d.transport.filter fun k => k != session
           destroyed := if d.destroyed.contains session then d.destroyed else d.destroyed ++ [session] }
/-- The partition is halted: no team is resident and its queues are stopped or off (R370). -/
def State.halted (s : State) (part : Nat) : Bool :=
  !s.partBusy part && (s.part part).queues.all fun q => q.2.stopped || !q.2.en
/-- The tenant's entries at a home: words, and the bytes of pages at tiers 1 and 2 (R391). -/
def State.sealedPages (s : State) (part home : Nat) : List (Nat × DWord × DWord × Memory) :=
  ((s.ptes home).filter fun e => (s.part part).ownsPage e.2.1 e.2.2).map fun e =>
    let bs := if pTier e.2.1 = 0 then [] else s.pageRead home (pVpn e.2.1) e.2.1 e.2.2 0 65536
    (home, e.2.1, e.2.2, ((List.range bs.length).zip bs).filter fun c => c.2 != 0)
/-- The data of a partition's frame window at a home, by place in the window (R391). -/
def State.sealedFrames (s : State) (part home : Nat) : Memory :=
  let w := (s.part part).frames
  let lo := chan home (w.1 * 65536)
  (s.hbm.filter fun c => decide (lo ≤ c.1) && decide (c.1 < lo + w.2 * 65536)).map fun c => (c.1 - lo, c.2)
/-- The tenant's memory and state sealed into a blob (R391). -/
def State.seal (s : State) (part : Nat) (session : DWord) : Blob :=
  let p := s.part part
  { addr := s.dev.mblob, session := session, fbase := p.frames.1, fcount := p.frames.2, dbase := p.doms.1, dcount := p.doms.2
    frames := homeNos.map fun h => (h, s.sealedFrames part h)
    pages := homeNos.flatMap fun h => s.sealedPages part h
    aps := s.apt.filter fun a => decide (a.1 < 4096) && inWindow p.doms a.1
    prot := p.prot.map fun e => (e.1, e.2.1, e.2.2)
    live := p.live, queues := p.queues, grids := s.grids.filter fun g => g.2.part == part }
/-- EXPORT (R391): the tenant's lines come home, then its memory and state are sealed into a blob; the source keeps everything. -/
def execExportBlob (part : Nat) (session : DWord) (s : State) : Host.Outcome State Fault Refusal :=
  if 64 ≤ part then .fault .noSuchUnit
  else if !s.halted part || !s.dev.hasKey session then .next (s.migrated 1)
  else .next (s.onceHome part (.exportBlob part session) fun s =>
    let s := s.tenantBack part
    (s.modDev fun d => { d.keepKey session with
      blobs := (d.blobs.filter fun x => x.addr != d.mblob) ++ [s.seal part session] }).migrated 0)
/-- MIGRATION_RELEASE (R391): the source scrubs as in steps 5 and 6 of R387, and destroys its transport key. -/
def execMigrationRelease (part : Nat) (s : State) : Host.Outcome State Fault Refusal :=
  if 64 ≤ part then .fault .noSuchUnit
  else if !s.halted part then .next (s.migrated 1)
  else .next (s.onceHome part (.migrationRelease part) fun s =>
    let s := (s.scrub part).resetRegs part
    ({ s with grids := s.grids.filter fun g => g.2.part != part }.modDev fun d => d.dropKey d.msess).migrated 0)
/-- A domain rebased from the source's window to the destination's. -/
def Blob.dom (b : Blob) (p : Part) (d : Nat) : Nat := (d + p.doms.1 - b.dbase) % 4096
/-- Word 1 of an entry with its domain rebased, where DM is 0. -/
def Blob.w1 (b : Blob) (p : Part) (w0 w1 : DWord) : DWord :=
  if dbit w0 58 then w1 else dw (dbits w1 63 48 * 2 ^ 48 + b.dom p (pDset w1) * 2 ^ 36 + pFrame w1)
/-- A page's entry put at tier `tier` of its home with FRAME `frame` and CSZ `csz`; none: its table has no room. -/
def State.landEntry (s : State) (home : Nat) (w0 w1 : DWord) (tier frame csz : Nat) : Option State :=
  let v := pVpn w0
  let h := s.home home
  match (h.probes v).find? (fun a => !dbit (s.pteAt home a).1 63) with
  | none => none
  | some a =>
    if !h.mapped then none
    else
      let x0 := movedW0 w0 tier csz
      let x1 := movedW1 w1 frame
      let s := (s.changePte home a v x0 x1).modHome home fun h => h.occupy v x0 x1
      some (if tier = 1 then s.modHome home fun h => { h with pool := h.pool.put v (frame, csz) } else s)
/-- The same with the page's bytes. -/
def State.landPage (s : State) (home : Nat) (w0 w1 : DWord) (m : Memory) (tier frame csz : Nat) : Option State :=
  (s.landEntry home w0 w1 tier frame csz).map fun s =>
    s.pageWrite home (pVpn w0) (movedW0 w0 tier csz) (movedW1 w1 frame) 0 ((List.range 65536).map fun k => m.get k)
/-- A free frame of a partition's window at a home. -/
def State.freeFrame (s : State) (p : Part) (home : Nat) : Option Nat :=
  (List.range p.frames.2).findSome? fun k => if ((s.home home).rev.find? (p.frames.1 + k)).isNone then some (p.frames.1 + k) else none
/-- A page of a blob rebuilt (R391); none: it finds no place. -/
def State.importPage (s : State) (b : Blob) (p : Part) (pg : Nat × DWord × DWord × Memory) : Option State :=
  let home := pg.1
  let w0 := pg.2.1
  let w1 := b.w1 p w0 pg.2.2.1
  let m := pg.2.2.2
  let inFrame := match s.freeFrame p home with
    | some f => s.landPage home w0 w1 m 0 f 0
    | none => none
  if pTier w0 = 0 then s.landEntry home w0 w1 0 (pFrame w1 + p.frames.1 - b.fbase) 0
  else if pTier w0 = 1 then
    let n := imageUnits ((List.range 65536).map fun k => m.get k)
    match (if 15 < n then none else (s.home home).poolFit n) with
    | some u => s.landPage home w0 w1 m 1 u n
    | none => inFrame
  else inFrame
/-- Pages rebuilt one after another: those of tier 0 first, so that the frames left are known. -/
def State.importPages (s : State) (b : Blob) (p : Part) (ps : List (Nat × DWord × DWord × Memory)) : Option State :=
  match ps with
  | [] => some s
  | x :: t => match s.importPage b p x with
    | some s => State.importPages s b p t
    | none => none
/-- The data of a blob's frame window in the window of a partition (R391). -/
def State.importFrames (s : State) (b : Blob) (p : Part) : State :=
  b.frames.foldl (fun s f =>
    let lo := chan f.1 (p.frames.1 * 65536)
    { s with hbm := f.2.foldl (fun m c => Memory.set m (lo + c.1) c.2) (s.hbm.zero lo (p.frames.2 * 65536)) }) s
/-- The domain field of an image's header rebased, in the page of the blob that holds it (R159, R391). -/
def State.rebaseImage (s : State) (b : Blob) (part : Nat) (image : Nat) : State :=
  let vpn := image / 65536
  match b.pages.find? (fun g => pVpn g.2.1 == vpn) with
  | none => s
  | some g => match s.pte? g.1 vpn with
    | none => s
    | some (w0, w1) =>
      let w := numAt (s.pageRead g.1 vpn w0 w1 8 8) 0 8
      let d := b.dom (s.part part) (bits w 43 32)
      s.pageWrite g.1 vpn w0 w1 8 (toBytes 8 (w % 2 ^ 32 + d * 2 ^ 32 + w / 2 ^ 44 * 2 ^ 44))
/-- A grid of a blob rebuilt under a new number, with its departed teams. -/
def State.importGrid (s : State) (b : Blob) (part : Nat) (old : Nat) (g : Grid) : State :=
  let p := s.part part
  let n := s.newId
  let dom := BitVec.ofNat 12 (b.dom p g.dom.toNat)
  let away := g.away.map fun a => { a with
    saved := { a.saved with grid := n.1, part := part, dom := dom }
    cmds := a.cmds.map fun c => { c with part := part, dom := dom } }
  let s := { n.2 with grids := n.2.grids.put n.1 { g with part := part, dom := dom, away := away, stalled := none, blocked := none } }
  let s := s.modPart part fun p => { p with queues := p.queues.mapVals fun _ q => if q.head = some old then { q with head := some n.1 } else q }
  g.away.foldl (fun s a => s.rebaseImage b part a.saved.image) s
/-- A failed import (R391): the destination scrubs its window. -/
def State.importFails (s : State) (part : Nat) (session : DWord) (code : Nat) : State :=
  s.onceHome part (.importBlob part session) fun s => (s.scrub part).migrated code
/-- The aperture entries, protection entries, queue registers and grids of a blob rebuilt; the partition stays halted until confirm (R391). -/
def State.importRest (s : State) (b : Blob) (part : Nat) : State :=
  let p := s.part part
  let aps := b.aps.flatMap fun a => (List.range 4).map fun d => (4096 * d + b.dom p a.1, a.2)
  let rebased := fun (w : DWord) => dw (w.toNat / 4096 * 4096 + b.dom p (w.toNat % 4096))
  let s := { s with apt := aps.foldl (fun m (a : Nat × Word) => SMap.store m 0 a.1 a.2) s.apt }
  let s := s.modPart part fun k => { k with
    imported := true
    queues := b.queues.mapVals fun _ q => { q with stopped := true }
    prot := b.prot.foldl (fun m (e : Nat × DWord × DWord) => SMap.put m e.1 (e.2.1, rebased e.2.2)) k.prot }
  b.grids.foldl (fun s g => s.importGrid b part g.1 g.2) s
/-- IMPORT (R391): the blob rebuilt in an idle partition of equal windows. -/
def execImportBlob (part : Nat) (session : DWord) (s : State) : Host.Outcome State Fault Refusal :=
  if 64 ≤ part then .fault .noSuchUnit
  else
    let p := s.part part
    if s.partBusy part || (s.grids.any fun g => g.2.part == part) then .next (s.migrated 1)
    else match s.dev.blobs.find? (fun b => b.addr == s.dev.mblob) with
    | none => .next (s.importFails part session 1)
    | some b =>
      if b.fcount != p.frames.2 || b.dcount != p.doms.2 then .next (s.migrated 1)
      else if b.session ≠ session then .next (s.importFails part session 1)
      else if s.dev.hasKey session = false then .next (s.importFails part session 2)
      else
        let pages := (b.pages.filter fun x => pTier x.2.1 == 0) ++ b.pages.filter fun x => pTier x.2.1 != 0
        match (s.importFrames b p).importPages b p pages with
        | none => .next (s.importFails part session 1)
        | some s => .next (((s.importRest b part).modDev fun d => d.keepKey session).migrated 0)
/-- CONFIRM (R391): the destination destroys its transport key. -/
def execConfirm (part : Nat) (s : State) : Host.Outcome State Fault Refusal :=
  if 64 ≤ part then .fault .noSuchUnit
  else if !(s.part part).imported then .next (s.migrated 1)
  else .next (((s.modPart part fun p => { p with imported := false }).modDev fun d => d.dropKey d.msess).migrated 0)

end Sys2Proof.Machine
end

