-- ==== Sys2Proof/Machine/Link.lean ====
section
/-! DEFINITION. Links: the pod fabric (R394 to R397), pod time between devices (R398), the bridges between dies (R133) and the host link
(R392). -/

namespace Sys2Proof.Machine

/-! ## Ports -/

/-- Flits sent again, as they went out first (R397). -/
def State.resend (s : State) (p : Nat) (fs : List SentFlit) : State := fs.foldl (fun s f => s.out (.fabric p f.flit f.epoch f.n)) s
/-- The key epoch that flits announce, if one does (R396). -/
def epochOf (fs : List SentFlit) : Option (BitVec 32) :=
  fs.findSome? fun f => f.flit.msgs.findSome? fun m => match m with
    | .keyUpdate e => some e
    | _ => none
/-- The other direction has received every flit up to `ack`: they leave the replay buffer, a key epoch among them holds from the next flit
on, and waiting flits go out (R396, R397). -/
def State.ackFlits (s : State) (p : Nat) (ack : BitVec 16) : State :=
  let q := s.port p
  match (q.replay.take q.out).findIdx? (fun f => f.flit.seq == ack) with
  | none => s
  | some k => (s.modPort p fun q => { q with
      replay := q.replay.drop (k + 1), out := q.out - (k + 1), replays := 0
      epoch := (epochOf (q.replay.take (k + 1))).getD q.epoch }).sendWaiting p
/-- A link-control NAK asks the sender to replay (R397). -/
def State.sendNak (s : State) (p : Nat) : State := s.out (.fabricNak p (s.port p).ack)
/-- A request has been answered (R397). -/
def State.answered (s : State) (r : Req) : State :=
  s.modDev fun d => { d with asked := d.asked.filter fun q => q.2.2.id != r.id, heldAway := d.heldAway.filter fun i => i != r.id }
/-- A request of this device is waiting for its answer. -/
def State.waitsFor (s : State) (r : Req) : Bool := r.dev == s.dev.no && s.dev.asked.any fun q => q.2.2.id == r.id
/-- A copy that the requester's slice holds in L goes, since the line has a new value at its home. -/
def State.dropLease (s : State) (r : Req) : State :=
  s.modSlice (s.sliceFor r.part r.die r.va.toNat) fun k =>
    { k with lines := k.lines.filter fun l => l.1 != reqLine r || (match l.2.st with
      | .L _ => false
      | _ => true) }
/-- A token of device `src` holds a request of this device (R30, R36): a fetch's or refill's threads are told, and a leaving team's request is
withdrawn. -/
def State.heldThere (s : State) (src : Nat) (r : Req) : State :=
  let s := s.modDev fun d => { d with heldAway := if d.heldAway.contains r.id then d.heldAway else d.heldAway ++ [r.id] }
  let s := match r.client with
    | .fetch _ _ => s.tell r .held
    | .stash _ _ _ => s.tell r .held
    | _ => s
  match s.team? r.ctx.toNat with
  | some t => if t.leaving != .no && reqOfTeam s.dev.no r.ctx.toNat r then s.withdrawAt src r else s
  | none => s
/-- A line in state L arrives for a request of this device (R124): its slice holds it, but for an agent that uses none. -/
def State.leaseArrives (s : State) (r : Req) (g : Grant) (lend : Nat) : State :=
  if r.direct then s.deliver r g 0 0
  else
    let n := s.sliceFor r.part r.die r.va.toNat
    let v := s.newId
    let s := v.2.slicePut n (reqLine r) ⟨.L lend, g.gkid, g.lc, g.data, 0, g.wl, g.tag, g.fd, g.fr, v.1⟩
    let l := if clientLeased r.client then s.grantLease n (reqLine r) else (0, s)
    l.2.deliver r g l.1 v.1
/-- The clusters of a die with a stash that owns a line homed elsewhere, or to which it is on its way (R67, R124). -/
def State.remoteStash (s : State) (die : Nat) (va : VAddr) : Option (Nat × Nat) :=
  (List.range 24).findSome? fun k =>
    let c := die * 24 + k
    match s.stashOf c va.toNat with
    | none => none
    | some (ctx, slot, r, i) =>
      let owns := match r.lines.find? i with
        | some y => y.st != .S
        | none => false
      match s.team? ctx with
      | some t => if owns || s.travels c (va.toNat / 64) then some (c, (t.slot slot).bank) else none
      | none => none
/-- A request leaves the tokens of a home that hold it; one left empty is freed (R36). -/
def State.withdrawHere (s : State) (home : Nat) (r : Req) : State :=
  let mine := fun (q : Req × BitVec 8) => q.1.dev == r.dev && q.1.id == r.id
  match List.find? (fun (t : Nat × Token) => t.2.held.any mine) (s.home home).tokens with
  | none => s
  | some (k, t) =>
    let left := t.held.filter fun q => !mine q
    let s := if left = [] then s.freeToken home k else s.modHome home fun h => { h with tokens := h.tokens.put k { t with held := left } }
    (s.modDev fun d => { d with served := d.served.filter fun q => q != (r.dev, r.id) }).toDevice r.dev r.va.toNat (.withdrawn r)
/-- A message from device `src` on a port (R394, R397). An answer that no request of this device waits for any longer is dropped (R388). -/
def State.receive (s : State) (port src : Nat) (m : Remote) : State :=
  match m with
  | .request home r =>
    if 192 ≤ home ∨ s.dev.served.contains (r.dev, r.id) = true then s
    else (s.modDev fun d => { d with served := d.served ++ [(r.dev, r.id)] }).post (.homeRequest home r)
  | .verdict r v =>
    if !s.waitsFor r then s
    else match v with
    | .pass => (s.modDev fun d => { d with heldAway := d.heldAway.filter fun i => i != r.id }).tell r v
    | .held => s.heldThere src r
    | _ => (s.answered r).tell r v
  | .lease r g lend => if s.waitsFor r then (s.answered r).leaseArrives r g lend else s
  | .accepted r w tag => if s.waitsFor r then ((s.answered r).dropLease r).accepted r 0 w tag else s
  | .result r old w tag => if s.waitsFor r then ((s.answered r).dropLease r).accepted r old.toNat w tag else s
  | .retry r => if s.waitsFor r then (s.answered r).postAt (s.clock + 4096) (.retryReissue r) else s
  | .grant r g => if s.waitsFor r then (s.answered r).post (if r.upg then .stashUpgradeGrant r g else .stashFill r (.filled g 0)) else s
  | .snoop home die va excl part =>
    match s.remoteStash die va with
    | some (c, bank) => s.post (.stashSnoop (homeId src home) part ⟨c, bank⟩ va excl)
    | none => s.toDevice src va.toNat (.snoopResp home s.dev.no die va .inFlight part)
  | .snoopResp home _ _ va resp _ => if home < 192 then s.snooped home (va.toNat / 64) false resp else s
  | .writeBack home dev die va i _ => if home < 192 then s.applyBack home (va.toNat / 64) (.remote dev die) i else s
  | .record part rec => if part < 64 then s.offer part rec else s
  | .replayTo home part token cancel => if home < 192 then s.tokenWrite home src part token cancel else s
  | .keyUpdate e => s.modPort port fun q => { q with rxEpoch := e }
  | .withdraw home r => if home < 192 then s.withdrawHere home r else s
  | .withdrawn r => if s.waitsFor r then (s.answered r).withdrawReq r else s
/-- A flit's header fits what it carries: at most seven mesh flits, all for one partition and on one virtual channel (R395). -/
def flitFits (f : FabricFlit) : Bool :=
  decide ((f.msgs.map msgFlits).sum = f.count.toNat) && f.msgs.all fun m => msgVc m == f.vc && (f.vc == 3 || msgPart m % 64 == f.ptag.toNat)
/-- FABRIC_FLIT_RECEIVE (R388, R395 to R397): CRC, tag, then sequence; what is in order is acknowledged and delivered. -/
def execFabricFlitReceive (port : Nat) (f : FabricFlit) (s : State) : Host.Outcome State Fault Refusal :=
  if 32 ≤ port then .fault .noSuchUnit
  else
    let q := s.port port
    if !q.up then .next s
    else if !f.crcOk then .next (s.sendNak port)
    else if !f.tagOk then .next (((s.modPort port fun q => { q with up := false }).out (.log 1)).post (.portDown port))
    else
      let s := s.ackFlits port f.ack
      let ahead := (f.seq - q.ack).toNat
      if ahead = 0 ∨ 2 ^ 15 ≤ ahead then .next s
      else if ahead ≠ 1 then .next (s.sendNak port)
      else
        let s := s.modPort port fun q => { q with ack := f.seq, received := q.received + 1 }
        if !flitFits f then .next (s.out (.log 1))
        else if f.vc ≠ 3 ∧ f.dest.toNat ≠ s.dev.no then .next s
        else .next (f.msgs.foldl (fun s m => s.receive port f.src.toNat m) s)
/-- FABRIC_NAK (R397): the sender replays from the first unacknowledged flit; the eighth replay of one flit makes the port retrain. -/
def execFabricNak (port : Nat) (s : State) : Host.Outcome State Fault Refusal :=
  if 32 ≤ port then .fault .noSuchUnit
  else
    let q := s.port port
    if q.up = false ∨ q.retraining = true ∨ q.out = 0 then .next s
    else if 8 ≤ q.replays then .next (s.modPort port fun q => { q with retraining := true })
    else .next ((s.modPort port fun q => { q with replays := q.replays + 1 }).resend port (q.replay.take q.out))
/-- A message goes with its port's fate: a request, which its device reissues, and what concerns the link alone (R396, R397). -/
def staysBehind (m : Remote) : Bool :=
  match m with
  | .request _ _ => true
  | .keyUpdate _ => true
  | _ => false
/-- PORT_DOWN (R397): unanswered requests, and what else was not acknowledged, go out over another port. -/
def execPortDown (port : Nat) (s : State) : Host.Outcome State Fault Refusal :=
  if 32 ≤ port then .fault .noSuchUnit
  else
    let q := s.port port
    let mine := s.dev.asked.filter fun a => a.2.1 == port
    let s := s.modPort port fun q => { q with up := false, retraining := false, replay := [], out := 0, replays := 0 }
    let s := s.modDev fun d => { d with asked := d.asked.filter fun a => a.2.1 != port }
    let s := mine.foldl (fun s a => s.askDevice a.1 (s.homeOf a.2.2.die a.2.2.va.toNat).2 a.2.2) s
    .next (q.replay.foldl (fun s f =>
      (f.flit.msgs.filter fun m => !staysBehind m).foldl (fun s m => s.toDevice f.flit.dest.toNat (msgVa m) m) s) s)
/-- A direction of a port is due for a new key, and has not announced it (R396). -/
def Port.keyDue (q : Port) : Bool := q.up && decide ((q.epoch.toNat + 1) * 2 ^ 40 ≤ q.sent) && (epochOf q.replay).isNone
/-- FABRIC_KEY_UPDATE (R396): every 2^40 flits a direction announces its next key, which holds from the flit after the acknowledgement. -/
def execFabricKeyUpdate (port : Nat) (s : State) : Host.Outcome State Fault Refusal :=
  if 32 ≤ port then .fault .noSuchUnit
  else
    let q := s.port port
    .next (if q.keyDue then s.sendMsg port s.dev.no (.keyUpdate (q.epoch + 1)) else s)
/-- PORT_RETRAIN_DONE (R397): the port is up and replays, or is taken down. -/
def execPortRetrainDone (port : Nat) (ok : Bool) (s : State) : Host.Outcome State Fault Refusal :=
  if 32 ≤ port then .fault .noSuchUnit
  else if ok then
    let s := s.modPort port fun q => { q with up := true, retraining := false, replays := 0 }
    .next ((s.resend port ((s.port port).replay.take (s.port port).out)).sendWaiting port)
  else .next (s.post (.portDown port))

/-! ## Pod time (R398) -/

/-- POD_TIME_FLIT (R398): pod time of the reference device; a copy more than 8 ns behind steps forward to it. -/
def execPodTimeFlit (t : Nat) (s : State) : Host.Outcome State Fault Refusal :=
  let s := if s.now + 8 < t then { s with clock := 3 * t } else s
  .next (if s.now ≤ t + 8 then s.modDev fun d => { d with podRef := s.now } else s)
/-- POD_TIME_LOSS (R398): out of step for 1 ms. -/
def execPodTimeLoss (s : State) : Host.Outcome State Fault Refusal :=
  .next (if s.dev.podRef + 1000000 ≤ s.now then s.post (.fatalError .podTime) else s)

/-! ## Bridges and the host link -/

/-- UCIE_FLIT_RECEIVE (R133): each of the four bridges has two receiving ends. A flit brings up to seven mesh flits of a virtual channel;
after one whose CRC failed, the next that counts is that one sent again, so that order is kept. -/
def execUcieFlitReceive (bridge : Nat) (flit : BridgeFlit) (s : State) : Host.Outcome State Fault Refusal :=
  if 8 ≤ bridge ∨ 7 < flit.count then .fault .noSuchUnit
  else
    let b := s.dev.bridges.getD bridge {}
    let put := fun (b : Bridge) => s.modDev fun d => { d with bridges := d.bridges.put bridge b }
    let what := (flit.vc, flit.count)
    let mesh := b.mesh.store 0 flit.vc.toNat (b.mesh.getD flit.vc.toNat 0 + flit.count)
    if !flit.crcOk then .next ((put { b with naks := b.naks + 1, again := some (b.again.getD what) }).out (.bridgeNak bridge))
    else if b.again.isSome ∧ b.again ≠ some what then .next s
    else .next (put { b with received := b.received + 1, mesh := mesh, again := none })
/-- Rates of the host link, in tenths of GT/s (R392). -/
def linkRates : List Nat := [25, 50, 80, 160, 320, 640]
/-- Widths of the host link (R392). -/
def linkWidths : List Nat := [1, 2, 4, 8, 16]
/-- HOST_LINK_TRAINING (R392). -/
def execHostLinkTraining (rate width : Nat) (s : State) : Host.Outcome State Fault Refusal :=
  .next (if linkRates.contains rate && linkWidths.contains width then s.modDev fun d => { d with linkRate := rate, linkWidth := width } else s)

end Sys2Proof.Machine
end

