-- ==== Sys2Proof/Machine/Tree.lean ====
section
/-! DEFINITION. Tree operations (R228, R252, R302, R303): the fixed tree on thread index, the integer reductions and scans, and the
instances that gather their participants. -/

namespace Sys2Proof.Machine

/-- Two children of a node: an absent one passes the other on (R228). -/
def nodeJoin (f : Nat → Nat → Nat × Flags) (a b : Option (Nat × Flags)) : Option (Nat × Flags) :=
  match a, b with
  | none, y => y
  | x, none => x
  | some x, some y =>
    let r := f x.1 y.1
    some (r.1, x.2 ||| y.2 ||| r.2)
/-- The node of the block of 2^k indices from `lo` on. -/
def treeNode (f : Nat → Nat → Nat × Flags) (leaf : Nat → Option (Nat × Flags)) (k lo : Nat) : Option (Nat × Flags) :=
  match k with
  | 0 => leaf lo
  | j + 1 => nodeJoin f (treeNode f leaf j lo) (treeNode f leaf j (lo + 2 ^ j))
/-- The blocks of the scan for index `i`, from `lo` on: the largest aligned block that ends at or before `i` (R228). -/
def scanBlocks (fuel lo i : Nat) : List (Nat × Nat) :=
  match fuel with
  | 0 => []
  | n + 1 =>
    if i < lo then []
    else
      let k := ((List.range 7).reverse.find? fun k => decide (lo % 2 ^ k = 0) && decide (lo + 2 ^ k ≤ i + 1)).getD 0
      (k, lo) :: scanBlocks n (lo + 2 ^ k) i
/-- The scan for index `i` (R228). -/
def treeScan (f : Nat → Nat → Nat × Flags) (leaf : Nat → Option (Nat × Flags)) (i : Nat) : Option (Nat × Flags) :=
  (scanBlocks 64 0 i).foldl (fun a b => nodeJoin f a (treeNode f leaf b.1 b.2)) none

/-- What participant `i` receives in plane `k`, with flags. -/
abbrev TreeFn := FEnv → List (Nat × List Nat) → Nat → Nat → Nat × Flags

/-- A value as a sum reads it: under DAZ, a NaN as the canonical one, invalid if it signals (R210, R213). -/
def readNum (e : FEnv) (x : Nat) : Nat × Flags := if isNan F32 x then (F32.nan, flagIf (isSNan F32 x) fNV) else (daz F32 e x, 0#5)
/-- The leaves of a plane. -/
def plane (e : FEnv) (vs : List (Nat × List Nat)) (k i : Nat) : Option (Nat × Flags) :=
  (vs.find? fun v => v.1 == i).map fun v => readNum e (co v.2 k)
/-- `redadd.f32`; what a lone participant receives is a result as well, and FTZ applies to it (R213, R303). -/
def treeAdd : TreeFn := fun e vs _ k => ftz F32 e ((treeNode (fAdd F32 e) (plane e vs k) 6 0).getD (0, 0#5))
/-- `scanadd.f32`. -/
def treeScanAdd : TreeFn := fun e vs i k => ftz F32 e ((treeScan (fAdd F32 e) (plane e vs k) i).getD (0, 0#5))
/-- The participant whose c_0 wins, the lowest among equals (R210, R249, R303). DEDUCED: where every c_0 is a NaN, also that of a lone
participant, none wins and every coefficient delivered is the canonical NaN, as for two NaNs (log 78). -/
def treeWinner (e : FEnv) (mx : Bool) (vs : List (Nat × List Nat)) : Option (List Nat) :=
  vs.foldl (fun a v => match a with
    | none => if isNan F32 (co v.2 0) then none else some v.2
    | some w => if pickB F32 mx (daz F32 e (co w 0)) (daz F32 e (co v.2 0)) = some true then some v.2 else some w) none
/-- `redmin.f32` and `redmax.f32`. -/
def treeMinMax (mx : Bool) : TreeFn := fun e vs _ k =>
  let nv := flagIf (vs.any fun v => isSNan F32 (co v.2 0)) fNV
  match treeWinner e mx vs with
  | none => (F32.nan, if k = 0 then nv else 0#5)
  | some w => if k = 0 then ftz F32 e (daz F32 e (co w 0), nv) else (co w k, 0#5)
/-- An integer operation over the participants' values in index order. -/
def treeInt (f : List (Nat × Nat) → Nat → Nat) : TreeFn := fun _ vs i _ => (f (vs.map fun v => (v.1, co v.2 0)) i % 2 ^ 32, 0#5)
/-- A fold over the values of all participants. -/
def foldInt (f : Nat → Nat → Nat) (vs : List (Nat × Nat)) (_ : Nat) : Nat :=
  match vs with
  | [] => 0
  | v :: t => t.foldl (fun a x => f a x.2) v.2

/-- A tree word issues (R302): on the last arrival every participant receives its result, the flags enter `jxf`, and all are
released. `jets`: the operation acts on jets (R252). DESIGN CHOICE: where participants arrive under different `jo`, the `jo` of the run that
arrives last holds for all (log 77). -/
def State.issueTree (s : State) (i : Instr) (f : LXT) (jets rank : Bool) (fn : TreeFn) : State :=
  let op := fun (j : Nat) (r : BitVec 7) => if jets then jetOp j r else one r
  s.issueInst i (fun j => if rank then [op j f.d] else [op j f.d, op j f.a]) f.g.toNat .tree (fun _ _ => none)
    fun c s m =>
      let j := if jets then c.jo else 0
      let e : FEnv := ⟨.rne, c.group.ftz, c.group.daz⟩
      let vs := (setBits 64 m.toNat).filterMap fun i =>
        (s.thread? ⟨c.ref.ctx, c.ref.grp, i⟩).map fun x => (i, (List.range (j + 1)).map fun k => (x.r (f.a.toNat + k)).toNat)
      let rs := vs.map fun v => (v.1, (List.range (j + 1)).map fun k => fn e vs v.1 k)
      let fl := rs.foldl (fun a r => (List.range (j + 1)).foldl (fun a k => a ||| inPlane k (r.2.getD k (0, 0#5)).2) a) 0#40
      let s := rs.foldl (fun s r => s.modThread ⟨c.ref.ctx, c.ref.grp, r.1⟩ fun x =>
        ((List.range (j + 1)).foldl (fun x k => x.setR (f.d.toNat + k) (wd (r.2.getD k (0, 0#5)).1)) x).released 1 s.cycle) s
      s.modGroup c.ref.ctx c.ref.grp fun g => g.raise fl

/-- REDADD_F32 (R302). -/
def execRedaddF32 (e : Bool) (f : LXT) (s : State) : Host.Outcome State Fault Refusal :=
  .next (s.issueTree (.redaddF32 e f) f true false treeAdd)
/-- REDADD_I32 (R302). -/
def execRedaddI32 (e : Bool) (f : LXT) (s : State) : Host.Outcome State Fault Refusal :=
  .next (s.issueTree (.redaddI32 e f) f false false (treeInt (foldInt fun a b => a + b)))
/-- REDMIN_F32 (R302). -/
def execRedminF32 (e : Bool) (f : LXT) (s : State) : Host.Outcome State Fault Refusal :=
  .next (s.issueTree (.redminF32 e f) f true false (treeMinMax false))
/-- REDMAX_F32 (R302). -/
def execRedmaxF32 (e : Bool) (f : LXT) (s : State) : Host.Outcome State Fault Refusal :=
  .next (s.issueTree (.redmaxF32 e f) f true false (treeMinMax true))
/-- REDMIN_S32 (R302). -/
def execRedminS32 (e : Bool) (f : LXT) (s : State) : Host.Outcome State Fault Refusal :=
  .next (s.issueTree (.redminS32 e f) f false false (treeInt (foldInt fun a b => if sint 32 b < sint 32 a then b else a)))
/-- REDMAX_S32 (R302). -/
def execRedmaxS32 (e : Bool) (f : LXT) (s : State) : Host.Outcome State Fault Refusal :=
  .next (s.issueTree (.redmaxS32 e f) f false false (treeInt (foldInt fun a b => if sint 32 a < sint 32 b then b else a)))
/-- REDAND (R302). -/
def execRedand (e : Bool) (f : LXT) (s : State) : Host.Outcome State Fault Refusal :=
  .next (s.issueTree (.redand e f) f false false (treeInt (foldInt fun a b => a &&& b)))
/-- REDOR (R302). -/
def execRedor (e : Bool) (f : LXT) (s : State) : Host.Outcome State Fault Refusal :=
  .next (s.issueTree (.redor e f) f false false (treeInt (foldInt fun a b => a ||| b)))
/-- REDXOR (R302). -/
def execRedxor (e : Bool) (f : LXT) (s : State) : Host.Outcome State Fault Refusal :=
  .next (s.issueTree (.redxor e f) f false false (treeInt (foldInt fun a b => a ^^^ b)))
/-- SCANADD_F32 (R302). -/
def execScanaddF32 (e : Bool) (f : LXT) (s : State) : Host.Outcome State Fault Refusal :=
  .next (s.issueTree (.scanaddF32 e f) f true false treeScanAdd)
/-- SCANADD_I32 (R302). -/
def execScanaddI32 (e : Bool) (f : LXT) (s : State) : Host.Outcome State Fault Refusal :=
  .next (s.issueTree (.scanaddI32 e f) f false false
    (treeInt fun vs i => ((vs.filter fun v => decide (v.1 ≤ i)).map fun v => v.2).sum))
/-- XSCANADD_I32 (R302). -/
def execXscanaddI32 (e : Bool) (f : LXT) (s : State) : Host.Outcome State Fault Refusal :=
  .next (s.issueTree (.xscanaddI32 e f) f false false
    (treeInt fun vs i => ((vs.filter fun v => decide (v.1 < i)).map fun v => v.2).sum))
/-- BCAST (R302). -/
def execBcast (e : Bool) (f : LXT) (s : State) : Host.Outcome State Fault Refusal :=
  .next (s.issueTree (.bcast e f) f false false (treeInt fun vs _ => (vs.head?.map fun v => v.2).getD 0))
/-- RANK (R302). -/
def execRank (e : Bool) (f : LXT) (s : State) : Host.Outcome State Fault Refusal :=
  .next (s.issueTree (.rank e f) f false true (treeInt fun vs i => (vs.filter fun v => decide (v.1 < i)).length))

end Sys2Proof.Machine
end

