-- ==== Sys2Proof/Machine/Trust.lean ====
section
/-! DEFINITION. Bezel: boot and life cycle (R401, R402), confidential mode and shared ranges (R403, R404), SPDM (R405, R406), reliability
(R407 to R409), power gating (R380) and register writes (R382, R410). -/

namespace Sys2Proof.Machine

/-! ## Boot and life cycle (R401, R402) -/

/-- Codes of the life-cycle states, for the evidence (R402, R406). -/
def LifeCycle.code (l : LifeCycle) : Nat :=
  match l with
  | .blank => 0
  | .provisioned => 1
  | .deployed => 2
  | .service => 3
/-- A measurement register extended (R401): M := SHA-512(M ‖ d). -/
def Device.extend (d : Device) (reg : Nat) (digest : BitVec 512) : Device :=
  let m := d.meas.getD reg 0
  { d with meas := d.meas.store 0 reg (lineOf (sha512 (lineBytes m ++ lineBytes digest))) }
/-- A firmware image passes (R401). -/
def Device.accepts (d : Device) (i : FwImage) : Bool := i.sigOk && decide (d.fused.getD i.reg 0 ≤ i.version)
/-- Images loaded one after another, up to the first that is refused. -/
def Device.load (d : Device) (is : List FwImage) : Device :=
  match is with
  | [] => d
  | i :: t => if d.accepts i then Device.load (d.extend i.reg i.digest) t else { d with recovery := true }
/-- The route table as Bezel loads it (R394). DESIGN CHOICE: the spec gives no entry a value; each is a free value. Log 43. -/
def routeTable (fresh : Nat) : SMap Word :=
  (List.range 256).foldl (fun m d => SMap.store m 0 d (wd (Config.freeBits (fresh + d)).toNat)) []
/-- BEZEL_BOOT (R394, R401): firmware is verified and measured; register 5 takes the life-cycle state and the confidential-mode setting, and
the route table is loaded. -/
def execBezelBoot (images : List FwImage) (s : State) : Host.Outcome State Fault Refusal :=
  let d := ({ s.dev with recovery := s.dev.life == .blank } : Device).load images
  let f := s.free
  .next (if d.recovery then { f.2 with dev := d }
    else { f.2 with fresh := f.2.fresh + 256, dev := { d.extend 5 f.1 with routes := routeTable f.2.fresh } })
/-- The part after a full reset (R401 to R403, R409): every on-die store and all HBM wiped; Bezel's retained memory, its fuses and what lies
outside the part stay. -/
def State.wiped (s : State) (life : LifeCycle) (conf : Bool) : State :=
  { State.reset with
    clock := s.clock, skew := s.skew, inputs := s.inputs, oracle := s.oracle, fresh := s.fresh, nextId := s.nextId, host := s.host
    outs := s.outs
    dev := { no := s.dev.no, life := life, conf := conf, confPending := conf, identity := s.dev.identity, fused := s.dev.fused
             seats := s.dev.seats, journal := s.dev.journal, watchdogs := s.dev.watchdogs, summary := s.dev.summary, podRef := s.clock / 3 } }
/-- FULL_RESET (R402, R403). -/
def execFullReset (s : State) : Host.Outcome State Fault Refusal := .next (s.wiped s.dev.life s.dev.confPending)
/-- PROVISION (R402): a blank part generates its identity key; the change of state is a full reset. -/
def execProvision (s : State) : Host.Outcome State Fault Refusal :=
  if s.dev.life = .blank then .next ((s.wiped .provisioned s.dev.confPending).modDev fun d => { d with identity := true }) else .next s
/-- SERVICE_TOKEN (R402): a deployed part enters service, where confidential mode is unavailable. -/
def execServiceToken (signedOk : Bool) (s : State) : Host.Outcome State Fault Refusal :=
  if s.dev.life = .deployed ∧ signedOk = true then .next (s.wiped .service false) else .next s
/-- CONFIDENTIAL_MODE_REQUEST (R402, R403): it takes effect at the next full reset. -/
def execConfidentialModeRequest (on : Bool) (s : State) : Host.Outcome State Fault Refusal :=
  if s.dev.life = .service then .next s else .next (s.modDev fun d => { d with confPending := on })
/-- SET_SHARED_RANGE (R404): a run of frames in the partition's window, set through a session of its virtual function. -/
def execSetSharedRange (part base count : Nat) (s : State) : Host.Outcome State Fault Refusal :=
  if 64 ≤ part then .fault .noSuchUnit
  else
    let w := (s.part part).frames
    let session := (s.dev.spdm.getD (part + 1) {}).sessions.any fun x => x.2.1
    if session && decide (w.1 ≤ base) && decide (base + count ≤ w.1 + w.2) then
      .next (s.modPart part fun p => { p with sharedBase := base, sharedCount := count })
    else .next s

/-! ## SPDM (R405, R406) -/

/-- The responder of a function. -/
def State.spdmOf (s : State) (fn : Nat) : Spdm := s.dev.spdm.getD fn {}
/-- An SPDM request to a function (R392, R405): outside its place in the exchange it is answered with an error; else the responder changes,
and the reply carries `fields` and a free value for what the keys and nonces make of it. -/
def State.spdmReq (s : State) (fn code : Nat) (ok : Bool) (fields : List (BitVec 512)) (f : Spdm → Spdm) :
    Host.Outcome State Fault Refusal :=
  if 65 ≤ fn then .fault .noSuchUnit
  else if !ok then .next (s.out (.spdmError fn code))
  else
    let n := s.fresh
    let s := { s with fresh := n + 1 }
    .next ((s.modDev fun d => { d with spdm := d.spdm.put fn (f (s.spdmOf fn)) }).out (.spdm fn code fields n))
/-- GET_VERSION (R405). -/
def execGetVersion (fn : Nat) (s : State) : Host.Outcome State Fault Refusal :=
  s.spdmReq fn 1 true [0x13] fun q => { q with version := true, caps := false, algs := false }
/-- GET_CAPABILITIES (R405). -/
def execGetCapabilities (fn : Nat) (s : State) : Host.Outcome State Fault Refusal :=
  s.spdmReq fn 2 (s.spdmOf fn).version [] fun q => { q with caps := true }
/-- NEGOTIATE_ALGORITHMS (R405). -/
def execNegotiateAlgorithms (fn : Nat) (s : State) : Host.Outcome State Fault Refusal :=
  s.spdmReq fn 3 (s.spdmOf fn).caps [] fun q => { q with algs := true }
/-- The device has its identity and the exchange has come to where signed requests go (R402, R405). -/
def State.spdmReady (s : State) (fn : Nat) : Bool := (s.spdmOf fn).algs && s.dev.identity
/-- GET_DIGESTS (R405). -/
def execGetDigests (fn : Nat) (s : State) : Host.Outcome State Fault Refusal := s.spdmReq fn 4 (s.spdmReady fn) [] id
/-- GET_CERTIFICATE (R405). -/
def execGetCertificate (fn : Nat) (s : State) : Host.Outcome State Fault Refusal := s.spdmReq fn 5 (s.spdmReady fn) [] id
/-- CHALLENGE (R405). -/
def execChallenge (fn : Nat) (nonce : BitVec 256) (s : State) : Host.Outcome State Fault Refusal :=
  s.spdmReq fn 6 (s.spdmReady fn) [nonce.zeroExtend 512] id
/-- The measurement blocks of a function (R406): registers 0 to 5; for a virtual function, block 16 as the state stands. -/
def State.evidence (s : State) (fn : Nat) : List (BitVec 512) :=
  let regs := (List.range 6).map fun k => s.dev.meas.getD k 0
  let p := s.part (fn - 1)
  let l := p.live
  regs ++ if fn = 0 then [] else
    [l.clm0, l.clm1, l.sls0, l.sls1, l.sls2, l.sls3, l.memw, dw p.sharedBase, dw p.sharedCount, dw (oneIf s.dev.conf), dw s.dev.life.code,
      dw s.dev.layGen].map fun w => w.zeroExtend 512
/-- GET_MEASUREMENTS (R406). -/
def execGetMeasurements (fn : Nat) (nonce : BitVec 256) (s : State) : Host.Outcome State Fault Refusal :=
  s.spdmReq fn 7 (s.spdmReady fn) (nonce.zeroExtend 512 :: s.evidence fn) id
/-- KEY_EXCHANGE (R405). -/
def execKeyExchange (fn : Nat) (session : DWord) (point : BitVec 768) (s : State) : Host.Outcome State Fault Refusal :=
  s.spdmReq fn 8 (s.spdmReady fn && point != 0) [session.zeroExtend 512] fun q =>
    { q with sessions := (q.sessions.filter fun x => x.1 != session) ++ [(session, false, 0)] }
/-- What a handshake of the physical function brings besides its session (R391, R392): the keys of the IDE streams, and a transport key that
no earlier one of its number has destroyed. DESIGN CHOICE: the spec does not say when in the session the IDE keys are set; they are as its
handshake finishes. Log 75. -/
def State.sessionKeys (s : State) (fn : Nat) (session : DWord) : State :=
  if fn = 0 then s.modDev fun d => { d with ide := some session, destroyed := d.destroyed.filter fun k => k != session } else s
/-- FINISH (R405). -/
def execFinish (fn : Nat) (session : DWord) (hmacOk : Bool) (s : State) : Host.Outcome State Fault Refusal :=
  let ok := hmacOk && (s.spdmOf fn).sessions.any fun x => x.1 == session && !x.2.1
  (if ok then s.sessionKeys fn session else s).spdmReq fn 9 ok [session.zeroExtend 512] fun q =>
    { q with sessions := q.sessions.map fun x => if x.1 = session then (x.1, true, x.2.2) else x }
/-- KEY_UPDATE (R405). -/
def execKeyUpdate (fn : Nat) (session : DWord) (s : State) : Host.Outcome State Fault Refusal :=
  s.spdmReq fn 10 ((s.spdmOf fn).sessions.any fun x => x.1 == session && x.2.1) [session.zeroExtend 512] fun q =>
    { q with sessions := q.sessions.map fun x => if x.1 = session then (x.1, x.2.1, x.2.2 + 1) else x }
/-- END_SESSION (R405): the IDE streams lose the keys that it set (R392). -/
def execEndSession (fn : Nat) (session : DWord) (s : State) : Host.Outcome State Fault Refusal :=
  let ok := (s.spdmOf fn).sessions.any fun x => x.1 == session
  (if ok = true ∧ fn = 0 ∧ s.dev.ide = some session then s.modDev fun d => { d with ide := none } else s).spdmReq fn 11 ok
    [session.zeroExtend 512] fun q => { q with sessions := q.sessions.filter fun x => x.1 != session }

/-! ## Reliability (R407 to R409) -/

/-- PATROL_SCRUB (R407, R408): a fault of one symbol, or in a word of SRAM, is corrected; whether a line of HBM has more than one symbol in
error is a free value, and such a line is poisoned. -/
def execPatrolScrub (place : ScrubPlace) (s : State) : Host.Outcome State Fault Refusal :=
  match place with
  | .sram _ => .next s
  | .hbm dpa =>
    let f := s.free
    if f.1.getLsbD 0 then
      match s.dpaLine dpa with
      | some (h, line, _) => .next (f.2.modHome h fun k => { k with poison := if k.poison.contains line then k.poison else k.poison ++ [line] })
      | none => .next f.2
    else .next f.2
/-- FATAL_ERROR (R409): all work stops; the dump or the summary, then AER. -/
def execFatalError (c : FatalCause) (s : State) : Host.Outcome State Fault Refusal :=
  let d := s.dev.dumpbase
  let s := s.modDev fun x => { x with fatal := true, summary := if d = 0 then some c else x.summary }
  .next ((if d = 0 then s else s.out (.dump d)).out .aer)

/-! ## Power (R380) -/

/-- No team is resident on the cores that `on` names. -/
def State.vacant (s : State) (on : Nat → Bool) : Bool := !(s.teams.any fun t => t.2.groups.any fun g => on g.2.core)
/-- A core's storage zeroed. -/
def Core.zeroed (k : Core) : Core := { k with icache := [], once := [], lanes := [], rc := [], rcAsked := [], refused := [] }
/-- A core's storage zeroed, with its pair cache; gated or not from then on (R380). -/
def State.zeroCore (s : State) (n : Nat) (gated : Bool) : State :=
  (s.modCore n fun k => { k.zeroed with gated := gated }).modPair (n / 2) fun _ => []
/-- A cluster's storage zeroed: banks, barrier registers, and its cores' (R380). -/
def State.zeroCluster (s : State) (n : Nat) (gated : Bool) : State :=
  let s := (List.range 32).foldl (fun s b => s.bankClear n b) s
  let s := (List.range 4).foldl (fun s k => s.zeroCore (4 * n + k) (s.core (4 * n + k)).gated) s
  s.modCluster n fun k => { k with gated := gated, bars := [] }
/-- UNIT_POWER_GATE (R380): a unit that holds no resident work is gated; a slice gives up its lines first. What a protected context left is
zeroed. -/
def execUnitPowerGate (u : PowerUnit) (s : State) : Host.Outcome State Fault Refusal :=
  match u with
  | .core n =>
    if 384 ≤ n then .fault .noSuchUnit
    else .next (if s.vacant (fun c => c == n) then s.zeroCore n true else s)
  | .cluster n =>
    if 96 ≤ n then .fault .noSuchUnit
    else .next (if s.vacant (fun c => clusterOf c == n) then s.zeroCluster n true else s)
  | .slice d n =>
    if 4 ≤ d ∨ 32 ≤ n then .fault .noSuchUnit
    else if s.parts.any fun p => p.2.live.slices.contains (sliceNo d n) then .next s
    else .next ((s.flushSlices [sliceNo d n]).modSlice (sliceNo d n) fun k => { k with gated := true })
/-- UNIT_POWER_WAKE (R380): storage is zeroed before its first use. -/
def execUnitPowerWake (u : PowerUnit) (s : State) : Host.Outcome State Fault Refusal :=
  match u with
  | .core n =>
    if 384 ≤ n then .fault .noSuchUnit
    else .next (if (s.core n).gated then s.zeroCore n false else s)
  | .cluster n =>
    if 96 ≤ n then .fault .noSuchUnit
    else .next (if (s.cluster n).gated then s.zeroCluster n false else s)
  | .slice d n =>
    if 4 ≤ d ∨ 32 ≤ n then .fault .noSuchUnit
    else .next (if (s.slice (sliceNo d n)).gated then s.modSlice (sliceNo d n) fun k => { k with lines := [], gated := false } else s)

/-! ## Register writes (R15, R23, R32, R39, R169, R369, R382, R384, R391, R399, R409, R410) -/

/-- A register of a home written (R23): HCMD starts a command. -/
def State.homeRegister (s : State) (home off : Nat) (v : DWord) : State :=
  let vpn := BitVec.ofNat 44 v.toNat
  match off with
  | 0x00 =>
    match dbits v 63 60 with
    | 1 => s.post (.install home vpn)
    | 2 => s.post (.remove home vpn)
    | 3 => s.post (.move home vpn)
    | 4 => s.post (.recallPage home vpn)
    | _ => s.modHome home fun h => { h with result := if h.cmd.isSome then 5 else 6 }
  | 0x08 => s.modHome home fun h => { h with harg0 := v }
  | 0x10 => s.modHome home fun h => { h with harg1 := v }
  | 0x20 => s.modHome home fun h => { h with hptb := v }
  | 0x28 => s.modHome home fun h => { h with hptc := v }
  | 0x30 => s.modHome home fun h => { h with hdsb := v }
  | 0x38 => s.modHome home fun h => { h with hcpl := v }
  | _ => s
/-- A register of a shadow set written (R382). -/
def Layout.write (l : Layout) (off : Nat) (v : DWord) : Layout :=
  match off with
  | 0x00 => { l with clm0 := v }
  | 0x08 => { l with clm1 := v }
  | 0x10 => { l with sls0 := v }
  | 0x18 => { l with sls1 := v }
  | 0x20 => { l with sls2 := v }
  | 0x28 => { l with sls3 := v }
  | 0x30 => { l with memw := v }
  | 0x38 => { l with budg := v }
  | _ => l
/-- A register of the physical function written. -/
def State.pfRegister (s : State) (cap off : Nat) (v : DWord) : State :=
  match cap with
  | 0x0011 =>
    if off = 0 then
      match dbits v 63 62 with
      | 0 => s.post (.tableUpdateDistribution v)
      | 1 => s.post (.tableUpdateSetList v)
      | 2 => s.post (.tableUpdateAperture v)
      | _ => s
    else if off = 8 then s.modDev fun d => { d with dtdata := v }
    else if 0x1000 ≤ off ∧ (off - 0x1000) / 0x40 < 192 then s.homeRegister ((off - 0x1000) / 0x40) ((off - 0x1000) % 0x40) v
    else s
  | 0x0013 =>
    let k := off / 0x10
    if k < 1024 then s.modPart (k / 16) fun p =>
      let e := p.prot.getD (k % 16) (0, 0)
      { p with prot := p.prot.put (k % 16) (if off % 0x10 = 0 then (e.1, v) else if off % 0x10 = 8 then (v, e.2) else e) }
    else s
  | 0x0017 =>
    if off < 0x1000 then s.modPart (off / 0x40) fun p => { p with shadow := p.shadow.write (off % 0x40) v }
    else if off = 0x2000 then
      match dbits v 63 62 with
      | 1 => s.post .layoutCommit
      | 2 => s.post (.partitionReset (dbits v 5 0))
      | _ => s
    else s
  | 0x0019 =>
    if off = 0 then
      let s := s.modDev fun d => { d with mcmd := v }
      match dbits v 63 61 with
      | 1 => s.post (.exportBlob (dbits v 5 0) s.dev.msess)
      | 2 => s.post (.migrationRelease (dbits v 5 0))
      | 3 => s.post (.importBlob (dbits v 5 0) s.dev.msess)
      | 4 => s.post (.confirm (dbits v 5 0))
      | _ => s
    else if off = 8 then s.modDev fun d => { d with mblob := v }
    else if off = 0x10 then s.modDev fun d => { d with msess := v }
    else s
  | 0x001B => if off = 0 then s.modDev fun d => { d with dumpbase := dw (v.toNat / 2 ^ 24 * 2 ^ 24) } else s
  | _ => s
/-- A register of a launch queue written (R169). -/
def State.queueRegister (s : State) (part q off : Nat) (v : DWord) : State :=
  match off with
  | 0x00 => s.modPart part fun p => p.modQueue q fun k => if k.en then k else { k with base := v }
  | 0x08 => s.post (.launchQueueEnable part q v)
  | 0x10 => s.post (.lqwpWrite part q v)
  | _ => s
/-- A register of a partition's virtual function written. -/
def State.vfRegister (s : State) (part cap off : Nat) (v : DWord) : State :=
  match cap with
  | 0x0012 =>
    match off with
    | 0x00 => s.post (.fqbaseWrite part v)
    | 0x08 => s.modPart part fun p => { p with fq := { p.fq with cfg := v } }
    | 0x10 => s.post (.fqheadWrite part v)
    | 0x20 =>
      match dbits v 63 62 with
      | 1 => s.post (.replay part v)
      | 2 => s.post (.cancel part v)
      | _ => s
    | _ => s
  | 0x0015 => if off < 0x200 then s.queueRegister part (off / 0x20) (off % 0x20) v else s
  | 0x0016 =>
    match off with
    | 0x00 =>
      match dbits v 63 61 with
      | 1 => s.post (.softPreempt part v)
      | 2 => s.post (.halt part v)
      | 3 => s.post (.kill part v)
      | 4 => s.post (.resume part v)
      | _ => s
    | 0x08 => s.modPart part fun p => { p with pcfg := dw (dbits v 47 32 * 2 ^ 32 + dbits v 15 0) }
    | _ => s
  | 0x001A =>
    if off / 0x10 < 64 then
      s.modQp (part + 1) (off / 0x10) fun q =>
        if off % 0x10 = 0 then { q with dom := BitVec.ofNat 12 v.toNat, rnr := dbits v 23 16 } else if off % 0x10 = 8 then { q with kset := v } else q
    else s
  | _ => s
/-- REGISTER_WRITE (R410): a register without behaviour of its own stores the value; one that starts a command starts it. A read-only
register, and any but the mailbox's while the part is in recovery (R401), drops the write. In confidential mode the write must arrive in an
IDE stream (R404). -/
def execRegisterWrite (fn cap off : Nat) (v : DWord) (s : State) : Host.Outcome State Fault Refusal :=
  if 65 ≤ fn then .fault .noSuchUnit
  else if s.dev.recovery then .next s
  else if !s.ideOk true then .next s.ideDrop
  else if fn = 0 then .next (s.pfRegister cap off v)
  else .next (s.vfRegister (fn - 1) cap off v)

end Sys2Proof.Machine
end

