-- ==== Sys2Proof/Machine/Dispatch.lean ====
section
/-! DEFINITION. The meaning of every instruction: one arm for each constructor of `Instr`. -/

namespace Sys2Proof.Machine

def exec (i : Instr) (s : State) : Host.Outcome State Fault Refusal :=
  match i with
  | .fadd m f => Sys2Proof.Machine.execFadd m f s
  | .fsub m f => Sys2Proof.Machine.execFsub m f s
  | .fmul m f => Sys2Proof.Machine.execFmul m f s
  | .fma m f => Sys2Proof.Machine.execFma m f s
  | .fnma m f => Sys2Proof.Machine.execFnma m f s
  | .fmin m f => Sys2Proof.Machine.execFmin m f s
  | .fmax m f => Sys2Proof.Machine.execFmax m f s
  | .fmov m f => Sys2Proof.Machine.execFmov m f s
  | .fabs m f => Sys2Proof.Machine.execFabs m f s
  | .fneg m f => Sys2Proof.Machine.execFneg m f s
  | .frint m f => Sys2Proof.Machine.execFrint m f s
  | .ffloor m f => Sys2Proof.Machine.execFfloor m f s
  | .fceil m f => Sys2Proof.Machine.execFceil m f s
  | .ftrunc m f => Sys2Proof.Machine.execFtrunc m f s
  | .fclass m f => Sys2Proof.Machine.execFclass m f s
  | .fsat m f => Sys2Proof.Machine.execFsat m f s
  | .fcmpeq m f => Sys2Proof.Machine.execFcmpeq m f s
  | .fcmplt m f => Sys2Proof.Machine.execFcmplt m f s
  | .fcmple m f => Sys2Proof.Machine.execFcmple m f s
  | .fcmpun m f => Sys2Proof.Machine.execFcmpun m f s
  | .faddG m f => Sys2Proof.Machine.execFaddG m f s
  | .fmulG m f => Sys2Proof.Machine.execFmulG m f s
  | .fmaG m f => Sys2Proof.Machine.execFmaG m f s
  | .fsubG m f => Sys2Proof.Machine.execFsubG m f s
  | .fcvt m f => Sys2Proof.Machine.execFcvt m f s
  | .qnt m f => Sys2Proof.Machine.execQnt m f s
  | .sel m f => Sys2Proof.Machine.execSel m f s
  | .iadd m f => Sys2Proof.Machine.execIadd m f s
  | .isub m f => Sys2Proof.Machine.execIsub m f s
  | .imul m f => Sys2Proof.Machine.execImul m f s
  | .imad m f => Sys2Proof.Machine.execImad m f s
  | .imulhs m f => Sys2Proof.Machine.execImulhs m f s
  | .imulhu m f => Sys2Proof.Machine.execImulhu m f s
  | .iabsd m f => Sys2Proof.Machine.execIabsd m f s
  | .land m f => Sys2Proof.Machine.execLand m f s
  | .lor m f => Sys2Proof.Machine.execLor m f s
  | .lxor m f => Sys2Proof.Machine.execLxor m f s
  | .landn m f => Sys2Proof.Machine.execLandn m f s
  | .shl m f => Sys2Proof.Machine.execShl m f s
  | .shr m f => Sys2Proof.Machine.execShr m f s
  | .sar m f => Sys2Proof.Machine.execSar m f s
  | .rotl m f => Sys2Proof.Machine.execRotl m f s
  | .imins m f => Sys2Proof.Machine.execImins m f s
  | .imaxs m f => Sys2Proof.Machine.execImaxs m f s
  | .iminu m f => Sys2Proof.Machine.execIminu m f s
  | .imaxu m f => Sys2Proof.Machine.execImaxu m f s
  | .imov m f => Sys2Proof.Machine.execImov m f s
  | .lnot m f => Sys2Proof.Machine.execLnot m f s
  | .ineg m f => Sys2Proof.Machine.execIneg m f s
  | .iabs m f => Sys2Proof.Machine.execIabs m f s
  | .clz m f => Sys2Proof.Machine.execClz m f s
  | .popc m f => Sys2Proof.Machine.execPopc m f s
  | .brev m f => Sys2Proof.Machine.execBrev m f s
  | .sext8 m f => Sys2Proof.Machine.execSext8 m f s
  | .sext16 m f => Sys2Proof.Machine.execSext16 m f s
  | .zext8 m f => Sys2Proof.Machine.execZext8 m f s
  | .zext16 m f => Sys2Proof.Machine.execZext16 m f s
  | .icmpeq m f => Sys2Proof.Machine.execIcmpeq m f s
  | .icmpne m f => Sys2Proof.Machine.execIcmpne m f s
  | .icmplts m f => Sys2Proof.Machine.execIcmplts m f s
  | .icmpltu m f => Sys2Proof.Machine.execIcmpltu m f s
  | .icmples m f => Sys2Proof.Machine.execIcmples m f s
  | .icmpleu m f => Sys2Proof.Machine.execIcmpleu m f s
  | .iaddG m f => Sys2Proof.Machine.execIaddG m f s
  | .isubG m f => Sys2Proof.Machine.execIsubG m f s
  | .imulG m f => Sys2Proof.Machine.execImulG m f s
  | .imadG m f => Sys2Proof.Machine.execImadG m f s
  | .landG m f => Sys2Proof.Machine.execLandG m f s
  | .lorG m f => Sys2Proof.Machine.execLorG m f s
  | .lxorG m f => Sys2Proof.Machine.execLxorG m f s
  | .shlG m f => Sys2Proof.Machine.execShlG m f s
  | .shrG m f => Sys2Proof.Machine.execShrG m f s
  | .sarG m f => Sys2Proof.Machine.execSarG m f s
  | .iminsG m f => Sys2Proof.Machine.execIminsG m f s
  | .imaxsG m f => Sys2Proof.Machine.execImaxsG m f s
  | .iminuG m f => Sys2Proof.Machine.execIminuG m f s
  | .imaxuG m f => Sys2Proof.Machine.execImaxuG m f s
  | .movi m f => Sys2Proof.Machine.execMovi m f s
  | .movhi m f => Sys2Proof.Machine.execMovhi m f s
  | .pand m f => Sys2Proof.Machine.execPand m f s
  | .por m f => Sys2Proof.Machine.execPor m f s
  | .pxor m f => Sys2Proof.Machine.execPxor m f s
  | .pandn m f => Sys2Proof.Machine.execPandn m f s
  | .pnot m f => Sys2Proof.Machine.execPnot m f s
  | .pcopy m f => Sys2Proof.Machine.execPcopy m f s
  | .pset m d b => Sys2Proof.Machine.execPset m d b s
  | .pmovV m f => Sys2Proof.Machine.execPmovV m f s
  | .pmovP m f => Sys2Proof.Machine.execPmovP m f s
  | .jseed m f => Sys2Proof.Machine.execJseed m f s
  | .jget m f => Sys2Proof.Machine.execJget m f s
  | .jset m f => Sys2Proof.Machine.execJset m f s
  | .jder m f => Sys2Proof.Machine.execJder m f s
  | .jdiff m f => Sys2Proof.Machine.execJdiff m f s
  | .jint m f => Sys2Proof.Machine.execJint m f s
  | .jtrunc m f => Sys2Proof.Machine.execJtrunc m f s
  | .ld m f => Sys2Proof.Machine.execLd m f s
  | .st m f => Sys2Proof.Machine.execSt m f s
  | .atom m f => Sys2Proof.Machine.execAtom m f s
  | .sld m f => Sys2Proof.Machine.execSld m f s
  | .sst m f => Sys2Proof.Machine.execSst m f s
  | .satom m f => Sys2Proof.Machine.execSatom m f s
  | .br e p o => Sys2Proof.Machine.execBr e p o s
  | .brn e p o => Sys2Proof.Machine.execBrn e p o s
  | .call e o => Sys2Proof.Machine.execCall e o s
  | .jmp e o => Sys2Proof.Machine.execJmp e o s
  | .ret e => Sys2Proof.Machine.execRet e s
  | .bri e a l => Sys2Proof.Machine.execBri e a l s
  | .enrol e g => Sys2Proof.Machine.execEnrol e g s
  | .rejoin e g => Sys2Proof.Machine.execRejoin e g s
  | .barg e g => Sys2Proof.Machine.execBarg e g s
  | .exit e => Sys2Proof.Machine.execExit e s
  | .trap e c => Sys2Proof.Machine.execTrap e c s
  | .yield e => Sys2Proof.Machine.execYield e s
  | .lpop e a => Sys2Proof.Machine.execLpop e a s
  | .fence e sc o => Sys2Proof.Machine.execFence e sc o s
  | .sleep e c => Sys2Proof.Machine.execSleep e c s
  | .nop e => Sys2Proof.Machine.execNop e s
  | .redaddF32 e f => Sys2Proof.Machine.execRedaddF32 e f s
  | .redaddI32 e f => Sys2Proof.Machine.execRedaddI32 e f s
  | .redminF32 e f => Sys2Proof.Machine.execRedminF32 e f s
  | .redmaxF32 e f => Sys2Proof.Machine.execRedmaxF32 e f s
  | .redminS32 e f => Sys2Proof.Machine.execRedminS32 e f s
  | .redmaxS32 e f => Sys2Proof.Machine.execRedmaxS32 e f s
  | .redand e f => Sys2Proof.Machine.execRedand e f s
  | .redor e f => Sys2Proof.Machine.execRedor e f s
  | .redxor e f => Sys2Proof.Machine.execRedxor e f s
  | .scanaddF32 e f => Sys2Proof.Machine.execScanaddF32 e f s
  | .scanaddI32 e f => Sys2Proof.Machine.execScanaddI32 e f s
  | .xscanaddI32 e f => Sys2Proof.Machine.execXscanaddI32 e f s
  | .bcast e f => Sys2Proof.Machine.execBcast e f s
  | .rank e f => Sys2Proof.Machine.execRank e f s
  | .frcp m a => Sys2Proof.Machine.execFrcp m a s
  | .frsqrt m a => Sys2Proof.Machine.execFrsqrt m a s
  | .fsqrt m a => Sys2Proof.Machine.execFsqrt m a s
  | .fdiv m a b => Sys2Proof.Machine.execFdiv m a b s
  | .fexp2 m a => Sys2Proof.Machine.execFexp2 m a s
  | .flog2 m a => Sys2Proof.Machine.execFlog2 m a s
  | .fexp m a => Sys2Proof.Machine.execFexp m a s
  | .fln m a => Sys2Proof.Machine.execFln m a s
  | .fsin m a => Sys2Proof.Machine.execFsin m a s
  | .fcos m a => Sys2Proof.Machine.execFcos m a s
  | .ftanh m a => Sys2Proof.Machine.execFtanh m a s
  | .fsigm m a => Sys2Proof.Machine.execFsigm m a s
  | .ferf m a => Sys2Proof.Machine.execFerf m a s
  | .fpow m a b => Sys2Proof.Machine.execFpow m a b s
  | .mma e f => Sys2Proof.Machine.execMma e f s
  | .accrd m f => Sys2Proof.Machine.execAccrd m f s
  | .accwr m f => Sys2Proof.Machine.execAccwr m f s
  | .gadd e f => Sys2Proof.Machine.execGadd e f s
  | .gsub e f => Sys2Proof.Machine.execGsub e f s
  | .gmul e f => Sys2Proof.Machine.execGmul e f s
  | .gmulhs e f => Sys2Proof.Machine.execGmulhs e f s
  | .gmulhu e f => Sys2Proof.Machine.execGmulhu e f s
  | .gand e f => Sys2Proof.Machine.execGand e f s
  | .gor e f => Sys2Proof.Machine.execGor e f s
  | .gxor e f => Sys2Proof.Machine.execGxor e f s
  | .gandn e f => Sys2Proof.Machine.execGandn e f s
  | .gshl e f => Sys2Proof.Machine.execGshl e f s
  | .gshr e f => Sys2Proof.Machine.execGshr e f s
  | .gsar e f => Sys2Proof.Machine.execGsar e f s
  | .grotl e f => Sys2Proof.Machine.execGrotl e f s
  | .gmins e f => Sys2Proof.Machine.execGmins e f s
  | .gmaxs e f => Sys2Proof.Machine.execGmaxs e f s
  | .gminu e f => Sys2Proof.Machine.execGminu e f s
  | .gmaxu e f => Sys2Proof.Machine.execGmaxu e f s
  | .gpopc e f => Sys2Proof.Machine.execGpopc e f s
  | .gclz e f => Sys2Proof.Machine.execGclz e f s
  | .gctz e f => Sys2Proof.Machine.execGctz e f s
  | .gbrev e f => Sys2Proof.Machine.execGbrev e f s
  | .gnot e f => Sys2Proof.Machine.execGnot e f s
  | .gneg e f => Sys2Proof.Machine.execGneg e f s
  | .gmov e f => Sys2Proof.Machine.execGmov e f s
  | .gaddi e f => Sys2Proof.Machine.execGaddi e f s
  | .gandi e f => Sys2Proof.Machine.execGandi e f s
  | .gori e f => Sys2Proof.Machine.execGori e f s
  | .gxori e f => Sys2Proof.Machine.execGxori e f s
  | .gshi e f => Sys2Proof.Machine.execGshi e f s
  | .gmovk e f => Sys2Proof.Machine.execGmovk e f s
  | .gmovz e f => Sys2Proof.Machine.execGmovz e f s
  | .gcmpeq e f => Sys2Proof.Machine.execGcmpeq e f s
  | .gcmpne e f => Sys2Proof.Machine.execGcmpne e f s
  | .gcmplts e f => Sys2Proof.Machine.execGcmplts e f s
  | .gcmpltu e f => Sys2Proof.Machine.execGcmpltu e f s
  | .gcmples e f => Sys2Proof.Machine.execGcmples e f s
  | .gcmpleu e f => Sys2Proof.Machine.execGcmpleu e f s
  | .gld e f => Sys2Proof.Machine.execGld e f s
  | .gst e f => Sys2Proof.Machine.execGst e f s
  | .gatom e f => Sys2Proof.Machine.execGatom e f s
  | .gsld e f => Sys2Proof.Machine.execGsld e f s
  | .gsst e f => Sys2Proof.Machine.execGsst e f s
  | .gbrz e f => Sys2Proof.Machine.execGbrz e f s
  | .gbrnz e f => Sys2Proof.Machine.execGbrnz e f s
  | .gjmp e o => Sys2Proof.Machine.execGjmp e o s
  | .rdsr e d r => Sys2Proof.Machine.execRdsr e d r s
  | .wrsr e a r => Sys2Proof.Machine.execWrsr e a r s
  | .setjo e n => Sys2Proof.Machine.execSetjo e n s
  | .jxfclr e a => Sys2Proof.Machine.execJxfclr e a s
  | .gtrap e c => Sys2Proof.Machine.execGtrap e c s
  | .gexit e => Sys2Proof.Machine.execGexit e s
  | .gyield e => Sys2Proof.Machine.execGyield e s
  | .waitn e c n => Sys2Proof.Machine.execWaitn e c n s
  | .bart e f => Sys2Proof.Machine.execBart e f s
  | .bars e f => Sys2Proof.Machine.execBars e f s
  | .qpush e f => Sys2Proof.Machine.execQpush e f s
  | .qpop e d q => Sys2Proof.Machine.execQpop e d q s
  | .give e f => Sys2Proof.Machine.execGive e f s
  | .bmopAccept e f => Sys2Proof.Machine.execBmopAccept e f s
  | .bmopBwait e f => Sys2Proof.Machine.execBmopBwait e f s
  | .bmopRelease e f => Sys2Proof.Machine.execBmopRelease e f s
  | .bmopStash e f => Sys2Proof.Machine.execBmopStash e f s
  | .bmopPhase e f => Sys2Proof.Machine.execBmopPhase e f s
  | .bmopQuery e f => Sys2Proof.Machine.execBmopQuery e f s
  | .syncwInit e f => Sys2Proof.Machine.execSyncwInit e f s
  | .syncwWait e f => Sys2Proof.Machine.execSyncwWait e f s
  | .syncwArrive e f => Sys2Proof.Machine.execSyncwArrive e f s
  | .tld e f => Sys2Proof.Machine.execTld e f s
  | .tst e f => Sys2Proof.Machine.execTst e f s
  | .launch e f => Sys2Proof.Machine.execLaunch e f s
  | .runStart core => Sys2Proof.Machine.execRunStart core s
  | .icacheFill r res => Sys2Proof.Machine.execIcacheFill r res s
  | .boundStallExpiry core rid => Sys2Proof.Machine.execBoundStallExpiry core rid s
  | .registerCacheFill core t => Sys2Proof.Machine.execRegisterCacheFill core t s
  | .laneStoreFill r data => Sys2Proof.Machine.execLaneStoreFill r data s
  | .verdictArrival r v => Sys2Proof.Machine.execVerdictArrival r v s
  | .loadDataArrival r g lend ver => Sys2Proof.Machine.execLoadDataArrival r g lend ver s
  | .storeReply r w => Sys2Proof.Machine.execStoreReply r w s
  | .atomicResultArrival r old w tag => Sys2Proof.Machine.execAtomicResultArrival r old w tag s
  | .releaseConditionsMet t => Sys2Proof.Machine.execReleaseConditionsMet t s
  | .acquireWaitEnd t => Sys2Proof.Machine.execAcquireWaitEnd t s
  | .retryReissue r => Sys2Proof.Machine.execRetryReissue r s
  | .sliceRequest r => Sys2Proof.Machine.execSliceRequest r s
  | .sliceRenewal r ver => Sys2Proof.Machine.execSliceRenewal r ver s
  | .homeRequest home r => Sys2Proof.Machine.execHomeRequest home r s
  | .homeReadShared home r => Sys2Proof.Machine.execHomeReadShared home r s
  | .homeReadExclusive home r => Sys2Proof.Machine.execHomeReadExclusive home r s
  | .homeUpgrade home r => Sys2Proof.Machine.execHomeUpgrade home r s
  | .homeDirectRequest home r => Sys2Proof.Machine.execHomeDirectRequest home r s
  | .invalidation home die va => Sys2Proof.Machine.execInvalidation home die va s
  | .invalidationAck home die va lmax => Sys2Proof.Machine.execInvalidationAck home die va lmax s
  | .forwardedSnoop home die va excl => Sys2Proof.Machine.execForwardedSnoop home die va excl s
  | .snoopResponse home die va resp => Sys2Proof.Machine.execSnoopResponse home die va resp s
  | .writeBack home die va j => Sys2Proof.Machine.execWriteBack home die va j s
  | .writeBackAck die va => Sys2Proof.Machine.execWriteBackAck die va s
  | .cleanDropNotice home die va lmax => Sys2Proof.Machine.execCleanDropNotice home die va lmax s
  | .ownershipGrant r g => Sys2Proof.Machine.execOwnershipGrant r g s
  | .remoteLeaseGrant home r => Sys2Proof.Machine.execRemoteLeaseGrant home r s
  | .recallDrop unit va => Sys2Proof.Machine.execRecallDrop unit va s
  | .stashFill r res => Sys2Proof.Machine.execStashFill r res s
  | .stashUpgradeGrant r g => Sys2Proof.Machine.execStashUpgradeGrant r g s
  | .stashSnoop home part stash va excl => Sys2Proof.Machine.execStashSnoop home part stash va excl s
  | .bankWriteRetire w => Sys2Proof.Machine.execBankWriteRetire w s
  | .bankZeroDone cluster bank => Sys2Proof.Machine.execBankZeroDone cluster bank s
  | .giveDrainDone cluster give => Sys2Proof.Machine.execGiveDrainDone cluster give s
  | .sleepExpiry t => Sys2Proof.Machine.execSleepExpiry t s
  | .sfxResultArrival t level serial => Sys2Proof.Machine.execSfxResultArrival t level serial s
  | .mmaOctetDone core op q => Sys2Proof.Machine.execMmaOctetDone core op q s
  | .mmaComplete core op => Sys2Proof.Machine.execMmaComplete core op s
  | .qmxArmMark ctx grp w0 w1 => Sys2Proof.Machine.execQmxArmMark ctx grp w0 w1 s
  | .qmxReportFlags ctx grp => Sys2Proof.Machine.execQmxReportFlags ctx grp s
  | .markPost ctx grp mark => Sys2Proof.Machine.execMarkPost ctx grp mark s
  | .copyPlain id => Sys2Proof.Machine.execCopyPlain id s
  | .copyStrided id => Sys2Proof.Machine.execCopyStrided id s
  | .copyTaggedPack id => Sys2Proof.Machine.execCopyTaggedPack id s
  | .copyTaggedUnpack id => Sys2Proof.Machine.execCopyTaggedUnpack id s
  | .copyStripDrain id => Sys2Proof.Machine.execCopyStripDrain id s
  | .gather id => Sys2Proof.Machine.execGather id s
  | .reduceScatter id => Sys2Proof.Machine.execReduceScatter id s
  | .allGather id => Sys2Proof.Machine.execAllGather id s
  | .allReduce id => Sys2Proof.Machine.execAllReduce id s
  | .collectiveMatch id tag peers => Sys2Proof.Machine.execCollectiveMatch id tag peers s
  | .copyWriteRetire id => Sys2Proof.Machine.execCopyWriteRetire id s
  | .engineCommandComplete id => Sys2Proof.Machine.execEngineCommandComplete id s
  | .tableUpdateDistribution v => Sys2Proof.Machine.execTableUpdateDistribution v s
  | .tableUpdateSetList v => Sys2Proof.Machine.execTableUpdateSetList v s
  | .tableUpdateAperture v => Sys2Proof.Machine.execTableUpdateAperture v s
  | .tableUpdateDone => Sys2Proof.Machine.execTableUpdateDone s
  | .regionCloseRecallDone region => Sys2Proof.Machine.execRegionCloseRecallDone region s
  | .install home vpn => Sys2Proof.Machine.execInstall home vpn s
  | .remove home vpn => Sys2Proof.Machine.execRemove home vpn s
  | .move home vpn => Sys2Proof.Machine.execMove home vpn s
  | .recallPage home vpn => Sys2Proof.Machine.execRecall home vpn s
  | .homeRecallDone home => Sys2Proof.Machine.execHomeRecallDone home s
  | .moveDrainDone home => Sys2Proof.Machine.execMoveDrainDone home s
  | .moveCopyDone home => Sys2Proof.Machine.execMoveCopyDone home s
  | .faultRecordWrite part => Sys2Proof.Machine.execFaultRecordWrite part s
  | .faultQueueCoalesce part => Sys2Proof.Machine.execFaultQueueCoalesce part s
  | .fqbaseWrite part v => Sys2Proof.Machine.execFqbaseWrite part v s
  | .fqheadWrite part v => Sys2Proof.Machine.execFqheadWrite part v s
  | .replay part v => Sys2Proof.Machine.execReplay part v s
  | .cancel part v => Sys2Proof.Machine.execCancel part v s
  | .hostCxlMemRead dpa size ide => Sys2Proof.Machine.execHostCxlMemRead dpa size ide s
  | .hostCxlMemWrite dpa size data ide => Sys2Proof.Machine.execHostCxlMemWrite dpa size data ide s
  | .hostStoreCompletion dpa w => Sys2Proof.Machine.execHostStoreCompletion dpa w s
  | .hostOwnershipRequest dpa ide => Sys2Proof.Machine.execHostOwnershipRequest dpa ide s
  | .hostOwnershipGrant home va => Sys2Proof.Machine.execHostOwnershipGrant home va s
  | .hostSnoop hpa excl => Sys2Proof.Machine.execHostSnoop hpa excl s
  | .hostBiResponse home va dirty => Sys2Proof.Machine.execHostBiResponse home va dirty s
  | .launchQueueEnable part queue v => Sys2Proof.Machine.execLaunchQueueEnable part queue v s
  | .lqwpWrite part queue v => Sys2Proof.Machine.execLqwpWrite part queue v s
  | .recordTake part queue => Sys2Proof.Machine.execRecordTake part queue s
  | .waitConditionPoll part queue => Sys2Proof.Machine.execWaitConditionPoll part queue s
  | .teamDispatch grid => Sys2Proof.Machine.execTeamDispatch grid s
  | .clusterSetDispatch grid => Sys2Proof.Machine.execClusterSetDispatch grid s
  | .dispatchPriorityBlock grid => Sys2Proof.Machine.execDispatchPriorityBlock grid s
  | .teamEnd ctx => Sys2Proof.Machine.execTeamEnd ctx s
  | .gridComplete grid => Sys2Proof.Machine.execGridComplete grid s
  | .gridStallEvict grid => Sys2Proof.Machine.execGridStallEvict grid s
  | .gridStallFault grid => Sys2Proof.Machine.execGridStallFault grid s
  | .softPreempt part v => Sys2Proof.Machine.execSoftPreempt part v s
  | .halt part v => Sys2Proof.Machine.execHalt part v s
  | .kill part v => Sys2Proof.Machine.execKill part v s
  | .resume part v => Sys2Proof.Machine.execResume part v s
  | .graceExpiry part => Sys2Proof.Machine.execGraceExpiry part s
  | .killTimerExpiry part => Sys2Proof.Machine.execKillTimerExpiry part s
  | .teamDeparted ctx => Sys2Proof.Machine.execTeamDeparted ctx s
  | .layoutCommit => Sys2Proof.Machine.execLayoutCommit s
  | .layoutFlip => Sys2Proof.Machine.execLayoutFlip s
  | .partitionReset part => Sys2Proof.Machine.execPartitionReset part s
  | .partitionResetDone part => Sys2Proof.Machine.execPartitionResetDone part s
  | .bezelRestart => Sys2Proof.Machine.execBezelRestart s
  | .budgetRefill => Sys2Proof.Machine.execBudgetRefill s
  | .energyCharge => Sys2Proof.Machine.execEnergyCharge s
  | .exportBlob part session => Sys2Proof.Machine.execExportBlob part session s
  | .migrationRelease part => Sys2Proof.Machine.execMigrationRelease part s
  | .importBlob part session => Sys2Proof.Machine.execImportBlob part session s
  | .confirm part => Sys2Proof.Machine.execConfirm part s
  | .fabricFlitReceive port f => Sys2Proof.Machine.execFabricFlitReceive port f s
  | .fabricNak port => Sys2Proof.Machine.execFabricNak port s
  | .portDown port => Sys2Proof.Machine.execPortDown port s
  | .fabricKeyUpdate port => Sys2Proof.Machine.execFabricKeyUpdate port s
  | .podTimeFlit t => Sys2Proof.Machine.execPodTimeFlit t s
  | .podTimeLoss => Sys2Proof.Machine.execPodTimeLoss s
  | .postSend fn qp ptr len imm => Sys2Proof.Machine.execPostSend fn qp ptr len imm s
  | .postReceive fn qp ptr len => Sys2Proof.Machine.execPostReceive fn qp ptr len s
  | .rdmaSendArrival fn qp psn data imm => Sys2Proof.Machine.execRdmaSendArrival fn qp psn data imm s
  | .rdmaRequestArrival fn qp psn => Sys2Proof.Machine.execRdmaRequestArrival fn qp psn s
  | .rnrNak fn qp psn => Sys2Proof.Machine.execRnrNak fn qp psn s
  | .bezelBoot images => Sys2Proof.Machine.execBezelBoot images s
  | .fullReset => Sys2Proof.Machine.execFullReset s
  | .provision => Sys2Proof.Machine.execProvision s
  | .serviceToken signedOk => Sys2Proof.Machine.execServiceToken signedOk s
  | .confidentialModeRequest on => Sys2Proof.Machine.execConfidentialModeRequest on s
  | .setSharedRange part base count => Sys2Proof.Machine.execSetSharedRange part base count s
  | .getVersion fn => Sys2Proof.Machine.execGetVersion fn s
  | .getCapabilities fn => Sys2Proof.Machine.execGetCapabilities fn s
  | .negotiateAlgorithms fn => Sys2Proof.Machine.execNegotiateAlgorithms fn s
  | .getDigests fn => Sys2Proof.Machine.execGetDigests fn s
  | .getCertificate fn => Sys2Proof.Machine.execGetCertificate fn s
  | .challenge fn nonce => Sys2Proof.Machine.execChallenge fn nonce s
  | .getMeasurements fn nonce => Sys2Proof.Machine.execGetMeasurements fn nonce s
  | .keyExchange fn session point => Sys2Proof.Machine.execKeyExchange fn session point s
  | .finish fn session hmacOk => Sys2Proof.Machine.execFinish fn session hmacOk s
  | .keyUpdate fn session => Sys2Proof.Machine.execKeyUpdate fn session s
  | .endSession fn session => Sys2Proof.Machine.execEndSession fn session s
  | .patrolScrub place => Sys2Proof.Machine.execPatrolScrub place s
  | .poisonConsumed t => Sys2Proof.Machine.execPoisonConsumed t s
  | .fatalError c => Sys2Proof.Machine.execFatalError c s
  | .registerWrite fn cap off v => Sys2Proof.Machine.execRegisterWrite fn cap off v s
  | .illegalWord w w2 => Sys2Proof.Machine.execIllegalWord w w2 s
  | .unitPowerGate u => Sys2Proof.Machine.execUnitPowerGate u s
  | .unitPowerWake u => Sys2Proof.Machine.execUnitPowerWake u s
  | .portRetrainDone port ok => Sys2Proof.Machine.execPortRetrainDone port ok s
  | .ucieFlitReceive bridge flit => Sys2Proof.Machine.execUcieFlitReceive bridge flit s
  | .transportAckArrival fn qp psn ok => Sys2Proof.Machine.execTransportAckArrival fn qp psn ok s
  | .hostLinkTraining rate width => Sys2Proof.Machine.execHostLinkTraining rate width s

end Sys2Proof.Machine
end

