-- ==== Sys2Proof/Machine/Happen.lean ====
section
/-! DEFINITION. What happens when an event that the state holds takes place: the meaning that `exec` gives the same event. -/

namespace Sys2Proof.Machine

/-- An event takes place. -/
def happen (e : Event) (s : State) : Host.Outcome State Fault Refusal :=
  match e with
  | .runStart core => execRunStart core s
  | .icacheFill r res => execIcacheFill r res s
  | .boundStallExpiry core rid => execBoundStallExpiry core rid s
  | .registerCacheFill core t => execRegisterCacheFill core t s
  | .laneStoreFill r data => execLaneStoreFill r data s
  | .verdictArrival r v => execVerdictArrival r v s
  | .loadDataArrival r g lend ver => execLoadDataArrival r g lend ver s
  | .storeReply r w => execStoreReply r w s
  | .atomicResultArrival r old w tag => execAtomicResultArrival r old w tag s
  | .releaseConditionsMet t => execReleaseConditionsMet t s
  | .acquireWaitEnd t => execAcquireWaitEnd t s
  | .retryReissue r => execRetryReissue r s
  | .sliceRequest r => execSliceRequest r s
  | .sliceRenewal r ver => execSliceRenewal r ver s
  | .homeRequest home r => execHomeRequest home r s
  | .homeReadShared home r => execHomeReadShared home r s
  | .homeReadExclusive home r => execHomeReadExclusive home r s
  | .homeUpgrade home r => execHomeUpgrade home r s
  | .homeDirectRequest home r => execHomeDirectRequest home r s
  | .invalidation home die va => execInvalidation home die va s
  | .invalidationAck home die va lmax => execInvalidationAck home die va lmax s
  | .forwardedSnoop home die va excl => execForwardedSnoop home die va excl s
  | .snoopResponse home die va resp => execSnoopResponse home die va resp s
  | .writeBack home die va j => execWriteBack home die va j s
  | .writeBackAck die va => execWriteBackAck die va s
  | .cleanDropNotice home die va lmax => execCleanDropNotice home die va lmax s
  | .ownershipGrant r g => execOwnershipGrant r g s
  | .remoteLeaseGrant home r => execRemoteLeaseGrant home r s
  | .recallDrop unit va => execRecallDrop unit va s
  | .stashFill r res => execStashFill r res s
  | .stashUpgradeGrant r g => execStashUpgradeGrant r g s
  | .stashSnoop home part stash va excl => execStashSnoop home part stash va excl s
  | .bankWriteRetire w => execBankWriteRetire w s
  | .bankZeroDone cluster bank => execBankZeroDone cluster bank s
  | .giveDrainDone cluster give => execGiveDrainDone cluster give s
  | .sleepExpiry t => execSleepExpiry t s
  | .sfxResultArrival t level serial => execSfxResultArrival t level serial s
  | .mmaOctetDone core op q => execMmaOctetDone core op q s
  | .mmaComplete core op => execMmaComplete core op s
  | .qmxArmMark ctx grp w0 w1 => execQmxArmMark ctx grp w0 w1 s
  | .qmxReportFlags ctx grp => execQmxReportFlags ctx grp s
  | .markPost ctx grp mark => execMarkPost ctx grp mark s
  | .copyPlain id => execCopyPlain id s
  | .copyStrided id => execCopyStrided id s
  | .copyTaggedPack id => execCopyTaggedPack id s
  | .copyTaggedUnpack id => execCopyTaggedUnpack id s
  | .copyStripDrain id => execCopyStripDrain id s
  | .gather id => execGather id s
  | .reduceScatter id => execReduceScatter id s
  | .allGather id => execAllGather id s
  | .allReduce id => execAllReduce id s
  | .collectiveMatch id tag peers => execCollectiveMatch id tag peers s
  | .copyWriteRetire id => execCopyWriteRetire id s
  | .engineCommandComplete id => execEngineCommandComplete id s
  | .tableUpdateDistribution v => execTableUpdateDistribution v s
  | .tableUpdateSetList v => execTableUpdateSetList v s
  | .tableUpdateAperture v => execTableUpdateAperture v s
  | .tableCopy die => .next (s.tableCopy die)
  | .tableUpdateDone => execTableUpdateDone s
  | .regionCloseRecallDone region => execRegionCloseRecallDone region s
  | .install home vpn => execInstall home vpn s
  | .remove home vpn => execRemove home vpn s
  | .move home vpn => execMove home vpn s
  | .recallPage home vpn => execRecall home vpn s
  | .homeRecallDone home => execHomeRecallDone home s
  | .moveDrainDone home => execMoveDrainDone home s
  | .moveCopyDone home => execMoveCopyDone home s
  | .faultRecordWrite part => execFaultRecordWrite part s
  | .faultQueueCoalesce part => execFaultQueueCoalesce part s
  | .fqbaseWrite part v => execFqbaseWrite part v s
  | .fqheadWrite part v => execFqheadWrite part v s
  | .replay part v => execReplay part v s
  | .cancel part v => execCancel part v s
  | .hostCxlMemRead dpa size ide => execHostCxlMemRead dpa size ide s
  | .hostCxlMemWrite dpa size data ide => execHostCxlMemWrite dpa size data ide s
  | .hostStoreCompletion dpa w => execHostStoreCompletion dpa w s
  | .hostOwnershipRequest dpa ide => execHostOwnershipRequest dpa ide s
  | .hostOwnershipGrant home va => execHostOwnershipGrant home va s
  | .hostSnoop hpa excl => execHostSnoop hpa excl s
  | .hostBiResponse home va dirty => execHostBiResponse home va dirty s
  | .launchQueueEnable part queue v => execLaunchQueueEnable part queue v s
  | .lqwpWrite part queue v => execLqwpWrite part queue v s
  | .recordTake part queue => execRecordTake part queue s
  | .waitConditionPoll part queue => execWaitConditionPoll part queue s
  | .teamDispatch grid => execTeamDispatch grid s
  | .clusterSetDispatch grid => execClusterSetDispatch grid s
  | .dispatchPriorityBlock grid => execDispatchPriorityBlock grid s
  | .teamEnd ctx => execTeamEnd ctx s
  | .gridComplete grid => execGridComplete grid s
  | .gridStallEvict grid => execGridStallEvict grid s
  | .gridStallFault grid => execGridStallFault grid s
  | .softPreempt part v => execSoftPreempt part v s
  | .halt part v => execHalt part v s
  | .kill part v => execKill part v s
  | .resume part v => execResume part v s
  | .graceExpiry part => execGraceExpiry part s
  | .killTimerExpiry part => execKillTimerExpiry part s
  | .teamDeparted ctx => execTeamDeparted ctx s
  | .layoutCommit => execLayoutCommit s
  | .layoutFlip => execLayoutFlip s
  | .partitionReset part => execPartitionReset part s
  | .partitionResetDone part => execPartitionResetDone part s
  | .bezelRestart => execBezelRestart s
  | .budgetRefill => execBudgetRefill s
  | .energyCharge => execEnergyCharge s
  | .exportBlob part session => execExportBlob part session s
  | .migrationRelease part => execMigrationRelease part s
  | .importBlob part session => execImportBlob part session s
  | .confirm part => execConfirm part s
  | .fabricFlitReceive port f => execFabricFlitReceive port f s
  | .fabricNak port => execFabricNak port s
  | .portDown port => execPortDown port s
  | .fabricKeyUpdate port => execFabricKeyUpdate port s
  | .podTimeFlit t => execPodTimeFlit t s
  | .podTimeLoss => execPodTimeLoss s
  | .postSend fn qp ptr len imm => execPostSend fn qp ptr len imm s
  | .postReceive fn qp ptr len => execPostReceive fn qp ptr len s
  | .rdmaSendArrival fn qp psn data imm => execRdmaSendArrival fn qp psn data imm s
  | .rdmaRequestArrival fn qp psn => execRdmaRequestArrival fn qp psn s
  | .rnrNak fn qp psn => execRnrNak fn qp psn s
  | .bezelBoot images => execBezelBoot images s
  | .fullReset => execFullReset s
  | .provision => execProvision s
  | .serviceToken signedOk => execServiceToken signedOk s
  | .confidentialModeRequest on => execConfidentialModeRequest on s
  | .setSharedRange part base count => execSetSharedRange part base count s
  | .getVersion fn => execGetVersion fn s
  | .getCapabilities fn => execGetCapabilities fn s
  | .negotiateAlgorithms fn => execNegotiateAlgorithms fn s
  | .getDigests fn => execGetDigests fn s
  | .getCertificate fn => execGetCertificate fn s
  | .challenge fn nonce => execChallenge fn nonce s
  | .getMeasurements fn nonce => execGetMeasurements fn nonce s
  | .keyExchange fn session point => execKeyExchange fn session point s
  | .finish fn session hmacOk => execFinish fn session hmacOk s
  | .keyUpdate fn session => execKeyUpdate fn session s
  | .endSession fn session => execEndSession fn session s
  | .patrolScrub place => execPatrolScrub place s
  | .poisonConsumed t => execPoisonConsumed t s
  | .fatalError c => execFatalError c s
  | .registerWrite fn cap off v => execRegisterWrite fn cap off v s
  | .illegalWord w w2 => execIllegalWord w w2 s
  | .unitPowerGate u => execUnitPowerGate u s
  | .unitPowerWake u => execUnitPowerWake u s
  | .portRetrainDone port ok => execPortRetrainDone port ok s
  | .ucieFlitReceive bridge flit => execUcieFlitReceive bridge flit s
  | .transportAckArrival fn qp psn ok => execTransportAckArrival fn qp psn ok s
  | .hostLinkTraining rate width => execHostLinkTraining rate width s

end Sys2Proof.Machine
end

