-- ==== Sys2Proof/Machine/Pending.lean ====
section
/-! DEFINITION. What can happen next: the order in which messages of one way arrive, events whose condition has come about, what the outside
may ask for, the issue slots of the cores (R142), and how the part counts activity (R389). -/

namespace Sys2Proof.Machine

/-! ## Time passing -/

/-- A microsecond or a refill of the budgets ends between two ticks (R389). -/
def ticksOver (t0 t1 : Nat) : List Event :=
  (if t0 / 3000 < t1 / 3000 then [.energyCharge] else []) ++ if t0 / 3000000 < t1 / 3000000 then [.budgetRefill] else []
/-- One cycle passes (R7). -/
def State.tick (s : State) : State := ({ s with clock := s.clock + 2 }).postAll (ticksOver s.clock (s.clock + 2))
/-- A grid's stall counter and the time since which its next team has not fitted (R176, R180). -/
def State.watchGrid (s : State) (k : Nat) (g : Grid) : Grid :=
  let from_ := fun (on : Bool) (since : Option Nat) (now : Nat) => if on then some (since.getD now) else none
  let waits := s.gridWants g && (s.spots k g).isNone
  { g with stalled := from_ (s.gridStalled k g) g.stalled s.cycle, blocked := from_ waits g.blocked (s.nowOn (s.seat g.part)) }
/-- The dispatcher looks at every grid, and the ladder at every rung in progress (R176, R180, R370). -/
def State.observe (s : State) : State := ({ s with grids := s.grids.mapVals fun k g => s.watchGrid k g }).ladderEnds

/-! ## The order of messages (R98, R118, R122, R125) -/

/-- The way that a message travels: two messages of one way arrive in the order sent; no way: in any order. A die's requests,
acknowledgements and notices to a home keep their order, also across bridges (R125, R133); what a home has in service keeps it line by line.
Log 11, 45. -/
def wayOf (dev : Nat) (e : Event) : List Nat :=
  match e with
  | .ownershipGrant r _ => if r.dev = dev then [1, r.die] else []
  | .forwardedSnoop _ die _ _ => [1, die]
  | .invalidation _ die _ => [1, die]
  | .stashSnoop _ _ k _ _ => [2, k.cluster]
  | .invalidationAck home die _ _ => [3, home, dev, die]
  | .homeReadShared home r => [9, home, r.va.toNat / 64]
  | .homeReadExclusive home r => [9, home, r.va.toNat / 64]
  | .homeUpgrade home r => [9, home, r.va.toNat / 64]
  | .homeDirectRequest home r => [9, home, r.va.toNat / 64]
  | .remoteLeaseGrant home r => [9, home, r.va.toNat / 64]
  | .icacheFill r _ => [5, r.id]
  | .laneStoreFill r _ => [5, r.id]
  | .stashFill r _ => [2, clusterOf r.core]
  | .stashUpgradeGrant r _ => [2, clusterOf r.core]
  | .homeRequest home r => [3, home, r.dev, r.die]
  | .cleanDropNotice home die _ _ => [3, home, dev, die]
  | .writeBack home die _ _ => [4, home, die]
  | .verdictArrival r _ => [5, r.id]
  | .loadDataArrival r _ _ _ => [5, r.id]
  | .storeReply r _ => [5, r.id]
  | .atomicResultArrival r _ _ _ => [5, r.id]
  | .bankWriteRetire w => [6, w.cluster, w.bank]
  | .bankZeroDone cluster bank => [6, cluster, bank]
  | .mmaOctetDone core _ _ => [7, core]
  | _ => []

/-! ## The outside -/

/-- What the outside can ask for while the part is in recovery: configuration space is not modelled, the mailbox's commands are (R401). -/
def mailbox (e : Event) : Bool :=
  match e with
  | .bezelBoot _ => true
  | .fullReset => true
  | .provision => true
  | .serviceToken _ => true
  | .confidentialModeRequest _ => true
  | .getVersion _ => true
  | .getCapabilities _ => true
  | .negotiateAlgorithms _ => true
  | .getDigests _ => true
  | .getCertificate _ => true
  | .challenge _ _ => true
  | .getMeasurements _ _ => true
  | .keyExchange _ _ _ => true
  | .finish _ _ _ => true
  | .keyUpdate _ _ => true
  | .endSession _ _ => true
  | .fatalError _ => true
  | _ => false
/-- Commands that a register write starts (R15, R23, R32 to R35, R169, R369, R384, R391). -/
def command (e : Event) : Bool :=
  match e with
  | .tableUpdateDistribution _ => true
  | .tableUpdateSetList _ => true
  | .tableUpdateAperture _ => true
  | .install _ _ => true
  | .remove _ _ => true
  | .move _ _ => true
  | .recallPage _ _ => true
  | .fqbaseWrite _ _ => true
  | .fqheadWrite _ _ => true
  | .replay _ _ => true
  | .cancel _ _ => true
  | .launchQueueEnable _ _ _ => true
  | .lqwpWrite _ _ _ => true
  | .softPreempt _ _ => true
  | .halt _ _ => true
  | .kill _ _ => true
  | .resume _ _ => true
  | .layoutCommit => true
  | .partitionReset _ => true
  | .exportBlob _ _ => true
  | .migrationRelease _ => true
  | .importBlob _ _ => true
  | .confirm _ => true
  | _ => false
/-- What the outside can do to the part. -/
def outside (e : Event) : Bool :=
  mailbox e || command e || match e with
  | .hostCxlMemRead _ _ _ => true
  | .hostCxlMemWrite _ _ _ _ => true
  | .hostOwnershipRequest _ _ => true
  | .hostSnoop _ _ => true
  | .hostBiResponse _ _ _ => true
  | .collectiveMatch _ _ _ => true
  | .bezelRestart => true
  | .fabricFlitReceive _ _ => true
  | .fabricNak _ => true
  | .portDown _ => true
  | .portRetrainDone _ _ => true
  | .podTimeFlit _ => true
  | .podTimeLoss => true
  | .postSend _ _ _ _ _ => true
  | .postReceive _ _ _ _ => true
  | .rdmaSendArrival _ _ _ _ _ => true
  | .rdmaRequestArrival _ _ _ => true
  | .rnrNak _ _ _ => true
  | .transportAckArrival _ _ _ _ => true
  | .setSharedRange _ _ _ => true
  | .patrolScrub _ => true
  | .registerWrite _ _ _ _ => true
  | .unitPowerGate _ => true
  | .unitPowerWake _ => true
  | .ucieFlitReceive _ _ => true
  | .hostLinkTraining _ _ => true
  | _ => false
/-- What of the outside the part takes now: after a fatal error a full reset alone (R409), in recovery the mailbox (R401). -/
def State.takes (s : State) (e : Event) : Bool := if s.dev.fatal then e == .fullReset else if s.dev.recovery then mailbox e else outside e

/-! ## Events whose condition has come about -/

/-- Releases and acquires of single threads (R103, R105). -/
def State.ripeThreads (s : State) : List Event :=
  s.teams.flatMap fun p => p.2.groups.flatMap fun g => g.2.threads.filterMap fun x =>
    let q : ThreadRef := ⟨p.1, g.1, x.1⟩
    match x.2.st with
    | .parked (.release sc) false => if releaseOk (s.nowAt g.2.core) x.2 sc.toNat then some (.releaseConditionsMet q) else none
    | .parked (.acquire n) false => if n ≤ s.nowAt g.2.core then some (.acquireWaitEnd q) else none
    | _ => none
/-- Matrix operations, marks and flag reports (R317, R325, R326). -/
def State.ripeMatrix (s : State) : List Event :=
  (s.cores.flatMap fun c => (s.mmaEnding c.2).map fun o => Event.mmaComplete c.1 o.id) ++
  s.teams.flatMap fun p => p.2.groups.flatMap fun g =>
    (g.2.marks.filterMap fun k => if s.markReady g.2.core k then some (Event.markPost p.1 g.1 k.m) else none) ++
    if s.reportReady p.1 g.1 g.2 then [.qmxReportFlags p.1 g.1] else []
/-- Gives and engine commands of a cluster (R81, R353, R356). -/
def State.ripeCluster (s : State) (cl : Nat) (k : Cluster) : List Event :=
  (k.gives.filterMap fun g => if g.dst.isSome && !g.complete && s.drained g.ctx g.slot g.bank then some (Event.giveDrainDone cl g.id) else none) ++
  (k.cmds.filterMap fun c => if s.cmdReady cl c && !((s.part c.part).spent && s.cmdWrites c) then some c.event else none) ++
  (s.cmdEnding k).map fun c => .engineCommandComplete c.id
/-- The command of a home (R25, R27). -/
def State.ripeHome (s : State) (h : Nat) (c : HomeCmd) : List Event :=
  if c.op = 3 then
    if c.drained then [.moveCopyDone h] else if s.moveDrained h c then [.moveDrainDone h] else []
  else if s.recallReady h c.names then [.homeRecallDone h]
  else []
/-- Region closing, layout commit and partition reset (R18, R385, R387). -/
def State.ripeDevice (s : State) : List Event :=
  (match s.dev.dtClosing with
   | some r =>
     if s.dev.dtLeft.isEmpty && !s.regionBusy r && (!(s.regionOpen r).isEmpty || s.regionReady r) then [Event.regionCloseRecallDone r] else []
   | none => []) ++
  (if s.layoutDue then [.layoutFlip] else []) ++
  (match s.dev.resetting with
   | some p => if s.resetDue p then [.partitionResetDone p] else []
   | none => []) ++
  s.dev.ports.filterMap fun p => if p.2.keyDue then some (.fabricKeyUpdate p.1) else none
/-- Teams that end or depart (R164, R376). -/
def State.ripeTeams (s : State) : List Event :=
  s.teams.flatMap fun p => (if s.teamOver p.1 then [.teamEnd p.1] else []) ++ if s.departsNow p.1 p.2 then [.teamDeparted p.1] else []
/-- Grids that have stalled, or stop others (R176, R181, R182). -/
def State.ripeGrids (s : State) : List Event :=
  s.grids.flatMap fun g =>
    (if s.stallDue g.2 then [if g.2.lrec.prog then .gridStallEvict g.1 else .gridStallFault g.1] else []) ++
    match g.2.blocked with
    | some t => if g.2.blocks = false ∧ t + 1000000 ≤ s.nowOn (s.seat g.2.part) then [.dispatchPriorityBlock g.1] else []
    | none => []
/-- A partition's dispatcher: records to take, teams to place (R170, R176 to R178). -/
def State.ripeParts (s : State) : List Event :=
  s.parts.flatMap fun p =>
    (p.2.queues.filterMap fun q => if s.takeReady p.1 q.1 then some (Event.recordTake p.1 q.1) else none) ++
    match s.turn p.1 with
    | some t => match s.grids.find? t.1 with
      | some g =>
        if s.spotsHeld g t.2 || (s.imagesAsk g (t.2.map fun q => q.who)).mail != s.mail then
          [if g.lrec.cset then .clusterSetDispatch t.1 else .teamDispatch t.1]
        else []
      | none => []
    | none => []
/-- Every event whose condition has come about. -/
def State.ripe (s : State) : List Event :=
  s.ripeThreads ++ s.ripeMatrix ++ (s.clusters.flatMap fun k => s.ripeCluster k.1 k.2) ++
  (s.homes.flatMap fun h => match h.2.cmd with
    | some c => s.ripeHome h.1 c
    | none => []) ++
  s.ripeDevice ++ s.ripeTeams ++ s.ripeGrids ++ s.ripeParts

/-! ## Issue (R142) -/

/-- A run can issue: it does not stall, or what it stalls for is resolved. -/
def State.runReady (s : State) (core : Nat) (r : Run) : Bool :=
  match r.stall with
  | none => true
  | some (c, _) => s.stallOk core r.set c
/-- The next word of a run is in the uniform set. -/
def Run.uniformNext (r : Run) : Bool := match r.code with
  | w :: _ => isUniform w
  | [] => false
/-- The runs that take a core's two issue slots: of those ready, the oldest with a lane-set word next and the oldest with a uniform one. -/
def State.slotsAt (s : State) (core : Nat) (k : Core) : List Nat :=
  let ready := k.runs.filter (s.runReady core)
  ((ready.find? fun r => !r.uniformNext).toList ++ (ready.find? fun r => r.uniformNext).toList).map fun r => r.rid
/-- A core's picker has a run to start, or threads to make ready (R143, R144). -/
def State.pickerActs (s : State) (core : Nat) : Bool := (s.picks core (s.cands core)).isSome || !(s.resolved core).isEmpty
/-- Cores on which groups reside. -/
def State.usedCores (s : State) : List Nat := (s.teams.flatMap fun t => t.2.groups.map fun g => g.2.core).eraseDups

/-! ## Moves -/

/-- A step that can be next. -/
inductive Move where
  /-- A time has come. -/
  | due (t : Nat) (e : Event)
  /-- A message arrives, or a unit gets to what it has to do. -/
  | agenda (e : Event)
  /-- The outside acts. -/
  | input (e : Event)
  /-- A condition has come about. -/
  | ripe (e : Event)
  /-- A run issues. -/
  | issue (core rid : Nat)
  /-- Nothing happens in this cycle. -/
  | idle
  deriving DecidableEq, Repr
/-- Entries of the agenda that nothing of their way comes before. -/
def arrivals (dev : Nat) (seen : List (List Nat)) (es : List Event) : List Event :=
  match es with
  | [] => []
  | e :: t =>
    let w := wayOf dev e
    let w := if w = [] ∧ command e = true then [8] else w
    if w ≠ [] ∧ seen.contains w = true then arrivals dev seen t else e :: arrivals dev (if w = [] then seen else w :: seen) t
/-- An octet of a leaving team is frozen, but where a matched give waits for its operation or one behind it (R328, R373). -/
def State.frozen (s : State) (e : Event) : Bool :=
  match e with
  | .mmaOctetDone core op _ => match s.mmaOp? core op with
    | some o => match s.team? o.ctx with
      | some t => t.leaving != .no && !((s.core core).mq.any fun p =>
          p.ctx == o.ctx && decide (o.id ≤ p.id) && (s.cluster (clusterOf core)).givePending p.ctx p.slots p.pins)
      | none => false
    | none => false
  | _ => false
/-- A request that a home has in service: the home, and the partition whose request it is (R390). -/
def homeTurn (e : Event) : Option (Nat × Nat) :=
  match e with
  | .homeReadShared home r => some (home, r.part % 64)
  | .homeReadExclusive home r => some (home, r.part % 64)
  | .homeUpgrade home r => some (home, r.part % 64)
  | .homeDirectRequest home r => some (home, r.part % 64)
  | .remoteLeaseGrant home r => some (home, r.part % 64)
  | _ => none
/-- Of what could arrive, what may: a home serves the partitions whose requests it has in turn, one request at a time (R390). -/
def State.inTurn (s : State) (es : List Event) : List Event :=
  es.filter fun e => match homeTurn e with
    | none => true
    | some h => firstTurn (s.home h.1).turn (es.filterMap fun d => match homeTurn d with
        | some k => if k.1 = h.1 then some k.2 else none
        | none => none) == some h.2
/-- What the outside asks for next; it waits for the commands that its register writes have started. -/
def State.nextInput (s : State) : Option Event := if s.agenda.any command && !s.dev.fatal then none else s.inputs.find? s.takes
/-- Every step that can be next, in the order in which an empty oracle takes them. -/
def State.moves (s : State) : List Move :=
  let inp := s.nextInput.toList.map Move.input
  if s.dev.fatal then inp
  else
    (s.due.filterMap fun d => if d.1 ≤ s.clock then some (.due d.1 d.2) else none) ++
    (s.inTurn (arrivals s.dev.no [] (s.agenda.filter fun e => !s.frozen e))).map Move.agenda ++ s.ripe.map Move.ripe ++ inp ++
    (s.cores.flatMap fun c => (s.slotsAt c.1 c.2).map fun r => Move.issue c.1 r) ++
    s.usedCores.filterMap fun c => if s.pickerActs c then some (.ripe (.runStart c)) else none
/-- The step that the oracle picks, and the oracle after it. -/
def State.choose (s : State) : Move × State :=
  match s.oracle with
  | [] => (s.moves.headD .idle, s)
  | k :: t => (s.moves.getD (k % max 1 s.moves.length) .idle, { s with oracle := t })

/-! ## Activity (R389) -/

/-- The partition of a team. -/
def State.partOf (s : State) (ctx : Nat) : Nat := match s.team? ctx with
  | some t => t.part
  | none => 0
/-- Bridges that the way between two dies crosses (R133). DESIGN CHOICE: the spec does not say which dies of the square are neighbours; 0 and 3
are the corners across from each other, and 1 and 2. Log 45. -/
def crossings (a b : Nat) : Nat := if a = b then 0 else if a + b = 3 then 2 else 1
/-- The partition to whose memory a page belongs. -/
def State.pageOwner (s : State) (home vpn : Nat) : Option Nat :=
  (List.find? (fun (p : Nat × Part) => s.tenantPage p.1 home vpn) s.parts).map fun p => p.1
/-- The partition that something of a line in service at a home travels for, or, where a slice has sent it of itself, the one whose memory the
line is (R388, R389). -/
def State.linePart (s : State) (home : Nat) (va : VAddr) : Option Nat :=
  match ((s.home home).entry (va.toNat / 64)).pend with
  | some r => if r.dev = s.dev.no then some r.part else none
  | none => s.pageOwner home (va.toNat / 65536)
/-- Flits of an event that carries a request or its answer: each bridge on the way counts them once more (R131, R133, R389). -/
def State.reqEventFlits (s : State) (e : Event) (r : Req) : Nat :=
  let far := 1 + crossings r.die (dieOfHome (s.homeOf r.die r.va.toNat).2)
  let near := if r.direct then far else 1
  match e with
  | .sliceRequest _ => reqFlits r
  | .sliceRenewal _ _ => 1
  | .homeRequest _ _ => reqFlits r * far
  | .homeReadShared _ _ => 3 * far
  | .ownershipGrant _ g => (if r.upg && !g.dirty then 1 else 3) * far
  | .icacheFill _ (.filled _ _) => 3
  | .stashFill _ (.filled _ _) => 3
  | .stashUpgradeGrant _ _ => 1
  | .laneStoreFill _ _ => 3
  | .loadDataArrival _ _ _ _ => 3 * near
  | .storeReply _ _ => near
  | .atomicResultArrival _ _ _ _ => near
  | _ => 0
/-- Flits between a home and a die. -/
def homeDieFlits (home die n : Nat) : Nat := n * (1 + crossings (dieOfHome home) die)
/-- Mesh and bridge flits of an event, and the partition that they are sent for (R389). DESIGN CHOICE: a flit counts once on the mesh where it
sets out and once for each bridge that it crosses. Log 76. -/
def State.eventFlits (s : State) (e : Event) : Option (Nat × Nat) :=
  let at_ := fun (home die : Nat) (va : VAddr) (n : Nat) => (s.linePart home va).map fun p => (p, homeDieFlits home die n)
  match eventReq e with
  | some r => if r.dev = s.dev.no then some (r.part, s.reqEventFlits e r) else none
  | none => match e with
    | .invalidation home die va => at_ home die va 1
    | .invalidationAck home die va _ => at_ home die va 1
    | .forwardedSnoop home die va _ => at_ home die va 1
    | .snoopResponse home die va (.data _) => at_ home die va 3
    | .snoopResponse home die va .inFlight => at_ home die va 1
    | .writeBack home die va _ => at_ home die va 3
    | .writeBackAck die va => at_ (s.homeOf die va.toNat).2 die va 1
    | .cleanDropNotice home die va _ => at_ home die va 1
    | _ => none
/-- HBM lines that a home reads or writes to serve a request now: none where an owner has the line (R389). -/
def State.hbmLines (s : State) (home : Nat) (r : Req) : Nat :=
  let e := (s.home home).entry (reqLine r)
  let inHbm := match s.pte? home (r.va.toNat / 65536) with
    | some (w0, _) => pTier w0 == 0
    | none => false
  if !inHbm || !e.stable || e.owner.isSome || r.dev != s.dev.no then 0
  else if r.upg && e.sharers &&& dieBit r.die != 0 then 0
  else if goesDirect s.dev.no r && reqWrites r then 2 else 1
/-- Words of banks that an event reads or writes, and octet passes, for a partition (R389). -/
def State.tallyUnit (s : State) (e : Event) : State :=
  match e with
  | .bankWriteRetire w => match w.by_ with
    | some q => s.count (s.partOf q.ctx) 3 (words4 w.size)
    | none => s
  | .copyWriteRetire id => match s.cmd? id with
    | some (cl, c) => s.count c.part 3 ((((s.cluster cl).writes.filter fun w => w.engine == some id).map fun w => words4 w.size).sum)
    | none => s
  | .mmaOctetDone core op q => match s.mmaOp? core op with
    | some o => (s.count (s.partOf o.ctx) 2 o.products.length).count (s.partOf o.ctx) 3 (s.octetWords o q)
    | none => s
  | .stashFill r (.filled _ _) => s.count r.part 3 16
  | e => match s.clusters.findSome? (fun k => k.2.cmds.find? fun c => c.event == e) with
    | some c => s.count c.part 3 (s.cmdBankWords c)
    | none => s
/-- HBM lines that an event makes a home read or write for a partition (R389). -/
def State.tallyHbm (s : State) (e : Event) : State :=
  match e with
  | .homeReadShared home r => s.count r.part 4 (s.hbmLines home r)
  | .homeReadExclusive home r => s.count r.part 4 (s.hbmLines home r)
  | .homeUpgrade home r => s.count r.part 4 (s.hbmLines home r)
  | .homeDirectRequest home r => s.count r.part 4 (s.hbmLines home r)
  | .writeBack home _ va _ => match s.linePart home va, s.pte? home (va.toNat / 65536) with
    | some p, some (w0, _) => if pTier w0 = 0 then s.count p 4 1 else s
    | _, _ => s
  | _ => s
/-- What an event costs the partition it is for: flits, HBM lines, bank words, octet passes (R389). -/
def State.tallyEvent (s : State) (e : Event) : State :=
  let s := match s.eventFlits e with
    | some f => s.count f.1 5 f.2
    | none => s
  (s.tallyUnit e).tallyHbm e
/-- The words of a bank that an instruction reads for each thread. -/
def bankReads (i : Instr) : Nat :=
  match i with
  | .sld _ f => words4 (sizeBytes f.s)
  | .satom _ _ => 1
  | .gsld _ _ => 2
  | _ => 0
/-- The words of a bank that a uniform instruction reads or writes for its group: a tile's 16 KiB (R350, R389). -/
def tileWords (i : Instr) : Nat :=
  match i with
  | .tld _ _ => 4096
  | .tst _ _ => 4096
  | _ => 0
/-- Threads of an issue set for which an instruction is carried out. -/
def State.participants (s : State) (i : Instr) (r : Run) : Nat :=
  match prefixOf i with
  | none => r.set.length
  | some p => (r.set.filter fun q => match s.thread? q with
    | some x => x.pr p.pm != p.n
    | none => false).length
/-- An issue counts on the partition of its run: the core is used in this microsecond, a lane-set instruction counts for each
participating lane, a uniform one once. -/
def State.tallyIssue (s : State) (core : Nat) (r : Run) (i : Option Instr) : State :=
  match r.set with
  | [] => s
  | q :: _ =>
    let part := s.partOf q.ctx
    let s := s.modPart part fun p => { p with busy := if p.busy.contains core then p.busy else p.busy ++ [core] }
    match i with
    | none => s
    | some i =>
      let n := s.participants i r
      let s := if r.uniformNext then s.count part 1 1 else s.count part 0 n
      s.count part 3 (n * bankReads i + tileWords i)

/-! ## The move made -/

/-- The event of words that are no instruction (R196). -/
def badWords (ws : List Word) : Event :=
  match ws with
  | [] => .illegalWord 0 none
  | w :: t => .illegalWord w (if isPrefix w then t.head? else none)
/-- The instruction that stands next in a run, if its words are one. -/
def Run.next? (r : Run) : Option Instr :=
  match decodeWords r.code with
  | .ok (i, _) => some i
  | .error _ => none
/-- The state in which a run issues: it is the run that issues, and its issue has been counted. -/
def State.issuing (s : State) (core : Nat) (r : Run) : State := { (s.tallyIssue core r r.next?) with cur := some (core, r.rid) }
/-- A run issues: the instruction at its program counter, or the illegal-instruction fault of words that are none (R142, R196). -/
def State.issue (s : State) (core rid : Nat) : Host.Outcome State Fault Refusal :=
  match (s.core core).runs.find? (fun r => r.rid == rid) with
  | none => .next s
  | some r => match r.next? with
    | some i => exec i (s.issuing core r)
    | none => happen (badWords r.code) (s.issuing core r)
/-- The state in which an event takes place: taken off what is to happen, and counted. -/
def State.taking (s : State) (m : Move) : State :=
  let s := { s with cur := none }
  match m with
  | .due t e => ({ s with due := s.due.erase (t, e) }).tallyEvent e
  | .agenda e => ({ s with agenda := s.agenda.erase e }).tallyEvent e
  | .input e => { s with inputs := s.inputs.erase e }
  | _ => s
/-- A move is made. -/
def State.make (s : State) (m : Move) : Host.Outcome State Fault Refusal :=
  match m with
  | .due t e => happen e (s.taking (.due t e))
  | .agenda e => happen e (s.taking (.agenda e))
  | .input e => happen e (s.taking (.input e))
  | .ripe e => happen e (s.taking (.ripe e))
  | .issue core rid => s.issue core rid
  | .idle => .next (s.taking .idle)

/-! ## Placing an instruction -/

/-- Entry address of the team that `placed` sets up. -/
def placedEntry : DWord := 0x10000
/-- The launch record of the grid that `placed` sets up: one team of one group of 16 threads. -/
def placedRec : LRec where
  entry := placedEntry
  handler := 0
  gridid := 0
  nteam := 1
  width := 16
  nrole := 1
  afact := 1
  prog := false
  cset := false
  pspan := false
  prot := false
  jo := 0
  banks := 0
  csize := 1
  msien := false
  msiv := 0
  ipool := 0
  ipsize := 0
  roles := [⟨1, 128, 16, 512, 65536⟩]
  waits := []
  csig := 0
  cval := 0
  clean := true
/-- A thread of that team, in its run. -/
def placedThread : Thread := { pc := placedEntry, st := .running }
/-- The group. -/
def placedGroup : Group := { threads := (List.range 16).map fun j => (j, placedThread) }
/-- The team: context 1 on core 0. -/
def placedTeam : Team :=
  { grid := 1, roles := placedRec.roles, entry := placedEntry, groups := [(0, placedGroup)] }
/-- Its grid, every team of it dispatched. -/
def placedGrid : Grid :=
  { part := 0, queue := 0, dom := 0, keys := [], lrec := placedRec, keysOk := true, csigOk := false, next := 1, away := []
    slots := [(0, 1)], ended := 0, hmax := 0, status := none, ready := some 0, blocked := none, blocks := false, stalled := none
    killed := false, told := false }
/-- The words of a run that opens with `w` and `v`, as the picker decodes them (R141, R143). -/
def placedWords (ws : List Word) : List Word :=
  match ws with
  | w :: v :: _ => if !isPrefix w && lastOfRun w none then [w] else [w, v]
  | _ => ws
/-- The register-cache lines of the group: its uniform, thread and engine areas and every vector register (R154). -/
def placedLines : List RcTag :=
  ((List.range 9).map fun k => ⟨.uniform, 1, 0, k, 0⟩) ++ ((List.range 16).map fun k => ⟨.thread, 1, 0, k, 0⟩) ++
    ((List.range 89).map fun k => ⟨.engine, 1, 0, k, 0⟩) ++ (List.range 128).map fun k => ⟨.vector, 1, 0, k, 0⟩
/-- The core: one run of the 16 threads with the words given decoded, their line in the instruction cache, and every register of the
threads in the register cache. -/
def placedCore (ws : List Word) : Core :=
  { runs := [{ rid := 1, bound := (placedWords ws).any isUniform, pc := placedEntry, code := placedWords ws
               set := (List.range 16).map fun j => ⟨1, 0, j⟩, count := 0, jo := 0, stall := none }]
    icache := [{ line := placedEntry.toNat / 64, gkid := 0, lend := 2 ^ 63, ver := 0
                 data := lineOf ((ws.flatMap bytesOfWord) ++ List.replicate 56 0), tag := 0 }]
    rc := placedLines }
/-- The partition: cluster 0 and a slice, budgets without limit. -/
def placedPart : Part :=
  { live := { clm0 := 1, sls0 := 1, budg := allOnes }, shadow := { clm0 := 1, sls0 := 1, budg := allOnes } }

/-- The state with the team, its grid and its partition set up and the words `ws` next to issue on core 0. -/
def State.placed (s : State) (ws : List Word) : State :=
  { s with
    teams := s.teams.put 1 placedTeam, cores := s.cores.put 0 (placedCore ws), parts := s.parts.put 0 placedPart
    grids := s.grids.put 1 placedGrid, nextId := max s.nextId 2, dev := { s.dev with fatal := false }, oracle := [] }
/-- The oracle that picks that issue at the next step: empty where it stands first. -/
def State.aim (s : State) : List Nat :=
  let k := s.tick.observe.moves.idxOf (.issue 0 1)
  if k = 0 then [] else [k]

end Sys2Proof.Machine
end

