-- ==== Sys2Proof/Machine/Step.lean ====
section
/-! DEFINITION. One step of the part: a cycle passes, and one of the things that can happen next does. -/

namespace Sys2Proof.Machine

/-- One step. -/
def step (s : State) : Host.Outcome State Fault Refusal :=
  let c := s.tick.observe.choose
  c.2.make c.1

/-- The state with an instruction next to issue: its words stand decoded in a run of core 0, and in the core's instruction cache. -/
def State.withFetchWord (s : State) (nbits w : Nat) : State :=
  let s := s.placed (tableWords nbits w)
  { s with oracle := s.aim }

end Sys2Proof.Machine
end

