-- ==== Sys2Proof/Safety.lean ====
section
/-! DEFINITION. What a safe run is, and the terms that claims are stated in: when a word can issue for its whole issue set, and what
going past it leaves. -/

namespace Sys2Proof.Machine

/-! ## Safe runs -/

/-- The three memories are in their canonical form. -/
def State.memOk (s : State) : Prop := s.hbm.wf = true ∧ s.host.wf = true ∧ s.banks.wf = true

/-- The next step answers a state: no fault stops the part and no instruction is refused. -/
def State.runs (s : State) : Prop := ∃ t, step s = .next t

/-- `n` steps from `s` are safe: none ends in a fault or a refusal. -/
def State.safeFor (s : State) (n : Nat) : Prop :=
  match n with
  | 0 => True
  | k + 1 => ∃ t, step s = .next t ∧ State.safeFor t k

/-- Nothing but teams and cores differs: memories, clusters, slices, homes, grids, the device, the agenda and the clock are as they were. -/
def State.coresOnly (s t : State) : Prop := t = { s with teams := t.teams, cores := t.cores }

/-! ## Lane-set words -/

/-- Run `r` of core `c` issues, and the word `i` with the operands `vs` and the uniform operands `gs` executes at once for each of its
threads: they are in the run, it is legal, its registers are within the vector count, the lines it names lie in the register cache, a jet of a participating thread is
aligned, and no lookahead window forbids it; `gm`: it is a global memory instruction (R144, R149, R154, R165, R232, R362). -/
structure LaneReady (s : State) (i : Instr) (m : Mod) (vs : List VOp) (gs : List Nat) (c : Nat) (r : Run) (gm : Bool := false) : Prop where
  run : s.run? = some (c, r)
  legal : i.wf = true
  each : ∀ q ∈ r.set, ∃ t g x, s.team? q.ctx = some t ∧ s.group? q.ctx q.grp = some g ∧ s.thread? q = some x ∧
    x.st = .running ∧ (∀ o ∈ vs, o.need ≤ (t.role g).vregs) ∧ (takesPart m x = true → ∀ o ∈ vs, o.crooked r.jo = false) ∧
    x.blockedBy (vs.flatMap VOp.regs) gs gm = none ∧ ∀ k ∈ rcTags q (vs.flatMap VOp.regs) gs, k ∈ (s.core c).rc

/-- What an instruction does for a thread of the issue set, and the flags it raises. -/
abbrev LaneEffect := ThreadRef → Thread → Thread × BitVec 40

/-- The flags that an issue set raises in a group. -/
def LaneEffect.flagsIn (eff : LaneEffect) (s : State) (r : Run) (c g : Nat) : BitVec 40 :=
  r.set.foldl (fun a q => if q.ctx = c ∧ q.grp = g then a ||| ((s.thread? q).map fun x => (eff q x).2).getD 0#40 else a) 0#40

/-- From `s` to `t` the run `r` has gone past `i`: each thread of the issue set is as `eff` leaves it, at the next instruction, and has
used one instruction of its lookahead windows; the flags have entered `jxf`; every other thread, every register of a group, every
team and every unit but the cores is as it was, and so is every byte of every memory (R141, R146, R149, R255). -/
structure LaneGoes (s t : State) (i : Instr) (r : Run) (eff : LaneEffect) : Prop where
  rest : s.coresOnly t
  team : ∀ c x, s.team? c = some x → ∃ y, t.team? c = some y ∧ y = { x with groups := y.groups }
  group : ∀ c g x, s.group? c g = some x →
    ∃ y, t.group? c g = some y ∧ y = { x with threads := y.threads, jxf := x.jxf ||| eff.flagsIn s r c g }
  thread : ∀ q ∈ r.set, ∀ x, s.thread? q = some x → ∃ y, t.thread? q = some y ∧
    y = { (eff q x).1 with loads := x.tick.loads, pc := ptrAdd r.pc (4 * i.words), st := y.st, since := y.since } ∧
    (y.st = .running ∨ y.st = .ready)
  others : ∀ q, q ∉ r.set → t.thread? q = s.thread? q

/-- A lane-set word that writes one operand of vector registers: a participating thread's destination `dst` takes `val`'s number and its
group `val`'s flags; with Z = 1 another's becomes 0, and without it keeps its value; every other register keeps its value (R262). `val`
is given the group, the jet order and the thread as they stand before. -/
def WritesRegs (i : Instr) (m : Mod) (vs : Nat → List VOp) (gs : List Nat) (dst : Nat → VOp)
    (val : Group → Nat → Thread → Nat × BitVec 40) : Prop :=
  ∀ s c r, LaneReady s i m (vs r.jo) gs c r → ∃ t eff, exec i s = .next t ∧ LaneGoes s t i r eff ∧
    ∀ q ∈ r.set, ∀ g x, s.group? q.ctx q.grp = some g → s.thread? q = some x →
      (eff q x).1 = { x with v := (eff q x).1.v } ∧
      (eff q x).2 = (if takesPart m x then (val g r.jo x).2 else 0#40) ∧
      (eff q x).1.get (dst r.jo) = (if takesPart m x then (val g r.jo x).1 else if m.z then 0 else x.get (dst r.jo)) ∧
      ∀ n, n ∉ (dst r.jo).regs → (eff q x).1.r n = x.r n

/-- A lane-set word that writes one predicate: a participating thread's `p` takes `val`'s value, another's becomes 0 with Z = 1 and keeps
its value without; every other predicate keeps its value, and a write of `pt` is discarded (R262, R280). -/
def WritesPred (i : Instr) (m : Mod) (vs : Nat → List VOp) (p : BitVec 7) (val : Group → Nat → Thread → Bool × BitVec 40) : Prop :=
  ∀ s c r, LaneReady s i m (vs r.jo) [] c r → ∃ t eff, exec i s = .next t ∧ LaneGoes s t i r eff ∧
    ∀ q ∈ r.set, ∀ g x, s.group? q.ctx q.grp = some g → s.thread? q = some x →
      (eff q x).1 = { x with p := (eff q x).1.p } ∧
      (eff q x).2 = (if takesPart m x then (val g r.jo x).2 else 0#40) ∧
      ∀ k, k < 96 → (eff q x).1.p.getLsbD k =
        if p.toNat = k then (if takesPart m x then (val g r.jo x).1 else if m.z then false else x.p.getLsbD k) else x.p.getLsbD k

/-! ## Values -/

/-- What a floating-point word writes and raises: for F32 a jet, whose coefficients are the registers of the operand and whose flags
stand in its planes; for another type an operand's number, with flags in plane 0 (R254, R264, R265). -/
def floatVal (m : Mod) (s : BitVec 2) (g : Group) (jet : FEnv → JetRes) (el : FEnv → Nat × Flags) : Nat × BitVec 40 :=
  if s = 0#2 then (joined 32 (jet (fEnv m g)).1, (jet (fEnv m g)).2) else ((el (fEnv m g)).1, inPlane 0 (el (fEnv m g)).2)
/-- An operation on each of the `n` elements of `w` bits of one number (R215, R275). -/
def onEach (w n : Nat) (op : BitVec w → BitVec w) (a : Nat) : Nat :=
  joined w ((List.range n).map fun k => (op (BitVec.ofNat w (a / 2 ^ (w * k)))).toNat)
/-- An operation on the elements of two numbers. -/
def onEach2 (w n : Nat) (op : BitVec w → BitVec w → BitVec w) (a b : Nat) : Nat :=
  joined w ((List.range n).map fun k => (op (BitVec.ofNat w (a / 2 ^ (w * k))) (BitVec.ofNat w (b / 2 ^ (w * k)))).toNat)
/-- An operation on the elements of three numbers. -/
def onEach3 (w n : Nat) (op : BitVec w → BitVec w → BitVec w → BitVec w) (a b d : Nat) : Nat :=
  joined w ((List.range n).map fun k =>
    (op (BitVec.ofNat w (a / 2 ^ (w * k))) (BitVec.ofNat w (b / 2 ^ (w * k))) (BitVec.ofNat w (d / 2 ^ (w * k)))).toNat)
/-- An exact integer as a signed element: clamped to the signed range, or modulo 2^w (R275). -/
def fitted (w : Nat) (sat : Bool) (x : Int) : BitVec w :=
  BitVec.ofInt w (if sat then max (-(2 ^ (w - 1))) (min (2 ^ (w - 1) - 1) x) else x)

/-- The meaning of an integer word of two sources on elements of every width (R275, R276). -/
abbrev IntOp := (w : Nat) → Bool → BitVec w → BitVec w → BitVec w
/-- `iadd`. -/
def opAdd : IntOp := fun w sat a b => fitted w sat (a.toInt + b.toInt)
/-- `isub`. -/
def opSub : IntOp := fun w sat a b => fitted w sat (a.toInt - b.toInt)
/-- `imul`. -/
def opMul : IntOp := fun w sat a b => fitted w sat (a.toInt * b.toInt)
/-- `imulhs`: bits [2w−1:w] of the signed product. -/
def opMulhs : IntOp := fun w _ a b => ((a.signExtend (w + w) * b.signExtend (w + w)) >>> w).truncate w
/-- `imulhu`: bits [2w−1:w] of the unsigned product. -/
def opMulhu : IntOp := fun w _ a b => ((a.zeroExtend (w + w) * b.zeroExtend (w + w)) >>> w).truncate w
/-- `iabsd`. -/
def opAbsd : IntOp := fun _ _ a b => if a.slt b then b - a else a - b
/-- `and`. -/
def opAnd : IntOp := fun _ _ a b => a &&& b
/-- `or`. -/
def opOr : IntOp := fun _ _ a b => a ||| b
/-- `xor`. -/
def opXor : IntOp := fun _ _ a b => a ^^^ b
/-- `andn`. -/
def opAndn : IntOp := fun _ _ a b => a &&& ~~~b
/-- `shl`, by bits [7:0] of the amount (R216). -/
def opShl : IntOp := fun _ _ a b => a <<< (b.toNat % 256)
/-- `shr`. -/
def opShr : IntOp := fun _ _ a b => a >>> (b.toNat % 256)
/-- `sar`. -/
def opSar : IntOp := fun _ _ a b => a.sshiftRight (b.toNat % 256)
/-- `rotl`. -/
def opRotl : IntOp := fun _ _ a b => a.rotateLeft (b.toNat % 256)
/-- `imins`. -/
def opMins : IntOp := fun _ _ a b => if b.slt a then b else a
/-- `imaxs`. -/
def opMaxs : IntOp := fun _ _ a b => if a.slt b then b else a
/-- `iminu`. -/
def opMinu : IntOp := fun _ _ a b => if b.ult a then b else a
/-- `imaxu`. -/
def opMaxu : IntOp := fun _ _ a b => if a.ult b then b else a

/-- An integer word of two vector sources writes `op` of its elements (R275). -/
def WritesInt (i : Instr) (m : Mod) (f : R3) (op : IntOp) : Prop :=
  WritesRegs i m (fun _ => [iOp m.width f.d, iOp m.width f.a, iOp m.width f.b]) [] (fun _ => iOp m.width f.d) fun _ _ x =>
    (onEach2 (iBits m.width) (iCount m.width) (op (iBits m.width) m.sat) (x.get (iOp m.width f.a)) (x.get (iOp m.width f.b)), 0#40)
/-- One whose second source is a uniform register: its low word, or with `.i64` the register (R276). -/
def WritesIntG (i : Instr) (m : Mod) (f : LG) (op : IntOp) : Prop :=
  WritesRegs i m (fun _ => [iOp m.width f.d, iOp m.width f.a]) [f.g.toNat] (fun _ => iOp m.width f.d) fun g _ x =>
    (onEach2 (iBits m.width) (iCount m.width) (op (iBits m.width) m.sat) (x.get (iOp m.width f.a))
      (if m.width = 2#2 then (g.gr f.g.toNat).toNat else (g.gr f.g.toNat).toNat % 2 ^ 32), 0#40)
/-- One of one source writes `op` of each element (R277). -/
def WritesIntU (i : Instr) (m : Mod) (f : R2) (op : (w : Nat) → Bool → BitVec w → BitVec w) : Prop :=
  WritesRegs i m (fun _ => [iOp m.width f.d, iOp m.width f.a]) [] (fun _ => iOp m.width f.d) fun _ _ x =>
    (onEach (iBits m.width) (iCount m.width) (op (iBits m.width) m.sat) (x.get (iOp m.width f.a)), 0#40)
/-- An integer compare writes `rel` of its two sources (R278). -/
def WritesCmp (i : Instr) (m : Mod) (f : LC) (rel : (w : Nat) → BitVec w → BitVec w → Bool) : Prop :=
  WritesPred i m (fun _ => [iOp m.width f.a, iOp m.width f.b]) f.p fun _ _ x =>
    (rel (iBits m.width) (BitVec.ofNat _ (x.get (iOp m.width f.a))) (BitVec.ofNat _ (x.get (iOp m.width f.b))), 0#40)

/-! ## Lane-set words by which threads leave the run -/

/-- From `s` to `t` the run `r` has gone past the control word `i`: a thread of the issue set for which `stay` holds is at the next
instruction, any other is as `away` says; nothing else of a thread, a group or a team has changed, and no unit but the cores (R146). -/
structure LaneParts (s t : State) (i : Instr) (r : Run) (stay : ThreadRef → Thread → Bool) (away : ThreadRef → Thread → Thread) : Prop where
  rest : s.coresOnly t
  team : ∀ c x, s.team? c = some x → ∃ y, t.team? c = some y ∧ y = { x with groups := y.groups }
  group : ∀ c g x, s.group? c g = some x → ∃ y, t.group? c g = some y ∧ y = { x with threads := y.threads }
  thread : ∀ q ∈ r.set, ∀ x, s.thread? q = some x → ∃ y, t.thread? q = some y ∧
    if stay q x then
      y = { x with loads := x.tick.loads, pc := ptrAdd r.pc (4 * i.words), st := y.st, since := y.since } ∧ (y.st = .running ∨ y.st = .ready)
    else y = away q x
  others : ∀ q, q ∉ r.set → t.thread? q = s.thread? q

/-- A control word that takes the threads away for which `stay` does not hold. -/
def PartsThreads (i : Instr) (stay : State → Run → ThreadRef → Thread → Bool) (away : State → Run → ThreadRef → Thread → Thread) : Prop :=
  ∀ s c r, LaneReady s i bareMod [] [] c r → ∃ t, exec i s = .next t ∧ LaneParts s t i r (stay s r) (away s r)
/-- The thread ready at an address, one instruction of its lookahead windows used. -/
def Thread.goesTo (x : Thread) (s : State) (pc : DWord) : Thread := { x with loads := x.tick.loads, pc := pc, st := .ready, since := s.cycle }

/-! ## Uniform-set words -/

/-- A uniform-set word executes at once: a run of one group issues, the word is legal, no lookahead window of the issue set forbids it,
and the lines it names lie in the register cache. `gs`: the uniform registers that it names; `gm`: it is a global memory instruction (R149,
R154, R186, R330, R362). -/
structure UniReady (s : State) (i : Instr) (gm : Bool) (gs : List Nat) (u : UniCtx) : Prop where
  ctx : s.uniCtx = some u
  legal : i.wf = true
  own : ∀ q ∈ u.ts, q.ctx = u.ctx ∧ q.grp = u.grp
  each : ∀ q ∈ u.ts, ∃ x, s.thread? q = some x ∧ x.st = .running ∧ x.blockedBy [] gs gm = none
  lines : ∀ k ∈ uniTags i u gs, k ∈ (s.core u.core).rc

/-- From `s` to `t` the run has gone past a uniform-set word that changes its group by `f`: mask pairs whose masks agree have then released
the threads waiting on them; the threads of the issue set are at the next instruction; every other thread, group, team and unit but the
cores is as it was (R146, R155, R330). -/
structure UniGoes (s t : State) (i : Instr) (u : UniCtx) (f : Group → Group) : Prop where
  rest : s.coresOnly t
  team : ∀ c x, s.team? c = some x → ∃ y, t.team? c = some y ∧ y = { x with groups := y.groups }
  group : ∃ y, t.group? u.ctx u.grp = some y ∧ y = { (f u.group).rejoinAll s.cycle with threads := y.threads }
  groups : ∀ c g, ¬(c = u.ctx ∧ g = u.grp) → t.group? c g = s.group? c g
  thread : ∀ q ∈ u.ts, ∀ x, (f u.group).threads.find? q.idx = some x → ∃ y, t.thread? q = some y ∧
    y = { x with loads := x.tick.loads, pc := ptrAdd u.run.pc (4 * i.words), st := y.st, since := y.since } ∧
    (y.st = .running ∨ y.st = .ready)
  others : ∀ k, (⟨u.ctx, u.grp, k⟩ : ThreadRef) ∉ u.ts →
    t.thread? ⟨u.ctx, u.grp, k⟩ = ((f u.group).rejoinAll s.cycle).threads.find? k

/-- A uniform-set word that writes one uniform register with `val`, computed from the registers as they stood. -/
def WritesG (i : Instr) (gs : List Nat) (d : BitVec 6) (val : Group → DWord) : Prop :=
  ∀ s u, UniReady s i false (d.toNat :: gs) u → ∃ t, exec i s = .next t ∧ UniGoes s t i u fun g => g.setG d.toNat (val g)

/-- From `s` to `t` a uniform-set word has ended the run and sent every thread of the issue set where `away` says; nothing else of a
thread, a group or a team has changed, and no unit but the cores, where the run is gone and the register cache holds the same lines, if in
another order (R146, R154). -/
structure UniParts (s t : State) (u : UniCtx) (away : Thread → Thread) : Prop where
  rest : s.coresOnly t
  team : ∀ c x, s.team? c = some x → ∃ y, t.team? c = some y ∧ y = { x with groups := y.groups }
  group : ∀ c g x, s.group? c g = some x → ∃ y, t.group? c g = some y ∧ y = { x with threads := y.threads }
  thread : ∀ q ∈ u.ts, ∀ x, s.thread? q = some x → t.thread? q = some (away x)
  others : ∀ q, q ∉ u.ts → t.thread? q = s.thread? q
  run : t.core u.core = { s.core u.core with runs := (s.core u.core).runs.filter fun r => r.rid != u.run.rid, rc := (t.core u.core).rc }
  lines : ∀ k, k ∈ (t.core u.core).rc ↔ k ∈ (s.core u.core).rc

/-! ## Changes of threads alone -/

/-- Between `s` and `t` only threads of `qs` differ in the teams: every other thread, the registers and counters of every group and
everything a team holds beside are as they were. -/
structure ThreadsOnly (s t : State) (qs : List ThreadRef) : Prop where
  team : ∀ c x, s.team? c = some x → ∃ y, t.team? c = some y ∧ y = { x with groups := y.groups }
  group : ∀ c g x, s.group? c g = some x → ∃ y, t.group? c g = some y ∧ y = { x with threads := y.threads }
  others : ∀ q, q ∉ qs → t.thread? q = s.thread? q

/-- The event `e` changes thread `q` from `x` to `y` and nothing else in the whole part. -/
def TurnsThread (e : Instr) (s : State) (q : ThreadRef) (y : Thread) : Prop :=
  ∃ t, exec e s = .next t ∧ t = { s with teams := t.teams } ∧ ThreadsOnly s t [q] ∧ t.thread? q = some y

/-! ## Words that gather threads, send requests or change more than a group -/

/-- The threads of a group that a mask names, with the `n` values that each holds from register `a` on, in index order (R302). -/
def State.maskVals (s : State) (ctx grp : Nat) (m : BitVec 64) (a n : Nat) : List (Nat × List Nat) :=
  ((List.range 64).filter m.getLsbD).filterMap fun i =>
    (s.thread? ⟨ctx, grp, i⟩).map fun x => (i, (List.range n).map fun k => (x.r (a + k)).toNat)
/-- An integer tree operation by what it gives each participant (R302). -/
def intTree (op : List (Nat × Word) → Nat → Word) (_ : FEnv) (vs : List (Nat × List Nat)) (i _ : Nat) : Nat × Flags :=
  ((op (vs.map fun v => (v.1, BitVec.ofNat 32 (v.2.headD 0))) i).toNat, 0#5)
/-- The words of a list joined from the first on; 0 for none. -/
def treeFold (op : Word → Word → Word) (l : List (Nat × Word)) : Word :=
  match l with
  | [] => 0
  | a :: t => t.foldl (fun x y => op x y.2) a.2

/-- Beside the threads, between `s` and `t` only the open instances and the flags of group `q.grp` of team `q.ctx` differ in the teams. -/
structure InstsOnly (s t : State) (q : ThreadRef) (insts : List Inst) (fl : BitVec 40) : Prop where
  rest : s.coresOnly t
  team : ∀ c x, s.team? c = some x → ∃ y, t.team? c = some y ∧ y = { x with groups := y.groups }
  group : ∀ c g x, s.group? c g = some x → ∃ y, t.group? c g = some y ∧ y =
    if c = q.ctx ∧ g = q.grp then { x with threads := y.threads, insts := insts, jxf := x.jxf ||| fl } else { x with threads := y.threads }

/-- The word leaves thread `q` as `y`, suspended or not, and sends the request `r` for it; nothing else changes but the cores (R148). -/
def SendsFor (i : Instr) (s : State) (q : ThreadRef) (y : Thread) (r : Req) : Prop :=
  ∃ u, exec i s = .next (u.send r) ∧ u = { s with teams := u.teams, cores := u.cores, nextId := s.nextId + 1 } ∧
    ThreadsOnly s u [q] ∧ u.thread? q = some y

/-- A lane-set word goes past as `eff` says, and then changes what `next` says (R289, R291). -/
def LaneThen (i : Instr) (s : State) (r : Run) (eff : LaneEffect) (next : State → State) : Prop :=
  ∃ u, LaneGoes s u i r eff ∧ exec i s = .next (next u)
/-- No bank write of the thread that has not retired touches one of the 4-byte words of the bytes (R111). -/
def NoOwnWrite (s : State) (x : Thread) (cl bank off size : Nat) : Prop :=
  ∀ w ∈ (s.cluster cl).writes, x.bankW.contains w.id = true → w.bank = bank → w.off + w.size ≤ off / 4 * 4 ∨ off + size ≤ w.off / 4 * 4

/-- From `s`, changed to `s'` by a uniform-set word, to `t` the run has gone past it: the threads of the issue set are at the next
instruction, and mask pairs of the group whose masks agree have released their threads (R146, R155, R330). -/
structure UniPast (s s' t : State) (i : Instr) (u : UniCtx) : Prop where
  rest : s'.coresOnly t
  team : ∀ c x, s'.team? c = some x → ∃ y, t.team? c = some y ∧ y = { x with groups := y.groups }
  group : ∀ c g x, s'.group? c g = some x → ∃ y, t.group? c g = some y ∧
    y = { (if c = u.ctx ∧ g = u.grp then x.rejoinAll s.cycle else x) with threads := y.threads }
  thread : ∀ q ∈ u.ts, ∀ x, s'.thread? q = some x → ∃ y, t.thread? q = some y ∧
    y = { x with loads := x.tick.loads, pc := ptrAdd u.run.pc (4 * i.words), st := y.st, since := y.since } ∧
    (y.st = .running ∨ y.st = .ready)
  others : ∀ q, q ∉ u.ts → ¬(q.ctx = u.ctx ∧ q.grp = u.grp) → t.thread? q = s'.thread? q
  mates : ∀ k x, s'.group? u.ctx u.grp = some x → (⟨u.ctx, u.grp, k⟩ : ThreadRef) ∉ u.ts →
    t.thread? ⟨u.ctx, u.grp, k⟩ = (x.rejoinAll s.cycle).threads.find? k
/-- A uniform-set word that executes at once under `cond`: it changes the state to `eff` and the run goes past it. -/
def GoesPast (i : Instr) (gs : List Nat) (cond : State → UniCtx → Prop) (eff : State → UniCtx → State) : Prop :=
  ∀ s u, UniReady s i false gs u → cond s u → ∃ t, exec i s = .next t ∧ UniPast s (eff s u) t i u
/-- The state after a uniform word has answered `v` in register `d`, what its issue set waited in forgotten. -/
def State.uniAnswer (s : State) (u : UniCtx) (d : BitVec 6) (v : DWord) : State :=
  (s.eachThread u.ts fun x => { x with arr := none }).modGroup u.ctx u.grp fun g => g.setG d.toNat v
/-- A uniform-set word waits: the state is `s'`, and the run stalls for `c` (R142, R144). -/
def UniWaits (i : Instr) (s : State) (s' : State) (c : Stall) : Prop := exec i s = .next (s'.stall c)

/-! ## Events -/

/-- The event `e` answers the state `t`. -/
def Does (e : Instr) (s t : State) : Prop := exec e s = .next t
/-- The event changes nothing. -/
def Idle (e : Instr) (s : State) : Prop := exec e s = .next s
/-- The event changes core `c` to `k`, and nothing else. -/
def TurnsCore (e : Instr) (s : State) (c : Nat) (k : Core) : Prop :=
  ∃ t, exec e s = .next t ∧ t = { s with cores := t.cores } ∧ t.core c = k ∧ ∀ n, n ≠ c → t.core n = s.core n

/-! ## Faults -/

/-- Thread `q`, `x` of group `g` and team `tm`, can enter its handler: there is one, the thread is not in it, its segment has room for
the return address on an aligned stack, and the line that takes it is in the lane store, whose set holds no more than its four lines (R53, R55, R364). -/
structure CanTrap (s : State) (q : ThreadRef) (tm : Team) (g : Group) (x : Thread) : Prop where
  team : s.team? q.ctx = some tm
  group : s.group? q.ctx q.grp = some g
  thread : s.thread? q = some x
  handler : tm.tvec ≠ 0
  outside : x.handler = false
  room : x.top + 8 ≤ (tm.role g).p64
  align : x.top % 8 = 0
  held : ∃ y ∈ (s.core g.core).lanes, y.owner = q ∧ y.line = x.top / 64 ∧ y.lane = g.lane q.idx
  ways : ((s.core g.core).lanes.filter fun y => y.lane == g.lane q.idx && y.line % 16 == x.top / 64 % 16).length ≤ 4

/-- Thread `q` has taken a fault (R361, R364): the cause with its detail and the depth of the stack, the address and the instruction's
address stand in its fault registers, the return address `ret` has been pushed, the in-handler bit is set and it is ready at `tvec`; its
vector registers, predicates and every other field are as in `x`. -/
structure Trapped (s t : State) (q : ThreadRef) (tm : Team) (g : Group) (x : Thread) (cause detail : Nat) (addr fpc ret : DWord) : Prop where
  thread : t.thread? q = some { x with
    fcause := dw (cause + detail * 2 ^ 8 + x.top / 8 % 2 ^ 16 * 2 ^ 16), faddr := addr, fpc := fpc, top := x.top + 8, handler := true
    pc := tm.tvec, st := .ready, since := s.cycle, arr := none }
  pushed : ((t.core g.core).laneLine q (x.top / 64)).map (fun y => lineGet y.data (x.top % 64) 8) = some ret.toNat
  rest : s.coresOnly t
  threads : ThreadsOnly s t [q]

end Sys2Proof.Machine
end

