-- ==== Sys2Proof/Certificates/Slice0/Obligations.lean ====
section
/-! DEFINITION. The statements for the provers. -/

open Sys2Proof Sys2Proof.Machine

/-! ## Lane-set arithmetic -/

/-- R267: `fadd`, `fsub`, `fmul`, `fmin` and `fmax` of every type run, for every ready issue set, write the stated result and flags in vd,
and leave everything else. R267, R191: `fma` and `fnma`, whose addend is vc with a prefix and vd without, round a product and a sum once.
R268: the forms with a uniform operand, the same for every thread. -/
def Obligations.FloatArithmeticResult : Prop :=
  (∀ (m : Mod) (f : LR),
  let vs := fun j => [fOp f.s j f.d, fOp f.s j f.a, fOp f.s j f.b]
  let t := fmtOf f.s
  let ops := fun (op : Nat → Nat → Nat × Flags) (j : Nat) (x : Thread) =>
    mapEl2 t.width (fCount f.s) op (x.get (fOp f.s j f.a)) (x.get (fOp f.s j f.b))
  let puts := fun (i : Instr) (jet : FEnv → Nat → List Nat → List Nat → JetRes) (op : FEnv → Nat → Nat → Nat × Flags) =>
    WritesRegs i m vs [] (fun j => fOp f.s j f.d) fun g j x =>
      floatVal m f.s g (fun e => jet e j (x.coefs f.a j) (x.coefs f.b j)) fun e => ops (op e) j x
  puts (.fadd m f) (fun e j a b => jetLinear e j (fAdd F32) a b) (fAdd t) ∧
  puts (.fsub m f) (fun e j a b => jetLinear e j (fSub F32) a b) (fSub t) ∧
  puts (.fmul m f) jetMul (fMul t) ∧
  puts (.fmin m f) (fun e _ a b => jetMinMax e false a b) (fun e => fMinMax t e false) ∧
  puts (.fmax m f) (fun e _ a b => jetMinMax e true a b) (fun e => fMinMax t e true)) ∧
  (∀ (m : Mod) (f : LR),
  let d := if m.pfx.isSome then m.vc else f.d
  let t := fmtOf f.s
  let puts := fun (i : Instr) (na : Bool) =>
    WritesRegs i m (fun j => [fOp f.s j f.d, fOp f.s j f.a, fOp f.s j f.b, fOp f.s j d]) [] (fun j => fOp f.s j f.d) fun g j x =>
      floatVal m f.s g (fun e => jetFma e j na (x.coefs f.a j) (x.coefs f.b j) (x.coefs d j)) fun e =>
        mapEl3 t.width (fCount f.s) (fFma t e na) (x.get (fOp f.s j f.a)) (x.get (fOp f.s j f.b)) (x.get (fOp f.s j d))
  puts (.fma m f) false ∧ puts (.fnma m f) true) ∧
  (∀ (m : Mod) (f : LGF),
  let t := fmtOf f.s
  let puts := fun (i : Instr) (d : BitVec 7) (jet : FEnv → Nat → List Nat → Nat → List Nat → JetRes)
      (op : FEnv → Nat → Nat → Nat → Nat × Flags) =>
    WritesRegs i m (fun j => [fOp f.s j f.d, fOp f.s j f.a, fOp f.s j d]) [f.g.toNat] (fun j => fOp f.s j f.d) fun g j x =>
      let u := (g.gr f.g.toNat).toNat % (if f.s = 3#2 then 2 ^ 64 else 2 ^ 32)
      floatVal m f.s g (fun e => jet e j (x.coefs f.a j) u (x.coefs d j)) fun e =>
        mapEl3 t.width (fCount f.s) (op e) (x.get (fOp f.s j f.a)) u (x.get (fOp f.s j d))
  puts (.faddG m f) f.d (fun e j a g _ => jetLinearG e j (fAdd F32) a g) (fun e a g _ => fAdd t e a g) ∧
  puts (.fsubG m f) f.d (fun e j a g _ => jetLinearG e j (fSub F32) a g) (fun e a g _ => fSub t e a g) ∧
  puts (.fmulG m f) f.d (fun e j a g _ => jetMulG e j a g) (fun e a g _ => fMul t e a g) ∧
  puts (.fmaG m f) (if m.pfx.isSome then m.vc else f.d) jetFmaG (fun e a g d => fFma t e false a g d))

/-- R269: the unary floating-point operations; the moves read a subnormal as a zero of its sign under DAZ and raise nothing. R270, R271:
`fclass` writes a mask in one register and raises nothing; the four `fcmp` write a predicate, F64 under width 10, and
with `pt` as their destination raise nothing (R262). R272, R273: `fcvt` of
every code, and `qnt`. -/
def Obligations.FloatUnaryResult : Prop :=
  (∀ (m : Mod) (f : LU),
  let t := fmtOf f.s
  let puts := fun (i : Instr) (jet : FEnv → List Nat → JetRes) (op : FEnv → Nat → Nat × Flags) =>
    WritesRegs i m (fun j => [fOp f.s j f.d, fOp f.s j f.a]) [] (fun j => fOp f.s j f.d) fun g j x =>
      floatVal m f.s g (fun e => jet e (x.coefs f.a j)) fun e => mapEl1 t.width (fCount f.s) (op e) (x.get (fOp f.s j f.a))
  puts (.fmov m f) (fun e a => (a.map (daz F32 e), 0#40)) (fun e a => (daz t e a, 0#5)) ∧
  puts (.fabs m f) jetAbs (fun e a => (daz t e a % 2 ^ (t.width - 1), 0#5)) ∧
  puts (.fneg m f) (fun e a => (a.map fun c => negBits F32 (daz F32 e c), 0#40)) (fun e a => (negBits t (daz t e a), 0#5)) ∧
  puts (.frint m f) (fun e a => jetRint e e.rm true a) (fun e a => fRint t e e.rm true a) ∧
  puts (.ffloor m f) (fun e a => jetRint e .rdn false a) (fun e a => fRint t e .rdn false a) ∧
  puts (.fceil m f) (fun e a => jetRint e .rup false a) (fun e a => fRint t e .rup false a) ∧
  puts (.ftrunc m f) (fun e a => jetRint e .rtz false a) (fun e a => fRint t e .rtz false a) ∧
  puts (.fsat m f) jetSat (fSat t)) ∧
  ((∀ (m : Mod) (f : LU),
    WritesRegs (.fclass m f) m (fun j => [one f.d, fOp f.s j f.a]) [] (fun _ => one f.d) fun g j x =>
      (joined 16 ((elems (fmtOf f.s).width (fCount f.s) (if f.s = 0#2 then (x.r f.a.toNat).toNat else x.get (fOp f.s j f.a))).map
        (fClass (fmtOf f.s) (fEnv m g))), 0#40)) ∧
  ∀ (m : Mod) (f : LC),
    let ty : BitVec 2 := if m.width = 2#2 then 3#2 else 0#2
    let puts := fun (i : Instr) (cond : Nat) => WritesPred i m (fun j => [fOp ty j f.a, fOp ty j f.b]) f.p fun g _ x =>
      let r := fCmp (fmtOf ty) (fEnv m g) cond (x.rs f.a.toNat (fRegs ty)) (x.rs f.b.toNat (fRegs ty))
      (r.1, if f.p = 127#7 then 0#40 else inPlane 0 r.2)
    puts (.fcmpeq m f) 0 ∧ puts (.fcmplt m f) 1 ∧ puts (.fcmple m f) 2 ∧ puts (.fcmpun m f) 3) ∧
  ((∀ (m : Mod) (f : LCvt),
    let d := many (if codePairDst f.c then 2 else 1) f.d
    let a := many (if codePairSrc f.c then 2 else 1) f.a
    WritesRegs (.fcvt m f) m (fun _ => [d, a]) [] (fun _ => d) fun g _ x =>
      let r := convertFn f.c.toNat (fEnv m g) m.sat (x.get a)
      (r.1 % 2 ^ (32 * d.n), inPlane 0 r.2)) ∧
  ∀ (m : Mod) (f : LQ),
    WritesRegs (.qnt m f) m (fun _ => [one f.d, one f.a]) [f.g.toNat] (fun _ => one f.d) fun g _ x =>
      let e := fEnv m g
      let r := qntFn e m.sat f.f.toNat (g.gr f.g.toNat) (daz F32 e (x.r f.a.toNat).toNat)
      (r.1 % 2 ^ 32, inPlane 0 r.2))

/-- R275, R216: the integer words of two sources, in every width, wrapped or saturated. R276: the same with a uniform register in the
place of b. R275, R276: `imad`, with a vector or a uniform second source; the addend is vc with a prefix and vd without. -/
def Obligations.IntegerArithmeticResult : Prop :=
  (∀ (m : Mod) (f : R3),
  WritesInt (.iadd m f) m f opAdd ∧ WritesInt (.isub m f) m f opSub ∧ WritesInt (.imul m f) m f opMul ∧
  WritesInt (.imulhs m f) m f opMulhs ∧ WritesInt (.imulhu m f) m f opMulhu ∧ WritesInt (.iabsd m f) m f opAbsd ∧
  WritesInt (.land m f) m f opAnd ∧ WritesInt (.lor m f) m f opOr ∧ WritesInt (.lxor m f) m f opXor ∧
  WritesInt (.landn m f) m f opAndn ∧ WritesInt (.shl m f) m f opShl ∧ WritesInt (.shr m f) m f opShr ∧
  WritesInt (.sar m f) m f opSar ∧ WritesInt (.rotl m f) m f opRotl ∧ WritesInt (.imins m f) m f opMins ∧
  WritesInt (.imaxs m f) m f opMaxs ∧ WritesInt (.iminu m f) m f opMinu ∧ WritesInt (.imaxu m f) m f opMaxu) ∧
  (∀ (m : Mod) (f : LG),
  WritesIntG (.iaddG m f) m f opAdd ∧ WritesIntG (.isubG m f) m f opSub ∧ WritesIntG (.imulG m f) m f opMul ∧
  WritesIntG (.landG m f) m f opAnd ∧ WritesIntG (.lorG m f) m f opOr ∧ WritesIntG (.lxorG m f) m f opXor ∧
  WritesIntG (.shlG m f) m f opShl ∧ WritesIntG (.shrG m f) m f opShr ∧ WritesIntG (.sarG m f) m f opSar ∧
  WritesIntG (.iminsG m f) m f opMins ∧ WritesIntG (.imaxsG m f) m f opMaxs ∧ WritesIntG (.iminuG m f) m f opMinu ∧
  WritesIntG (.imaxuG m f) m f opMaxu) ∧
  (let op := fun (w : Nat) (sat : Bool) (a b d : BitVec w) => fitted w sat (a.toInt * b.toInt + d.toInt)
  (∀ (m : Mod) (f : R3),
    let d := if m.pfx.isSome then m.vc else f.d
    let w := m.width
    WritesRegs (.imad m f) m (fun _ => [iOp w f.d, iOp w f.a, iOp w f.b, iOp w d]) [] (fun _ => iOp w f.d) fun _ _ x =>
      (onEach3 (iBits w) (iCount w) (op (iBits w) m.sat) (x.get (iOp w f.a)) (x.get (iOp w f.b)) (x.get (iOp w d)), 0#40)) ∧
  ∀ (m : Mod) (f : LG),
    let d := if m.pfx.isSome then m.vc else f.d
    let w := m.width
    WritesRegs (.imadG m f) m (fun _ => [iOp w f.d, iOp w f.a, iOp w d]) [f.g.toNat] (fun _ => iOp w f.d) fun g _ x =>
      (onEach3 (iBits w) (iCount w) (op (iBits w) m.sat) (x.get (iOp w f.a))
        (if w = 2#2 then (g.gr f.g.toNat).toNat else (g.gr f.g.toNat).toNat % 2 ^ 32) (x.get (iOp w d)), 0#40))

/-- R277: the integer words of one source. R278: the integer compares, of 32 or 64 bits. R279, R274: `movi` sign-extends its immediate,
`movhi` writes the high half and keeps the low one, `sel` moves whole jets. R280, R281: predicate logic, and `pmov` either way. -/
def Obligations.IntegerTestResult : Prop :=
  (∀ (m : Mod) (f : R2),
  WritesIntU (.imov m f) m f (fun _ _ a => a) ∧ WritesIntU (.lnot m f) m f (fun _ _ a => ~~~a) ∧
  WritesIntU (.ineg m f) m f (fun w sat a => fitted w sat (-a.toInt)) ∧
  WritesIntU (.iabs m f) m f (fun w sat a => fitted w sat a.toInt.natAbs) ∧
  WritesIntU (.clz m f) m f (fun _ _ a => a.clz) ∧
  WritesIntU (.popc m f) m f (fun w _ a => BitVec.ofNat w ((List.range w).filter a.getLsbD).length) ∧
  WritesIntU (.brev m f) m f (fun _ _ a => a.reverse) ∧
  WritesIntU (.sext8 m f) m f (fun w _ a => (a.truncate 8).signExtend w) ∧
  WritesIntU (.sext16 m f) m f (fun w _ a => (a.truncate 16).signExtend w) ∧
  WritesIntU (.zext8 m f) m f (fun w _ a => (a.truncate 8).zeroExtend w) ∧
  WritesIntU (.zext16 m f) m f (fun w _ a => (a.truncate 16).zeroExtend w)) ∧
  (∀ (m : Mod) (f : LC),
  WritesCmp (.icmpeq m f) m f (fun _ a b => a == b) ∧ WritesCmp (.icmpne m f) m f (fun _ a b => a != b) ∧
  WritesCmp (.icmplts m f) m f (fun _ a b => a.slt b) ∧ WritesCmp (.icmpltu m f) m f (fun _ a b => a.ult b) ∧
  WritesCmp (.icmples m f) m f (fun _ a b => a.sle b) ∧ WritesCmp (.icmpleu m f) m f (fun _ a b => a.ule b)) ∧
  ((∀ (m : Mod) (f : LK),
    WritesRegs (.movi m f) m (fun _ => [one f.d]) [] (fun _ => one f.d) (fun _ _ _ => ((f.i.signExtend 32).toNat, 0#40)) ∧
    WritesRegs (.movhi m f) m (fun _ => [one f.d]) [] (fun _ => one f.d)
      (fun _ _ x => ((f.i ++ (x.r f.d.toNat).truncate 16 : BitVec 32).toNat, 0#40))) ∧
  ∀ (m : Mod) (f : R3),
    WritesRegs (.sel m f) m (fun j => [jetOp j f.d, jetOp j f.a, jetOp j f.b]) [] (fun j => jetOp j f.d) fun _ j x =>
      (x.get (jetOp j (if x.pr m.vc then f.a else f.b)), 0#40)) ∧
  ((∀ (m : Mod) (f : LP),
    let puts := fun (i : Instr) (op : Bool → Bool → Bool) =>
      WritesPred i m (fun _ => []) f.d fun _ _ x => (op (x.pr f.a) (x.pr f.b), 0#40)
    puts (.pand m f) (fun a b => a && b) ∧ puts (.por m f) (fun a b => a || b) ∧ puts (.pxor m f) (fun a b => xor a b) ∧
    puts (.pandn m f) (fun a b => a && !b)) ∧
  (∀ (m : Mod) (f : LP2),
    WritesPred (.pnot m f) m (fun _ => []) f.d (fun _ _ x => (!x.pr f.a, 0#40)) ∧
    WritesPred (.pcopy m f) m (fun _ => []) f.d (fun _ _ x => (x.pr f.a, 0#40))) ∧
  (∀ (m : Mod) (d : BitVec 7) (b : Bool), WritesPred (.pset m d b) m (fun _ => []) d fun _ _ _ => (b, 0#40)) ∧
  ∀ (m : Mod) (f : R2),
    WritesRegs (.pmovV m f) m (fun _ => [one f.d]) [] (fun _ => one f.d) (fun _ _ x => ((x.pr f.a).toNat, 0#40)) ∧
    WritesPred (.pmovP m f) m (fun _ => [one f.a]) f.d fun _ _ x => (x.r f.a.toNat != 0, 0#40))

/-- R260, R261: the words that build and take apart jets. A coefficient above J is neither read nor written. -/
def Obligations.JetPartsResult : Prop :=
  (∀ (m : Mod) (f : R3),
    WritesRegs (.jseed m f) m (fun j => [jetOp j f.d, one f.a, one f.b]) [] (fun j => jetOp j f.d) fun _ j x =>
      ((x.r f.a.toNat).toNat + (if j = 0 then 0 else 2 ^ 32 * (x.r f.b.toNat).toNat), 0#40)) ∧
  (∀ (m : Mod) (f : LJk),
    let k := f.k.toNat
    WritesRegs (.jget m f) m (fun j => [one f.d, jetOp j f.a]) [] (fun _ => one f.d)
      (fun _ j x => (if k ≤ j then (x.r (f.a.toNat + k)).toNat else 0, 0#40)) ∧
    WritesRegs (.jset m f) m (fun j => [jetOp j f.d, one f.a]) [] (fun j => ⟨f.d.toNat + k, if k ≤ j then 1 else 0, false⟩)
      (fun _ j x => (if k ≤ j then (x.r f.a.toNat).toNat else 0, 0#40)) ∧
    WritesRegs (.jder m f) m (fun j => [one f.d, jetOp j f.a]) [] (fun _ => one f.d)
      (fun g j x =>
        let r := fMul F32 (fEnv m g) (asF32 ([1, 1, 2, 6, 24, 120, 720, 5040].getD k 0)) (x.r (f.a.toNat + k)).toNat
        if k ≤ j then (r.1, inPlane k r.2) else (0, 0#40)) ∧
    WritesRegs (.jtrunc m f) m (fun j => [jetOp j f.d, jetOp j f.a]) [] (fun j => jetOp j f.d)
      fun _ j x => (x.get (jetOp j f.a) % 2 ^ (32 * (k + 1)), 0#40)) ∧
  ∀ (m : Mod) (f : R2),
    WritesRegs (.jdiff m f) m (fun j => [jetOp j f.d, jetOp j f.a]) [] (fun j => jetOp j f.d) (fun g j x =>
      let r := fun k => fMul F32 (fEnv m g).rne (asF32 (k + 1)) (x.r (f.a.toNat + (k + 1))).toNat
      (joined 32 ((List.range j).map fun k => (r k).1), (List.range j).foldl (fun a k => a ||| inPlane k (r k).2) 0#40)) ∧
    WritesRegs (.jint m f) m (fun j => [jetOp j f.d, jetOp j f.a]) [] (fun j => ⟨f.d.toNat + 1, j, false⟩) fun g j x =>
      let r := fun k => fDiv F32 (fEnv m g).rne (x.r (f.a.toNat + k)).toNat (asF32 (k + 1))
      (joined 32 ((List.range j).map fun k => (r k).1), (List.range j).foldl (fun a k => a ||| inPlane (k + 1) (r k).2) 0#40)

/-! ## Control -/

/-- R293, R294, R300: a taken branch and a jump send their threads to the branch word's address plus 4 × the signed offset; `yield` makes
them ready at the next word; `nop` does nothing; `exit` ends them and discards their `qsf` entries. -/
def Obligations.BranchResult : Prop :=
  (∀ e p o, PartsThreads (.br e p o) (fun _ _ _ x => !x.pr p) fun s r _ x => x.goesTo s (ptrAdd r.pc (4 * o.toInt))) ∧
  (∀ e p o, PartsThreads (.brn e p o) (fun _ _ _ x => x.pr p) fun s r _ x => x.goesTo s (ptrAdd r.pc (4 * o.toInt))) ∧
  (∀ e o, PartsThreads (.jmp e o) (fun _ _ _ _ => false) fun s r _ x => x.goesTo s (ptrAdd r.pc (4 * o.toInt))) ∧
  (∀ e, PartsThreads (.yield e) (fun _ _ _ _ => false) fun s r _ x => x.goesTo s (ptrAdd r.pc 4)) ∧
  (∀ e, PartsThreads (.nop e) (fun _ _ _ _ => true) fun _ _ _ x => x) ∧
  ∀ e s c r, LaneReady s (.exit e) bareMod [] [] c r → (∀ q ∈ r.set, ∀ g, s.group? q.ctx q.grp = some g → g.errs = []) →
    ∃ t, exec (.exit e) s = .next t ∧ LaneParts s t (.exit e) r (fun _ _ => false) fun _ x =>
      { x with loads := x.tick.loads, st := .exited, pc := r.pc, q0 := [], q1 := [], flying := x.flying ++ inFlightOf (x.q0 ++ x.q1) }

/-! ## Uniform-set words -/

/-- R332: the uniform words of two sources. R332, R333, R334: the uniform words of one source, with an immediate, and the moves of 16
bits. -/
def Obligations.UniformArithmeticResult : Prop :=
  (∀ (e : Bool) (f : GR),
  let puts := fun (i : Instr) (op : DWord → DWord → DWord) =>
    WritesG i [f.a.toNat, f.b.toNat] f.d fun g => op (g.gr f.a.toNat) (g.gr f.b.toNat)
  puts (.gadd e f) (fun a b => a + b) ∧ puts (.gsub e f) (fun a b => a - b) ∧ puts (.gmul e f) (fun a b => a * b) ∧
  puts (.gmulhs e f) (opMulhs 64 false) ∧ puts (.gmulhu e f) (opMulhu 64 false) ∧
  puts (.gand e f) (fun a b => a &&& b) ∧ puts (.gor e f) (fun a b => a ||| b) ∧ puts (.gxor e f) (fun a b => a ^^^ b) ∧
  puts (.gandn e f) (fun a b => a &&& ~~~b) ∧ puts (.gshl e f) (opShl 64 false) ∧ puts (.gshr e f) (opShr 64 false) ∧
  puts (.gsar e f) (opSar 64 false) ∧ puts (.grotl e f) (opRotl 64 false) ∧ puts (.gmins e f) (opMins 64 false) ∧
  puts (.gmaxs e f) (opMaxs 64 false) ∧ puts (.gminu e f) (opMinu 64 false) ∧ puts (.gmaxu e f) (opMaxu 64 false)) ∧
  ((∀ (e : Bool) (f : GR2),
    let puts := fun (i : Instr) (op : DWord → DWord) => WritesG i [f.a.toNat] f.d fun g => op (g.gr f.a.toNat)
    puts (.gpopc e f) (fun a => BitVec.ofNat 64 ((List.range 64).filter a.getLsbD).length) ∧ puts (.gclz e f) (fun a => a.clz) ∧
    puts (.gctz e f) (fun a => a.reverse.clz) ∧ puts (.gbrev e f) (fun a => a.reverse) ∧ puts (.gnot e f) (fun a => ~~~a) ∧
    puts (.gneg e f) (fun a => -a) ∧ puts (.gmov e f) fun a => a) ∧
  (∀ (e : Bool) (f : GI),
    let puts := fun (i : Instr) (op : DWord → DWord → DWord) =>
      WritesG i [f.a.toNat] f.d fun g => op (g.gr f.a.toNat) (f.i.signExtend 64)
    puts (.gaddi e f) (fun a b => a + b) ∧ puts (.gandi e f) (fun a b => a &&& b) ∧ puts (.gori e f) (fun a b => a ||| b) ∧
    puts (.gxori e f) fun a b => a ^^^ b) ∧
  (∀ (e : Bool) (f : GSh), WritesG (.gshi e f) [f.a.toNat] f.d fun g =>
    let a := g.gr f.a.toNat
    if f.k = 0#2 then a <<< f.s.toNat else if f.k = 1#2 then a >>> f.s.toNat else if f.k = 2#2 then a.sshiftRight f.s.toNat
    else a.rotateLeft f.s.toNat) ∧
  ∀ (e : Bool) (f : GK),
    WritesG (.gmovz e f) [] f.d (fun _ => f.i.zeroExtend 64 <<< (16 * f.h.toNat)) ∧
    WritesG (.gmovk e f) [] f.d fun g =>
      g.gr f.d.toNat &&& ~~~(0xFFFF#64 <<< (16 * f.h.toNat)) ||| f.i.zeroExtend 64 <<< (16 * f.h.toNat))

/-- R155: a mask pair without waiting threads is left alone; one whose masks agree is cleared and lets the threads waiting in its `rejoin`
go on behind it, ready; one whose masks differ keeps them waiting. Other registers and threads are unchanged. R155: `enrol g` sets the
bits of its threads in g and goes on; `rejoin g` sets them in g + 1 and its threads wait, until the pair's masks agree
(`MaskPairRelease`). -/
def Obligations.MaskPairResult : Prop :=
  (∀ (q : Group) (now g : Nat),
  let t := q.rejoinAt now g
  let waits := fun (x : Thread) => x.st = .waiting (.rejoin g)
  (q.gr g = q.gr (g + 1) → (∃ p ∈ q.threads, waits p.2) →
    t.gr g = 0 ∧ t.gr (g + 1) = 0 ∧ (∀ k, k ≠ g → k ≠ g + 1 → t.gr k = q.gr k) ∧
    ∀ i x, q.threads.find? i = some x → t.threads.find? i =
      some (if waits x then { x with pc := ptrAdd x.pc 4, st := .ready, since := now, arr := none } else x)) ∧
  (q.gr g ≠ q.gr (g + 1) ∨ (∀ p ∈ q.threads, ¬waits p.2) → t = q)) ∧
  (∀ (e : Bool) (g : BitVec 6) (s : State) (c : Nat) (r : Run) (k n : Nat) (q : Group) (mask : DWord),
  s.group? k n = some q → r.set ≠ [] → (∀ z ∈ r.set, z.ctx = k ∧ z.grp = n) →
  (∀ i < 64, mask.getLsbD i = true ↔ (⟨k, n, i⟩ : ThreadRef) ∈ r.set) →
  (LaneReady s (.enrol e g) bareMod [] [g.toNat, g.toNat + 1] c r → (∀ z ∈ r.set, z.idx < 64) →
    ∃ t y, exec (.enrol e g) s = .next t ∧ s.coresOnly t ∧ t.group? k n = some y ∧
      y = { (q.setG g.toNat (q.gr g.toNat ||| mask)).rejoinAll s.cycle with threads := y.threads } ∧
      (∀ z ∈ r.set, ∀ x, s.thread? z = some x → ∃ w, t.thread? z = some w ∧
        w = { x with loads := x.tick.loads, pc := ptrAdd r.pc 4, st := w.st, since := w.since } ∧ (w.st = .running ∨ w.st = .ready)) ∧
      (∀ i, (⟨k, n, i⟩ : ThreadRef) ∉ r.set →
        t.thread? ⟨k, n, i⟩ = ((q.setG g.toNat (q.gr g.toNat ||| mask)).rejoinAll s.cycle).threads.find? i) ∧
      ∀ a b, ¬(a = k ∧ b = n) → t.group? a b = s.group? a b) ∧
  (LaneReady s (.rejoin e g) bareMod [] [g.toNat, g.toNat + 1] c r → (∀ z ∈ r.set, z.idx < 64 ∧ (q.gr g.toNat).getLsbD z.idx = true) →
    let waits := { q.setG (g.toNat + 1) (q.gr (g.toNat + 1) ||| mask) with
      threads := q.threads.mapVals fun i x => if (⟨k, n, i⟩ : ThreadRef) ∈ r.set then
        { x with loads := x.tick.loads, st := .waiting (.rejoin g.toNat), pc := r.pc } else x }
    ∃ t, exec (.rejoin e g) s = .next t ∧ s.coresOnly t ∧ t.group? k n = some (waits.rejoinAll s.cycle) ∧
      ∀ a b, ¬(a = k ∧ b = n) → t.group? a b = s.group? a b))

/-- R339, R344: uniform branches, `gjmp` and `gyield`; a branch not taken goes on. `gexit` ends the threads of its issue set. -/
def Obligations.UniformBranchResult : Prop :=
  let jumps := fun (i : Instr) (gs : List Nat) (taken : Group → Bool) (pc : UniCtx → DWord) =>
    ∀ s u, UniReady s i false gs u → ∃ t, exec i s = .next t ∧
      (taken u.group = true → UniParts s t u fun x => x.goesTo s (pc u)) ∧ (taken u.group = false → UniGoes s t i u id)
  (∀ (e : Bool) (f : GBC),
    jumps (.gbrz e f) [f.a.toNat] (fun g => g.gr f.a.toNat == 0) (fun u => ptrAdd u.run.pc (4 * f.o.toInt)) ∧
    jumps (.gbrnz e f) [f.a.toNat] (fun g => g.gr f.a.toNat != 0) fun u => ptrAdd u.run.pc (4 * f.o.toInt)) ∧
  (∀ e o, jumps (.gjmp e o) [] (fun _ => true) fun u => ptrAdd u.run.pc (4 * o.toInt)) ∧
  (∀ e, jumps (.gyield e) [] (fun _ => true) fun u => ptrAdd u.run.pc 4) ∧
  ∀ e s u, UniReady s (.gexit e) false [] u → u.group.errs = [] → ∃ t, exec (.gexit e) s = .next t ∧
    UniParts s t u fun x =>
      { x with loads := x.tick.loads, st := .exited, pc := u.run.pc, q0 := [], q1 := [], flying := x.flying ++ inFlightOf (x.q0 ++ x.q1) }

/-! ## Faults, calls and returns -/

/-- R364, R300, R344, R196: `trap`, `gtrap` and words that are no instruction send a thread that can enter its handler there: a software
trap with its code in DETAIL and the next word's address as return address, an illegal word with the words in `faddr` and its own address. -/
def Obligations.TrapResult : Prop := ∀ (s : State) (c : Nat) (r : Run) (q : ThreadRef) (tm : Team) (g : Group) (x : Thread),
  r.set = [q] → CanTrap s q tm g x →
  (∀ e n, LaneReady s (.trap e n) bareMod [] [] c r → ∃ t, exec (.trap e n) s = .next t ∧
    Trapped s t q tm g x 0x1A n.toNat 0 r.pc (ptrAdd r.pc 4)) ∧
  (∀ e n u, UniReady s (.gtrap e n) false [] u → u.run = r → ∃ t, exec (.gtrap e n) s = .next t ∧
    Trapped s t q tm g x 0x1A n.toNat 0 r.pc (ptrAdd r.pc 4)) ∧
  ∀ w v, s.run? = some (c, r) → ∃ t, exec (.illegalWord w v) s = .next t ∧
    Trapped s t q tm g x 0x01 0 (dw (w.toNat + 2 ^ 32 * (v.map BitVec.toNat).getD 0)) r.pc r.pc

/-- R295, R296, R294: `call`, and `bri` with its link bit, push the address of the next word and go to their targets; without it `bri`
pushes nothing. R297, R365: `ret` pops the return address and goes there; the pop that leaves the stack as deep as it was at the fault
leaves the handler, discarding level 1 of `qsf`. -/
def Obligations.CallReturnResult : Prop :=
  (∀ (s : State) (c : Nat) (r : Run) (q : ThreadRef) (tm : Team) (g : Group) (x : Thread),
  let calls := fun (i : Instr) (pc : DWord) => ∃ t, exec i s = .next t ∧ s.coresOnly t ∧ ThreadsOnly s t [q] ∧
    t.thread? q = some { x.goesTo s pc with top := x.top + 8 } ∧
    ((t.core c).laneLine q (x.top / 64)).map (fun y => lineGet y.data (x.top % 64) 8) = some (ptrAdd r.pc 4).toNat
  r.set = [q] → s.team? q.ctx = some tm → s.group? q.ctx q.grp = some g → s.thread? q = some x → g.core = c →
  x.top + 8 ≤ (tm.role g).p64 → x.top % 8 = 0 → (∀ p ∈ x.stores, p.2 ≠ (tm.priv q.grp q.idx + x.top) / 64) →
  (∃ y, (s.core c).laneHit q (x.top / 64) (x.top % 64) 8 = some y ∧ y.lane = g.lane q.idx) →
  ((s.core c).lanes.filter fun y => y.lane == g.lane q.idx && y.line % 16 == x.top / 64 % 16).length ≤ 4 →
  (∀ e o, LaneReady s (.call e o) bareMod [] [] c r → calls (.call e o) (ptrAdd r.pc (4 * o.toInt))) ∧
  (∀ e a, LaneReady s (.bri e a true) bareMod [many 2 a] [] c r → calls (.bri e a true) (dw (x.rs a.toNat 2))) ∧
  ∀ e a, LaneReady s (.bri e a false) bareMod [many 2 a] [] c r → ∃ t, exec (.bri e a false) s = .next t ∧
    s.coresOnly t ∧ ThreadsOnly s t [q] ∧ t.thread? q = some (x.goesTo s (dw (x.rs a.toNat 2)))) ∧
  (∀ (s : State) (c : Nat) (r : Run) (q : ThreadRef) (tm : Team) (g : Group) (x : Thread) (y : LaneLine) (e : Bool),
  LaneReady s (.ret e) bareMod [] [] c r → r.set = [q] → s.team? q.ctx = some tm → s.group? q.ctx q.grp = some g → s.thread? q = some x →
  8 ≤ x.top → (∀ p ∈ x.stores, p.2 ≠ (tm.priv q.grp q.idx + (x.top - 8)) / 64) →
  (s.core c).laneHit q ((x.top - 8) / 64) ((x.top - 8) % 64) 8 = some y →
  ((s.core c).lanes.filter fun z => z.lane == y.lane && z.line % 16 == y.line % 16).length ≤ 4 →
  let back := dw (lineGet y.data ((x.top - 8) % 64) 8)
  let leaves := x.handler && x.top - 8 == 8 * (x.fcause.toNat / 2 ^ 16 % 2 ^ 16)
  ∃ t, exec (.ret e) s = .next t ∧ s.coresOnly t ∧ ThreadsOnly s t [q] ∧
    t.thread? q = some { x.goesTo s back with
      top := x.top - 8, handler := x.handler && !leaves, q1 := if leaves then [] else x.q1
      flying := if leaves then x.flying ++ inFlightOf x.q1 else x.flying } ∧
    (t.core c).laneLine q ((x.top - 8) / 64) = some y)

/-! ## Waiting and special functions -/

/-- R106, R301: a fence whose conditions hold is performed: as a release it keeps the horizon that later stores carry as their tag, as an
acquire it adopts the largest tag of the loads before it and holds later global loads back. R300, R103, R105: `sleep` is over after 64 ×
2^n cycles; a thread that waits in a release or an acquire by itself becomes ready at its instruction when the conditions hold. -/
def Obligations.FenceWaitResult : Prop :=
  (∀ (e : Bool) (sc : BitVec 3) (o : BitVec 2) (s : State) (c : Nat) (r : Run),
  let rel := decide (2 ≤ o.toNat)
  let acq := decide (o.toNat % 2 = 1)
  let δ := if sc.toNat ≤ 3 then 2 else if sc.toNat = 4 then 16 else 64
  LaneReady s (.fence e sc o) bareMod [] [] c r →
  (∀ q ∈ r.set, ∀ x, s.thread? q = some x → (rel = true → releaseOk (s.nowAt c) x sc.toNat = true) ∧
    (acq = true → x.loads = [] ∧ (sc.toNat ≤ 1 ∨ x.loadTag = 0 ∨ x.loadTag + δ ≤ s.nowAt c))) →
  ∃ t, exec (.fence e sc o) s = .next t ∧ LaneGoes s t (.fence e sc o) r fun _ x => ({ x with
    fenceTag := if rel then max x.fenceTag x.hzg else x.fenceTag
    hzg := if acq then max x.hzg x.loadTag else x.hzg
    notBefore := if acq && decide (2 ≤ sc.toNat) then max x.notBefore (x.loadTag + δ) else x.notBefore
    loadTag := if acq then 0 else x.loadTag }, 0#40)) ∧
  ((∀ (e : Bool) (n : BitVec 4) (s : State) (c : Nat) (r : Run) (q : ThreadRef) (x : Thread),
    LaneReady s (.sleep e n) bareMod [] [] c r → r.set = [q] → s.thread? q = some x →
    ∃ t, exec (.sleep e n) s = .next t ∧ ThreadsOnly s t [q] ∧
      t = { s with teams := t.teams, cores := t.cores, due := s.due ++ [(s.clock + 128 * 2 ^ n.toNat, .sleepExpiry q)] } ∧
      t.thread? q = some { x with loads := x.tick.loads, st := .sleeping, pc := ptrAdd r.pc 4 }) ∧
  (∀ (q : ThreadRef) (s : State) (x : Thread), s.thread? q = some x → x.st = .sleeping →
    TurnsThread (.sleepExpiry q) s q { x with st := .ready, since := s.cycle }) ∧
  (∀ (q : ThreadRef) (s : State) (g : Group) (x : Thread) (sc : BitVec 3), s.group? q.ctx q.grp = some g → s.thread? q = some x →
    x.st = .parked (.release sc) false → releaseOk (s.nowAt g.core) x sc.toNat = true →
    TurnsThread (.releaseConditionsMet q) s q { x with st := .ready, since := s.cycle }) ∧
  ∀ (q : ThreadRef) (s : State) (g : Group) (x : Thread) (n : Nat), s.group? q.ctx q.grp = some g → s.thread? q = some x →
    x.st = .parked (.acquire n) false → n ≤ s.nowAt g.core →
    TurnsThread (.acquireWaitEnd q) s q { x with st := .ready, since := s.cycle })

/-- R304, R305, R307: a special function enters its J + 1 results at the tail of the level of `qsf` in use, not yet arrived; a thread that
takes no part enters as many zeros. Its flags enter `jxf` when the results arrive. R308, R305, R255: `lpop` moves the oldest J + 1
results, all arrived, from the level in use to its registers; the arrival of a special function's results marks them and enters their
flags in `jxf`, also where the entries have been discarded.
The precision at which a result is settled is the model's (log entry 15). -/
def Obligations.SpecialFunctionResult : Prop :=
  (∀ (m : Mod) (s : State) (c : Nat) (r : Run) (q : ThreadRef) (g : Group) (x : Thread),
  let n := r.jo + 1
  let coefs := fun (a : BitVec 7) => (List.range n).map fun k => (x.r (a.toNat + k)).toNat
  let pushes := fun (i : Instr) (fn : Nat) (a : BitVec 7) (b : Option (BitVec 7)) =>
    let vs := jetOp r.jo a :: (b.map (jetOp r.jo)).toList
    LaneReady s i m vs [] c r → ∃ t, exec i s = .next t ∧
      t = { s with teams := t.teams, cores := t.cores, agenda := t.agenda, nextId := s.nextId + 1 } ∧ ThreadsOnly s t [q] ∧
      t.agenda = s.agenda ++ [.sfxResultArrival q (if x.handler then 1 else 0) s.nextId] ∧
      ∃ y es, t.thread? q = some y ∧ y.level = x.level ++ es ∧ es.map (fun e => (e.serial, e.arrived)) = List.replicate n (s.nextId, false) ∧
        (takesPart m x = false → ∀ e ∈ es, e.v = 0 ∧ e.flags = 0#40) ∧
        (takesPart m x = true → es.map (fun e => e.v) = (List.range n).map fun k => wd (((sfxJet fn (fEnv m g) r.jo (coefs a)
          ((b.map coefs).getD [])).1.getD k 0))) ∧
        (takesPart m x = true → es.foldl (fun a e => a ||| e.flags) 0#40 = (sfxJet fn (fEnv m g) r.jo (coefs a) ((b.map coefs).getD [])).2) ∧
        y = { x with loads := x.tick.loads, pc := ptrAdd r.pc (4 * i.words), q0 := y.q0, q1 := y.q1, st := y.st, since := y.since }
  r.set = [q] → s.group? q.ctx q.grp = some g → s.thread? q = some x → x.level.length + n ≤ 8 →
  (∀ a, pushes (.frcp m a) 0 a none ∧ pushes (.frsqrt m a) 1 a none ∧ pushes (.fsqrt m a) 2 a none ∧ pushes (.fexp2 m a) 4 a none ∧
    pushes (.flog2 m a) 5 a none ∧ pushes (.fexp m a) 6 a none ∧ pushes (.fln m a) 7 a none ∧ pushes (.fsin m a) 8 a none ∧
    pushes (.fcos m a) 9 a none ∧ pushes (.ftanh m a) 10 a none ∧ pushes (.fsigm m a) 11 a none ∧ pushes (.ferf m a) 12 a none) ∧
  ∀ a b, pushes (.fdiv m a b) 3 a (some b) ∧ pushes (.fpow m a b) 13 a (some b)) ∧
  ((∀ (e : Bool) (a : BitVec 7) (s : State) (c : Nat) (r : Run),
    let n := r.jo + 1
    LaneReady s (.lpop e a) bareMod [jetOp r.jo a] [] c r →
    (∀ q ∈ r.set, ∀ x, s.thread? q = some x → n ≤ x.level.length ∧ ∀ k ∈ x.level.take n, k.arrived = true) →
    ∃ t eff, exec (.lpop e a) s = .next t ∧ LaneGoes s t (.lpop e a) r eff ∧ ∀ q ∈ r.set, ∀ x, s.thread? q = some x →
      (eff q x).1 = { x with v := (eff q x).1.v, q0 := (eff q x).1.q0, q1 := (eff q x).1.q1 } ∧ (eff q x).2 = 0#40 ∧
      (eff q x).1.level = x.level.drop n ∧ (if x.handler then (eff q x).1.q0 = x.q0 else (eff q x).1.q1 = x.q1) ∧
      (∀ k, k < n → (eff q x).1.r (a.toNat + k) = (x.level.map fun e => e.v).getD k 0) ∧
      ∀ k, ¬(a.toNat ≤ k ∧ k < a.toNat + n) → (eff q x).1.r k = x.r k) ∧
  ∀ (q : ThreadRef) (level serial : Nat) (s : State) (x : Thread), s.thread? q = some x →
    let old := if level = 1 then x.q1 else x.q0
    let new := old.map fun e => if e.serial = serial then { e with arrived := true } else e
    let fl := ((old.filter fun e => !e.arrived).map (fun e => (e.serial, e.flags)) ++ x.flying).foldl
      (fun a e => if e.1 = serial then a ||| e.2 else a) 0#40
    let x := { x with flying := x.flying.filter fun e => e.1 != serial }
    ∃ t, exec (.sfxResultArrival q level serial) s = .next t ∧ t = { s with teams := t.teams } ∧
      t.thread? q = some (if level = 1 then { x with q1 := new } else { x with q0 := new }) ∧
      (∀ k, k ≠ q → t.thread? k = s.thread? k) ∧
      ∀ c g k, s.group? c g = some k → ∃ y, t.group? c g = some y ∧
        y = { k with threads := y.threads, jxf := if c = q.ctx ∧ g = q.grp then k.jxf ||| fl else k.jxf })

/-! ## Enrolment, barriers of a group, trees -/

/-- R299, R112: a thread that arrives at a `barg` as the last of its mask lets every participant go on behind the word, each with the
largest horizon of them all; one that is not the last opens or joins the instance and waits.
That it completes at the last arrival is the model's reading (log entry 27). -/
def Obligations.GroupBarrierResult : Prop :=
  ∀ (e : Bool) (d : BitVec 6) (s : State) (c : Nat) (r : Run) (q : ThreadRef) (tm : Team) (g : Group) (x : Thread),
  LaneReady s (.barg e d) bareMod [] [d.toNat] c r → r.set = [q] → s.team? q.ctx = some tm → s.group? q.ctx q.grp = some g →
  s.thread? q = some x → releaseOk (s.nowAt c) x 0 = true →
  let m := BitVec.ofNat 64 ((g.gr d.toNat).toNat % 2 ^ tm.width)
  let bit := BitVec.ofNat 64 (2 ^ q.idx)
  let found := g.insts.find? fun n => n.pc == r.pc
  let waits := { x with loads := x.tick.loads, st := .waiting .barg, pc := r.pc }
  let hz := (((List.range 64).filter m.getLsbD).filterMap fun i => (s.thread? ⟨q.ctx, q.grp, i⟩).map fun y => y.hzg).foldl max 0
  m.getLsbD q.idx = true →
  (∀ rest, (found = none ∧ g.insts.length < 8 ∧ m = bit ∧ rest = g.insts) ∨
      (∃ n, found = some n ∧ n.mask = m ∧ n.arrived ||| bit = m ∧ rest = g.insts.erase n) →
    ∃ t, exec (.barg e d) s = .next t ∧ InstsOnly s t q rest 0#40 ∧
      (∀ k y, m.getLsbD k = true → s.thread? ⟨q.ctx, q.grp, k⟩ = some y →
        let z := if k = q.idx then waits else y
        t.thread? ⟨q.ctx, q.grp, k⟩ = some { z with hzg := max y.hzg hz, pc := ptrAdd z.pc 4, st := .ready, since := s.cycle, arr := none }) ∧
      ∀ k, ¬(k.ctx = q.ctx ∧ k.grp = q.grp ∧ m.getLsbD k.idx = true) → t.thread? k = s.thread? k) ∧
  ∀ rest, (found = none ∧ g.insts.length < 8 ∧ m ≠ bit ∧ rest = g.insts ++ [⟨r.pc, m, bit⟩]) ∨
      (∃ n, found = some n ∧ n.mask = m ∧ n.arrived ||| bit ≠ m ∧
        rest = g.insts.map fun k => if k = n then { k with arrived := k.arrived ||| bit } else k) →
    ∃ t, exec (.barg e d) s = .next t ∧ InstsOnly s t q rest 0#40 ∧ t.thread? q = some waits ∧ ∀ k, k ≠ q → t.thread? k = s.thread? k

/-- R302, R303, R228, R252: the tree operations. On the last arrival every participant has its result in vd, the flags are in `jxf`, and
all go on behind the word; before it the arriving thread waits.
That they complete at the last arrival is the model's reading (log entry 27). -/
def Obligations.TreeResult : Prop :=
  ∀ (e : Bool) (f : LXT) (s : State) (c : Nat) (r : Run) (q : ThreadRef) (tm : Team) (g : Group) (x : Thread),
  r.set = [q] → s.team? q.ctx = some tm → s.group? q.ctx q.grp = some g → s.thread? q = some x →
  let m := BitVec.ofNat 64 ((g.gr f.g.toNat).toNat % 2 ^ tm.width)
  let bit := BitVec.ofNat 64 (2 ^ q.idx)
  let found := g.insts.find? fun n => n.pc == r.pc
  let waits := { x with loads := x.tick.loads, st := .waiting .tree, pc := r.pc }
  let env : FEnv := ⟨.rne, g.ftz, g.daz⟩
  let tree := fun (i : Instr) (jets rank : Bool) (fn : FEnv → List (Nat × List Nat) → Nat → Nat → Nat × Flags) =>
    let n := if jets then r.jo + 1 else 1
    let op := fun (a : BitVec 7) => if jets then jetOp r.jo a else one a
    let vs := s.maskVals q.ctx q.grp m f.a.toNat n
    let fl := vs.foldl (fun a v => (List.range n).foldl (fun a p => a ||| inPlane p (fn env vs v.1 p).2) a) 0#40
    LaneReady s i bareMod (if rank then [op f.d] else [op f.d, op f.a]) [f.g.toNat] c r →
    (∀ rest, (found = none ∧ g.insts.length < 8 ∧ m = bit ∧ rest = g.insts) ∨
        (∃ k, found = some k ∧ k.mask = m ∧ k.arrived ||| bit = m ∧ rest = g.insts.erase k) →
      ∃ t, exec i s = .next t ∧ InstsOnly s t q rest fl ∧
        (∀ k y, m.getLsbD k = true → s.thread? ⟨q.ctx, q.grp, k⟩ = some y → ∃ w, t.thread? ⟨q.ctx, q.grp, k⟩ = some w ∧
          let z := if k = q.idx then waits else y
          w = { z with v := w.v, pc := ptrAdd z.pc 4, st := .ready, since := s.cycle, arr := none } ∧
          (∀ p, p < n → w.r (f.d.toNat + p) = BitVec.ofNat 32 (fn env vs k p).1) ∧
          ∀ p, p < f.d.toNat ∨ f.d.toNat + n ≤ p → w.r p = y.r p) ∧
        ∀ k, ¬(k.ctx = q.ctx ∧ k.grp = q.grp ∧ m.getLsbD k.idx = true) → t.thread? k = s.thread? k) ∧
    ∀ rest, (found = none ∧ g.insts.length < 8 ∧ m ≠ bit ∧ rest = g.insts ++ [⟨r.pc, m, bit⟩]) ∨
        (∃ k, found = some k ∧ k.mask = m ∧ k.arrived ||| bit ≠ m ∧
          rest = g.insts.map fun z => if z = k then { z with arrived := z.arrived ||| bit } else z) →
      ∃ t, exec i s = .next t ∧ InstsOnly s t q rest 0#40 ∧ t.thread? q = some waits ∧ ∀ k, k ≠ q → t.thread? k = s.thread? k
  let ints := fun (i : Instr) (op : List (Nat × Word) → Nat → Word) => tree i false false (intTree op)
  m.getLsbD q.idx = true →
  tree (.redaddF32 e f) true false treeAdd ∧ tree (.redminF32 e f) true false (treeMinMax false) ∧
  tree (.redmaxF32 e f) true false (treeMinMax true) ∧ tree (.scanaddF32 e f) true false treeScanAdd ∧
  ints (.redaddI32 e f) (fun l _ => treeFold (fun a b => a + b) l) ∧
  ints (.redminS32 e f) (fun l _ => treeFold (fun a b => if b.slt a then b else a) l) ∧
  ints (.redmaxS32 e f) (fun l _ => treeFold (fun a b => if a.slt b then b else a) l) ∧
  ints (.redand e f) (fun l _ => treeFold (fun a b => a &&& b) l) ∧ ints (.redor e f) (fun l _ => treeFold (fun a b => a ||| b) l) ∧
  ints (.redxor e f) (fun l _ => treeFold (fun a b => a ^^^ b) l) ∧
  ints (.scanaddI32 e f) (fun l i => treeFold (fun a b => a + b) (l.filter fun v => decide (v.1 ≤ i))) ∧
  ints (.xscanaddI32 e f) (fun l i => treeFold (fun a b => a + b) (l.filter fun v => decide (v.1 < i))) ∧
  ints (.bcast e f) (fun l _ => (l.head?.map fun v => v.2).getD 0) ∧
  tree (.rank e f) false true (intTree fun l i => BitVec.ofNat 32 (l.filter fun v => decide (v.1 < i)).length)

/-! ## Lane-set memory -/

/-- R285, R286, R287, R54, R55, R262: a relaxed `ld` or `st` inside the thread's own segment is served by the lane store line that holds
it, `ld` extended as its size says; a thread that takes no part keeps its destination, or with Z = 1 has it zeroed. R282, R285, R286,
R287, R148, R101, R104: a `ld`, `st` or `atom` whose checks pass and whose waits are over suspends its thread at the instruction and sends
one request, with the address, the size, the key ID, the data and the release tag that it carries.
The wait for the thread's own store to the line is the model's reading (log entry 24). -/
def Obligations.LaneMemoryResult : Prop :=
  (∀ (m : Mod) (s : State) (c : Nat) (r : Run) (q : ThreadRef) (tm : Team) (g : Group) (x : Thread),
  r.set = [q] → s.team? q.ctx = some tm → s.group? q.ctx q.grp = some g → s.thread? q = some x →
  let idle := fun (i : Instr) (vs : List VOp) (z : Thread) => LaneReady s i m vs [] c r true → takesPart m x = false →
    ∃ t, exec i s = .next t ∧ LaneGoes s t i r fun _ _ => (z, 0#40)
  let inLine := fun (p : DWord) (size : Nat) (y : LaneLine) =>
    let ea := relocate tm.apx p
    let off := vaOf ea - tm.priv q.grp q.idx
    m.order = 0#2 ∧ vaOf ea % size = 0 ∧ tm.priv q.grp q.idx ≤ vaOf ea ∧ off < (tm.role g).p64 ∧ (∀ p ∈ x.stores, p.2 ≠ vaOf ea / 64) ∧
    (s.core c).laneHit q (off / 64) (off % 64) size = some y ∧ y.lane = g.lane q.idx ∧
    ((s.core c).lanes.filter fun z => z.lane == y.lane && z.line % 16 == y.line % 16).length ≤ 4
  (∀ (f : LM) (y : LaneLine),
    let d := many (sizeRegs f.s) f.d
    let p := ptrAdd (dw (x.rs (2 * f.n.toNat) 2)) (f.i.toNat * sizeBytes f.s + m.vc.toNat * 16)
    let off := vaOf (relocate tm.apx p) - tm.priv q.grp q.idx
    idle (.ld m f) [d, addrOp f.n] (if m.z then x.set d 0 else x) ∧
    (LaneReady s (.ld m f) m [d, addrOp f.n] [] c r true → takesPart m x = true → inLine p (sizeBytes f.s) y →
      ∃ t, exec (.ld m f) s = .next t ∧ LaneGoes s t (.ld m f) r fun _ x =>
        (x.set d (loaded f.s (lineGet y.data (off % 64) (sizeBytes f.s))), 0#40))) ∧
  (∀ (f : LST) (y : LaneLine),
    let v := many (sizeRegs f.s) f.v
    let p := ptrAdd (dw (x.rs (2 * f.n.toNat) 2)) (f.i.toNat * sizeBytes f.s + m.vc.toNat * 16)
    let off := vaOf (relocate tm.apx p) - tm.priv q.grp q.idx
    idle (.st m f) [v, addrOp f.n] x ∧
    (LaneReady s (.st m f) m [v, addrOp f.n] [] c r true → takesPart m x = true → inLine p (sizeBytes f.s) y →
      ∃ t, exec (.st m f) s = .next t ∧ LaneGoes s t (.st m f) r (fun _ x => (x, 0#40)) ∧
        (t.core c).laneLine q (off / 64) = some { y with
          dirty := y.dirty ||| byteMask (off % 64) (sizeBytes f.s), valid := y.valid ||| byteMask (off % 64) (sizeBytes f.s)
          data := linePut y.data (off % 64) (sizeBytes f.s) (x.get v) } ∧
        ∀ z ∈ (s.core c).lanes, ¬(z.owner = q ∧ z.line = off / 64) → z ∈ (t.core c).lanes)) ∧
  ∀ (f : LAT),
    idle (.atom m f) [many (atomRegs f.o) f.d, addrOp f.n] (if m.z then x.set (many (atomRegs f.o) f.d) 0 else x)) ∧
  (∀ (m : Mod) (s : State) (c : Nat) (r : Run) (q : ThreadRef) (tm : Team) (g : Group) (x : Thread),
  r.set = [q] → s.team? q.ctx = some tm → s.group? q.ctx q.grp = some g → s.thread? q = some x → takesPart m x = true →
  let goes := fun (p : DWord) (size right : Nat) (reads ownToo : Bool) =>
    let ea := relocate tm.apx p
    let off := vaOf ea - tm.priv q.grp q.idx
    let own := decide (tm.priv q.grp q.idx ≤ vaOf ea) && decide (vaOf ea < tm.priv q.grp q.idx + (tm.role g).p64)
    vaOf ea % size = 0 ∧ locketOk tm.keys ea right = true ∧ s.outstanding c < 2048 ∧ (reads = true → x.notBefore ≤ s.nowAt c) ∧
    (∀ p ∈ x.stores, p.2 ≠ vaOf ea / 64) ∧ (2 ≤ m.order.toNat → releaseOk (s.nowAt c) x m.scope.toNat = true) ∧
    (own = true → (ownToo = true ∨ m.order ≠ 0#2) ∧ (s.core c).laneBusy q (off / 64) = false ∧
      ∀ y, (s.core c).laneLine q (off / 64) = some y → y.dirty = 0)
  let req := fun (i : Instr) (p : DWord) => { reqAt (reqOf s.dev.no tm q.ctx c (.thread q) r.pc (ptrAdd r.pc (4 * i.words))) tm
    (relocate tm.apx p) (hostForm p) with id := s.nextId, order := m.order, scope := m.scope }
  let line := fun (p : DWord) => vaOf (relocate tm.apx p) / 64
  let held := { x with st := .suspended, pc := r.pc }
  let tag := fun (rel : Bool) => dw (if rel then max x.fenceTag x.hzg else x.fenceTag)
  (∀ (f : LM),
    let p := ptrAdd (dw (x.rs (2 * f.n.toNat) 2)) (f.i.toNat * sizeBytes f.s + m.vc.toNat * 16)
    LaneReady s (.ld m f) m [many (sizeRegs f.s) f.d, addrOp f.n] [] c r true → goes p (sizeBytes f.s) 0 true false →
    SendsFor (.ld m f) s q { held with loads := [⟨s.nextId, f.d.toNat, sizeRegs f.s, f.k.toNat, m.order == 1#2, false⟩] }
      { req (.ld m f) p with size := sizeBytes f.s, dst := f.d.toNat, szc := f.s, look := f.k.toNat }) ∧
  (∀ (f : LST),
    let p := ptrAdd (dw (x.rs (2 * f.n.toNat) 2)) (f.i.toNat * sizeBytes f.s + m.vc.toNat * 16)
    LaneReady s (.st m f) m [many (sizeRegs f.s) f.v, addrOp f.n] [] c r true → goes p (sizeBytes f.s) 1 false false →
    SendsFor (.st m f) s q { held with stores := x.stores ++ [(s.nextId, line p)] }
      { req (.st m f) p with acc := .store, size := sizeBytes f.s, data := BitVec.ofNat 512 (x.get (many (sizeRegs f.s) f.v)),
                             tag := tag (m.order == 2#2), excl := true }) ∧
  ∀ (f : LAT),
    let p := ptrAdd (dw (x.rs (2 * f.n.toNat) 2)) (m.vc.toNat * 16)
    let size := if f.o = 11#4 ∨ f.o = 12#4 then 8 else 4
    let d := x.get (many (atomRegs f.o) f.d)
    LaneReady s (.atom m f) m [many (atomRegs f.o) f.d, addrOp f.n] [] c r true → goes p size 2 true true →
    SendsFor (.atom m f) s q { held with stores := x.stores ++ [(s.nextId, line p)] }
      { req (.atom m f) p with
        acc := .atomic f.o, size := size, dst := f.d.toNat, excl := true, tag := tag (m.order == 2#2 || m.order == 3#2)
        data := BitVec.ofNat 512 (if f.o = 10#4 then d / 2 ^ 32 else if f.o = 12#4 then d / 2 ^ 64 else d)
        cmp := dw (if f.o = 10#4 then d % 2 ^ 32 else if f.o = 12#4 then d % 2 ^ 64 else 0) })

/-- R57, R119, R134: a load of a thread, a group or a lane store under a live lease is answered by the pair cache; one whose lease has run out is renewed at the slice; any
other request goes to its slice. It enters the mesh if one of the core's 16 permits for that slice is free, and is held otherwise. R287,
R288: what an atomic leaves at the address: `old` there, `v` the operand, `cmp` the value expected; `add.f32` rounds to nearest even and
keeps subnormals. -/
def Obligations.RequestAndAtomicResult : Prop :=
  (∀ (s : State) (r : Req),
  let n := s.sliceFor r.part r.die r.va.toNat
  let used := (s.core r.core).permits.getD n 0
  let line := r.va.toNat / 64
  let copy := (s.pair (r.core / 2)).find? fun x => decide (x.line = line) && (x.gkid == r.gkid || r.own)
  let paired := match r.client with
    | .thread _ => true
    | .group _ _ _ => true
    | .lane _ => true
    | _ => false
  let enters := fun (e : Event) (ver : Option Nat) (t : State) => t = { s with cores := t.cores, agenda := t.agenda } ∧
    (∀ k, k ≠ r.core → t.core k = s.core k) ∧
    if used < 16 then t.agenda = s.agenda ++ [e] ∧ t.core r.core = { s.core r.core with permits := (s.core r.core).permits.put n (used + 1) }
    else t.agenda = s.agenda ∧ t.core r.core = { s.core r.core with heldReqs := (s.core r.core).heldReqs ++ [(n, r, ver)] }
  (r.acc = .load ∧ r.excl = false ∧ paired = true ∧ r.dev = s.dev.no →
    (∀ x, copy = some x → s.nowAt r.core < x.lend →
      let t := s.send r
      t = { s with pairs := t.pairs, agenda := s.agenda ++ match r.client with
        | .lane _ => [.laneStoreFill r x.data]
        | _ => [.verdictArrival r .pass, .loadDataArrival r ⟨x.data, 0, 0, 0, x.tag, 0, x.gkid, false⟩ x.lend x.ver] } ∧
      t.pair (r.core / 2) = x :: (s.pair (r.core / 2)).erase x ∧ ∀ k, k ≠ r.core / 2 → t.pair k = s.pair k) ∧
    (∀ x, copy = some x → x.lend ≤ s.nowAt r.core → enters (.sliceRenewal r x.ver) (some x.ver) (s.send r)) ∧
    (copy = none → enters (.sliceRequest r) none (s.send r))) ∧
  (¬(r.acc = .load ∧ r.excl = false ∧ paired = true) → enters (.sliceRequest r) none (s.send r))) ∧
  ((∀ (old v cmp : Word),
    let puts := fun (op : BitVec 4) (new : Word) => BitVec.ofNat 32 (atomFn op old.toNat v.toNat cmp.toNat) = new
    puts 0#4 (old + v) ∧ puts 1#4 (BitVec.ofNat 32 (fAdd F32 ⟨.rne, false, false⟩ old.toNat v.toNat).1) ∧
    puts 2#4 (if v.slt old then v else old) ∧ puts 3#4 (if old.slt v then v else old) ∧
    puts 4#4 (if v.ult old then v else old) ∧ puts 5#4 (if old.ult v then v else old) ∧
    puts 6#4 (old &&& v) ∧ puts 7#4 (old ||| v) ∧ puts 8#4 (old ^^^ v) ∧ puts 9#4 v ∧ puts 10#4 (if old = cmp then v else old)) ∧
  ∀ (old v cmp : DWord),
    let puts := fun (op : BitVec 4) (new : DWord) => BitVec.ofNat 64 (atomFn op old.toNat v.toNat cmp.toNat) = new
    puts 11#4 (old + v) ∧ puts 12#4 (if old = cmp then v else old))

/-! ## Bank space -/

/-- R71, R77, R78, R88: where a bank address of the team's own window leads: the fault of a reserved field, of an offset that is not
aligned, of an empty or detached slot, of a mode that does not serve the use, of a range that leaves the bank; else its place. R290, R291,
R292, R111, R262: `sld` and `satom` of a thread read their bank at once, `satom` writes it; the write of `sst`, local or remote, sets out
at issue and retires later. A thread that takes no part keeps its registers, or has its destination zeroed.
The order of the checks and of the threads is the model's reading (log entries 26, 56). -/
def Obligations.BankAccessResult : Prop :=
  (∀ (s : State) (ctx : Nat) (t : Team) (w : Word) (size align : Nat) (u : Use),
  let a := w.toNat
  let slot := t.slot (w.extractLsb' 17 4).toNat
  let off := (w.extractLsb' 0 17).toNat
  let bad := w.extractLsb' 28 4 ≠ 0#4 ∨ w.extractLsb' 21 3 ≠ 0#3 ∨ w.extractLsb' 24 3 ≠ 0#3 ∨ off % align ≠ 0
  let serves := slot.mode = .priv ∨ slot.mode = .pair ∨ slot.mode = .front ∨
    (slot.mode = .shadow ∧ (u = .store ∨ u = .dest ∨ u = .gathered ∨ u = .tile))
  let at_ := s.bankPlace ctx t a size align u
  w.getLsbD 27 = false → slot.mode ≠ .stash →
  (bad → at_ = .error 0x0A) ∧
  (¬bad → slot.mode = .empty → at_ = .error (if slot.det then 0x08 else 0x07)) ∧
  (¬bad → slot.mode ≠ .empty → ¬serves → at_ = .error 0x09) ∧
  (¬bad → serves → 131072 < off + size → at_ = .error 0x0A) ∧
  (¬bad → serves → off + size ≤ 131072 → at_ = .ok (.bank (t.core / 4) slot.bank off))) ∧
  (∀ (m : Mod) (s : State) (c : Nat) (r : Run) (q : ThreadRef) (tm : Team) (g : Group) (x : Thread),
  r.set = [q] → s.team? q.ctx = some tm → s.group? q.ctx q.grp = some g → s.thread? q = some x →
  let idle := fun (i : Instr) (vs : List VOp) (z : Thread) => LaneReady s i m vs [] c r → takesPart m x = false →
    ∃ t, exec i s = .next t ∧ LaneGoes s t i r fun _ _ => (z, 0#40)
  let place := fun (i : Instr) (vs : List VOp) (a : BitVec 7) (o size : Nat) (u : Use) (p : Place) =>
    LaneReady s i m vs [] c r ∧ takesPart m x = true ∧ (∀ l ∈ x.loads, l.acq = false) ∧ (x.r a.toNat).toNat % 2 ^ 17 + o < 2 ^ 17 ∧
    s.bankPlace q.ctx tm ((x.r a.toNat).toNat + o) size size u = .ok p
  (∀ (f : LS) (cl bank off : Nat),
    let d := many (sizeRegs f.s) f.r
    let size := sizeBytes f.s
    let o := f.i.toNat * size
    let write := fun (shadow : Option (Nat × Nat)) (u : State) =>
      let w : BankWrite := ⟨s.nextId, some q, none, cl, bank, off, size, BitVec.ofNat 512 (x.get d % 2 ^ (8 * size)), shadow⟩
      { (u.modThread q fun y => { y with bankW := y.bankW ++ [s.nextId] }).modCluster cl fun k => { k with writes := k.writes ++ [w] } with
        nextId := s.nextId + 1, agenda := s.agenda ++ [.bankWriteRetire w] }
    idle (.sld m f) [d, one f.a] (if m.z then x.set d 0 else x) ∧ idle (.sst m f) [d, one f.a] x ∧
    (place (.sld m f) [d, one f.a] f.a o size .load (.bank cl bank off) → NoOwnWrite s x cl bank off size →
      ∃ t, exec (.sld m f) s = .next t ∧
        LaneGoes s t (.sld m f) r fun _ x => (x.set d (loaded f.s (s.bankGet cl bank off size)), 0#40)) ∧
    (place (.sst m f) [d, one f.a] f.a o size .store (.bank cl bank off) → NoOwnWrite s x cl bank off size →
      LaneThen (.sst m f) s r (fun _ x => (x, 0#40)) (write none)) ∧
    ∀ ctx slot, place (.sst m f) [d, one f.a] f.a o size .store (.remote ctx slot cl bank off) →
      LaneThen (.sst m f) s r (fun _ x => (x, 0#40)) (write (some (ctx, slot)))) ∧
  ∀ (f : LSA) (cl bank off : Nat),
    let d := many (atomRegs f.o) f.d
    let size := if f.o = 11#4 ∨ f.o = 12#4 then 8 else 4
    let old := s.bankGet cl bank off size
    let v := x.get d
    let new := atomFn f.o old (if f.o = 10#4 then v / 2 ^ 32 else if f.o = 12#4 then v / 2 ^ 64 else v)
      (if f.o = 10#4 then v % 2 ^ 32 else if f.o = 12#4 then v % 2 ^ 64 else 0)
    idle (.satom m f) [d, one f.a] (if m.z then x.set d 0 else x) ∧
    (place (.satom m f) [d, one f.a] f.a 0 size .atomic (.bank cl bank off) → NoOwnWrite s x cl bank off size →
      LaneThen (.satom m f) s r (fun _ x => ({ x.set (many (size / 4) f.d) old with hznT := max x.hznT (s.nowAt c) }, 0#40))
        fun u => u.bankPut cl bank off size new))

/-- R338: `gsld` reads a bank into a uniform register, zero-extended; the write of `gsst` sets out and enters the writes outstanding of
every thread of the issue set. R336, R337, R148: `gld`, `gst` and `gatom` whose checks pass and whose waits are over suspend every thread
of the issue set, end the run, and send one request for them all.
The wait for the thread's own store to the line is the model's reading (log entry 24). -/
def Obligations.UniformMemoryResult : Prop :=
  (∀ (e : Bool) (f : GM) (s : State) (u : UniCtx) (cl bank off : Nat),
  let size : Nat := 2 ^ f.s.toNat
  let o := f.i.toNat * size
  let a := (u.group.gr f.a.toNat).toNat % 2 ^ 32
  let place := fun (i : Instr) (k : Use) => UniReady s i false [f.r.toNat, f.a.toNat] u ∧ a % 2 ^ 17 + o < 2 ^ 17 ∧
    (a + o) / 2 ^ 27 % 2 = 0 ∧ s.bankPlace u.ctx u.team (a + o) size size k = .ok (.bank cl bank off) ∧
    ∀ q ∈ u.ts, ∀ x, s.thread? q = some x → (∀ l ∈ x.loads, l.acq = false) ∧ NoOwnWrite s x cl bank off size
  (place (.gsld e f) .load → ∃ t, exec (.gsld e f) s = .next t ∧
    UniGoes s t (.gsld e f) u fun g => g.setG f.r.toNat (dw (s.bankGet cl bank off size))) ∧
  (place (.gsst e f) .store →
    let w : BankWrite := ⟨s.nextId, u.ts.head?, none, cl, bank, off, size,
      BitVec.ofNat 512 ((u.group.gr f.r.toNat).toNat % 2 ^ (8 * size)), none⟩
    let s' := { (s.eachThread u.ts fun x => { x with bankW := x.bankW ++ [s.nextId] }).modCluster cl fun k =>
      { k with writes := k.writes ++ [w] } with nextId := s.nextId + 1, agenda := s.agenda ++ [.bankWriteRetire w] }
    ∃ t, exec (.gsst e f) s = .next t ∧ UniPast s s' t (.gsst e f) u)) ∧
  (∀ (e : Bool) (s : State) (u : UniCtx),
  let goes := fun (i : Instr) (gs : List Nat) (p : DWord) (size right : Nat) (reads : Bool) (rel : Bool) =>
    let ea := relocate u.team.apx p
    UniReady s i true gs u ∧ vaOf ea % size = 0 ∧ locketOk u.team.keys ea right = true ∧ s.outstanding u.core < 2048 ∧
    ∀ q ∈ u.ts, ∀ x, s.thread? q = some x → (reads = true → x.notBefore ≤ s.nowAt u.core) ∧ (∀ p ∈ x.stores, p.2 ≠ vaOf ea / 64) ∧
      (rel = true → releaseOk (s.nowAt u.core) x 3 = true)
  let sends := fun (i : Instr) (gs : List Nat) (p : DWord) (note : Thread → Thread) (mk : Req → Req) =>
    let req := reqAt (reqOf s.dev.no u.team u.ctx u.core (.group u.ctx u.grp (u.ts.map fun t => t.idx)) u.run.pc
      (ptrAdd u.run.pc (4 * i.words))) u.team (relocate u.team.apx p) (hostForm p)
    ∃ v, exec i s = .next ((v.send (mk { req with id := s.nextId })).useLines u.core (uniTags i u gs)).dropRun ∧
      v = { s with teams := v.teams, nextId := s.nextId + 1 } ∧ ThreadsOnly s v u.ts ∧
      ∀ q ∈ u.ts, ∀ x, s.thread? q = some x → v.thread? q = some (note { x with st := .suspended, pc := u.run.pc })
  let tag := fun (rel : Bool) => dw ((u.ts.filterMap s.thread?).foldl
    (fun a x => max a ((if rel then max x.fenceTag x.hzg else x.fenceTag) % 2 ^ 64)) 0)
  (∀ (f : GMK),
    let size : Nat := 2 ^ f.s.toNat
    let p := ptrAdd (u.group.gr f.a.toNat) (f.i.toNat * size)
    goes (.gld e f) [f.r.toNat, f.a.toNat] p size 0 true false →
    sends (.gld e f) [f.r.toNat, f.a.toNat] p (fun x => { x with loads := [⟨s.nextId, f.r.toNat, 1, f.k.toNat, false, true⟩] }) fun r =>
      { r with size := size, dst := f.r.toNat, look := f.k.toNat }) ∧
  (∀ (f : GM),
    let size : Nat := 2 ^ f.s.toNat
    let p := ptrAdd (u.group.gr f.a.toNat) (f.i.toNat * size)
    (∀ q ∈ u.ts, ∀ x, s.thread? q = some x → x.fenceTag < 2 ^ 64) → goes (.gst e f) [f.r.toNat, f.a.toNat] p size 1 false false →
    sends (.gst e f) [f.r.toNat, f.a.toNat] p (fun x => { x with stores := x.stores ++ [(s.nextId, vaOf (relocate u.team.apx p) / 64)] }) fun r =>
      { r with acc := .store, size := size, tag := tag false, excl := true
               data := BitVec.ofNat 512 ((u.group.gr f.r.toNat).toNat % 2 ^ (8 * size)) }) ∧
  ∀ (f : GAt),
    let size := if f.o = 11#4 ∨ f.o = 12#4 then 8 else 4
    let p := u.group.gr f.a.toNat
    let rel := decide (2 ≤ f.p.toNat)
    goes (.gatom e f) [f.d.toNat, f.a.toNat, f.b.toNat] p size 2 true rel →
    sends (.gatom e f) [f.d.toNat, f.a.toNat, f.b.toNat] p (fun x => { x with stores := x.stores ++ [(s.nextId, vaOf (relocate u.team.apx p) / 64)] }) fun r =>
      { r with acc := .atomic f.o, size := size, dst := f.d.toNat, order := f.p, scope := 3#3, tag := tag rel, excl := true
               data := BitVec.ofNat 512 ((u.group.gr f.b.toNat).toNat % 2 ^ (8 * size))
               cmp := dw ((u.group.gr f.d.toNat).toNat % 2 ^ (8 * size)) })

/-! ## Uniform memory and special registers -/

/-- R340, R341, R342, R343, R75: `rdsr` reads each special register, a thread's own by the lowest thread of the issue set; `wrsr` writes
those that may be written; `setjo` sets the group's jet order and the run's; `jxfclr` clears the flags that its register names. -/
def Obligations.SpecialRegisterResult : Prop := ∀ (e : Bool) (s : State) (u : UniCtx) (x : Thread) (grid : Grid) (a : BitVec 6) (r : BitVec 6),
  let g := u.group
  let q := u.lowest
  s.thread? q = some x → s.grids.find? u.team.grid = some grid →
  (∀ n v, (n, v) ∈ ([(0, dw (g.base + q.idx)), (1, dw (u.grp * u.team.width + q.idx)), (2, dw u.grp), (3, dw u.team.teamid),
      (4, grid.lrec.gridid), (5, dw ((g.base + q.idx) / 8)), (6, dw u.core), (7, dw (s.nowAt u.core)), (8, dw g.jo),
      (9, g.jxf.zeroExtend 64), (10, g.frm.zeroExtend 64), (11, dw ((if g.daz then 2 else 0) + if g.ftz then 1 else 0)),
      (12, dw x.hzg), (13, if x.bankW = [] then dw x.hznT else BitVec.allOnes 64), (14, x.fcause), (15, x.faddr), (16, x.fpc),
      (17, u.team.tvec), (18, dw (u.team.priv u.grp 0))] : List (Nat × DWord)) ∨
      (∃ k, k < 16 ∧ n = 32 + k ∧ v =
        let b := u.team.slot k
        let bit := fun (p : Bool) => BitVec.ofBool p
        ((if b.acc || b.mat then b.tag else 0#16) ++ bit b.acc ++ bit b.mat ++ bit b.arr ++ bit b.det ++ bit b.drn ++
          BitVec.ofNat 4 b.peer ++ 0#4 ++ (match b.mode with
            | .empty => 0#3
            | .priv => 1#3
            | .pair => 2#3
            | .stash => 3#3
            | .front => 4#3
            | .shadow => 5#3) ++ 0#11 ++ BitVec.ofNat 5 b.bank ++ 0#16 : BitVec 64)) →
    r.toNat = n → UniReady s (.rdsr e a r) false [a.toNat] u →
    (n = 9 → ∀ p ∈ g.threads, p.2.flying = [] ∧ ∀ k ∈ p.2.q0 ++ p.2.q1, k.arrived = true) →
    ∃ t, exec (.rdsr e a r) s = .next t ∧ UniGoes s t (.rdsr e a r) u fun g => g.setG a.toNat v) ∧
  (let v := g.gr a.toNat
   let group := fun (f : Group → Group) => ∃ t, exec (.wrsr e a r) s = .next t ∧ UniGoes s t (.wrsr e a r) u f
   let threads := fun (f : Thread → Thread) => ∃ t, exec (.wrsr e a r) s = .next t ∧ UniPast s (s.eachThread u.ts f) t (.wrsr e a r) u
   UniReady s (.wrsr e a r) false [a.toNat] u →
   (r = 9#6 → group fun g => { g with jxf := v.truncate 40 }) ∧
   (r = 10#6 → group fun g => if (v.truncate 3 : BitVec 3).toNat ≤ 4 then { g with frm := v.truncate 3 } else g) ∧
   (r = 11#6 → group fun g => { g with ftz := v.getLsbD 0, daz := v.getLsbD 1 }) ∧
   (r = 14#6 → threads fun x => { x with fcause := (v.truncate 32 : BitVec 32).zeroExtend 64 }) ∧
   (r = 15#6 → threads fun x => { x with faddr := v }) ∧ (r = 16#6 → threads fun x => { x with fpc := v }) ∧
   (r = 17#6 → ∃ t, exec (.wrsr e a r) s = .next t ∧
     UniPast s (s.modTeam u.ctx fun t => if v.toNat % 4 = 0 then { t with tvec := v } else t) t (.wrsr e a r) u)) ∧
  (UniReady s (.setjo e a) false [] u → ∃ t, exec (.setjo e a) s = .next t ∧ UniGoes s t (.setjo e a) u (fun g => { g with jo := a.toNat }) ∧
    ∀ c r, t.run? = some (c, r) → r.jo = a.toNat) ∧
  (UniReady s (.jxfclr e a) false [a.toNat] u → ∃ t, exec (.jxfclr e a) s = .next t ∧
    UniGoes s t (.jxfclr e a) u fun g => { g with jxf := g.jxf &&& ~~~((g.gr a.toNat).truncate 40) })

/-- R345, R114: `waitn` goes on when its counter is low enough; every thread of the group then takes the horizons of the operations that
the wait orders, and keeps its later global loads behind them where their scope is cluster or wider. Above the bound the set waits. -/
def Obligations.CounterWaitResult : Prop := ∀ (e : Bool) (c : BitVec 2) (n : BitVec 8) (s : State) (u : UniCtx),
  let i : Instr := .waitn e c n
  let g := u.group
  let count := g.cnt.getD c.toNat 0
  let last := g.issued.getD c.toNat 0 - n.toNat
  let mine := fun (o : DoneOp) => decide (o.cls = c.toNat) && decide (o.n ≤ last)
  UniReady s i false [] u →
  (count ≤ n.toNat → (∀ k ∈ g.errs, ¬(k.cls = c.toNat ∧ k.seq ≤ last)) →
    ∃ t, exec i s = .next t ∧ UniGoes s t i u fun g => { g with
      done := g.done.filter fun o => !mine o
      threads := g.threads.mapVals fun _ x => { x with
        hzg := (g.done.filter mine).foldl (fun a o => max a o.w) x.hzg
        notBefore := (g.done.filter fun o => mine o && decide (2 ≤ o.scope)).foldl (fun a o => max a (o.w + delta o.scope)) x.notBefore } }) ∧
  (n.toNat < count → UniWaits i s s (.counter c.toNat n.toNat))

/-! ## Sync words and barriers of a team or cluster set -/

/-- R90, R91, R92, R115: `syncw init` sets TARGET and clears COUNT; `syncw arrive` adds to COUNT modulo TARGET, advances GEN, and enters
the group's horizon; `syncw wait` returns at once when GEN differs from the value given, taking the horizons, and else waits, counted.
R347, R348, R112, R89: at `bart` and `bars` a set that is not the last counts itself and waits; the last completes the generation: COUNT
keeps what exceeds the number, GEN advances, phase banks swap if asked, those waiting are released with the new GEN and the largest
horizon, and it goes on with them; a released set departs with what it was given. -/
def Obligations.SyncBarrierResult : Prop :=
  ((∀ (e : Bool) (f : GR) (s : State) (u : UniCtx) (cl bank off : Nat),
    let b := u.group.gr f.b.toNat
    let gen := s.bankGet cl bank (off + 8) 4
    let ready := fun (i : Instr) => UniReady s i false [f.d.toNat, f.a.toNat, f.b.toNat] u ∧
      s.bankPlace u.ctx u.team ((u.group.gr f.a.toNat).toNat % 2 ^ 32) 16 16 .word = .ok (.bank cl bank off)
    let leaves := fun (i : Instr) (s' : State) => ∃ t, exec i s = .next t ∧ UniPast s s' t i u
    let idle := ∀ q ∈ u.ts, ∀ x, s.thread? q = some x → x.arr = none
    (ready (.syncwInit e f) → (b.toNat < 2 ^ 32 →
        leaves (.syncwInit e f) (((s.bankPut cl bank off 4 b.toNat).bankPut cl bank (off + 4) 4 0).uniAnswer u f.d (dw gen))) ∧
      (2 ^ 32 ≤ b.toNat → leaves (.syncwInit e f) (s.uniAnswer u f.d (BitVec.allOnes 64)))) ∧
    (ready (.syncwArrive e f) → (∀ p ∈ u.group.threads, releaseOk (s.nowAt u.core) p.2 1 = true) →
      let s1 := s.syncAdd cl bank off (b.toNat % 2 ^ 32)
      let hz := (u.group.threads.map fun p => p.2.hzg).foldl max 0
      leaves (.syncwArrive e f)
        ((s1.modTeam u.ctx fun t => { t with hs := max t.hs hz }).uniAnswer u f.d (dw (s1.bankGet cl bank (off + 8) 4)))) ∧
    (ready (.syncwWait e f) → idle →
      (gen ≠ b.toNat % 2 ^ 32 →
        leaves (.syncwWait e f) ((s.modGroup u.ctx u.grp fun g => { g with threads := g.threads.mapVals fun _ x =>
          { x with hzg := max x.hzg u.team.hs, notBefore := max x.notBefore u.team.hw } }).uniAnswer u f.d (dw gen))) ∧
      (gen = b.toNat % 2 ^ 32 → (s.syncWaiters cl bank off).contains (u.ctx, u.grp) = false →
        UniWaits (.syncwWait e f) s ((s.bankPut cl bank (off + 12) 2 (s.bankGet cl bank (off + 12) 2 + 1)).eachThread u.ts fun x =>
          { x with arr := some (.syncw cl bank off) }) (.syncw cl bank off gen)))) ∧
  ∀ (s : State) (cl bank off n : Nat),
    let target := s.bankGet cl bank off 4
    let gen := s.bankGet cl bank (off + 8) 4
    let c := s.bankGet cl bank (off + 4) 4 + n
    let wraps := target ≠ 0 ∧ target ≤ c
    let t := s.syncAdd cl bank off n
    t = { s with teams := t.teams, banks := t.banks } ∧ t.bankGet cl bank off 4 = target ∧
    t.bankGet cl bank (off + 4) 4 = (if target = 0 then c % 2 ^ 32 else c % target) ∧
    t.bankGet cl bank (off + 8) 4 = (if target = 0 then gen else (gen + c / target) % 2 ^ 32) ∧
    (∀ a, a < bankAddr cl bank (off + 4) ∨ bankAddr cl bank (off + 14) ≤ a → t.banks.get a = s.banks.get a) ∧
    ∀ q x, s.thread? q = some x → t.thread? q =
      some (if wraps ∧ x.arr = some (.syncw cl bank off) then { x with arr := some (.released 0 0) } else x)) ∧
  (∀ (e : Bool) (f : GBar) (s : State) (u : UniCtx),
  let b := (u.group.gr f.b.toNat).toNat
  let idle := ∀ q ∈ u.ts, ∀ x, s.thread? q = some x → x.arr = none
  let free := fun (k : Nat) => ∀ q ∈ u.ts, ∀ x, s.thread? q = some x → releaseOk (s.nowAt u.core) x k = true
  let leaves := fun (i : Instr) (s' : State) => ∃ t, exec i s = .next t ∧ UniPast s s' t i u
  let adopts := fun (s : State) (hz hold : Nat) => s.eachThread u.ts fun x => { x with hzg := max x.hzg hz, notBefore := max x.notBefore hold }
  let largest := fun (qs : List ThreadRef) => (qs.filterMap fun q => (s.thread? q).map fun x => x.hzg).foldl max 0
  let frees := fun (s : State) (qs : List ThreadRef) (g hz : Nat) => s.eachThread qs fun x => { x with arr := some (.released g hz) }
  (∀ cl bank off,
    let gen := s.bankGet cl bank (off + 4) 4
    let gen1 := (gen + 1) % 2 ^ 32
    let n := s.bankGet cl bank off 4 + u.ts.length
    let put := fun (g c : Nat) => (s.bankPut cl bank off 4 c).bankPut cl bank (off + 4) 4 g
    let qs := s.arrivedBy fun a => a == .bart cl bank off gen true || a == .bart cl bank off gen false
    let swap := f.w || !(s.arrivedBy fun a => a == .bart cl bank off gen true).isEmpty
    UniReady s (.bart e f) false [f.d.toNat, f.a.toNat, f.b.toNat] u →
    s.bankPlace u.ctx u.team ((u.group.gr f.a.toNat).toNat % 2 ^ 32) 8 8 .word = .ok (.bank cl bank off) →
    (b = 0 ∨ 32768 < b → leaves (.bart e f) (s.uniAnswer u f.d (BitVec.allOnes 64))) ∧
    (0 < b → b ≤ 32768 → idle → free 1 →
      (n < b → UniWaits (.bart e f) s ((put gen n).eachThread u.ts fun x => { x with arr := some (.bart cl bank off gen f.w) }) .bart) ∧
      (b ≤ n → leaves (.bart e f)
        (((adopts (frees ((if swap then [u.ctx] else []).foldl (fun s t => s.modTeam t Team.swapPhases) (put gen1 (n - b))) qs gen1
          (largest (qs ++ u.ts))) (largest (qs ++ u.ts)) 0)).uniAnswer u f.d (dw gen1)))) ∧
    (∀ g hz, 0 < b → b ≤ 32768 → (∀ q ∈ u.ts, ∀ x, s.thread? q = some x → x.arr = some (.released g hz)) →
      leaves (.bart e f) ((adopts s hz 0).uniAnswer u f.d (dw g)))) ∧
  (let a := (u.group.gr f.a.toNat).toNat
   let set := if u.team.cset then u.team.leader else u.ctx
   let cl := u.core / 4
   let bar := (s.cluster cl).bars.getD (set * 4 + a) {}
   let n := bar.count + u.ts.length
   let gen1 := (bar.gen + 1) % 2 ^ 32
   let put := fun (v : Bar) => s.modCluster cl fun k => { k with bars := k.bars.put (set * 4 + a) v }
   let qs := s.arrivedBy fun x => x == .bars set a bar.gen
   UniReady s (.bars e f) false [f.d.toNat, f.a.toNat, f.b.toNat] u →
   (4 ≤ a ∨ b = 0 ∨ 131072 < b → leaves (.bars e f) (s.uniAnswer u f.d (BitVec.allOnes 64))) ∧
   (a < 4 → 0 < b → b ≤ 131072 → idle → free 2 →
     (n < b → UniWaits (.bars e f) s ((put ⟨bar.gen, n, bar.swap || f.w⟩).eachThread u.ts fun x =>
       { x with arr := some (.bars set a bar.gen) }) .bars) ∧
     (b ≤ n → leaves (.bars e f)
       (((adopts (frees ((if f.w || bar.swap then s.setTeams u else []).foldl (fun s t => s.modTeam t Team.swapPhases)
         (put ⟨gen1, n - b, false⟩)) qs gen1 (largest (qs ++ u.ts))) (largest (qs ++ u.ts)) (largest (qs ++ u.ts) + 2))).uniAnswer u f.d (dw gen1)))) ∧
   ∀ g hz, a < 4 → 0 < b → b ≤ 131072 → (∀ q ∈ u.ts, ∀ x, s.thread? q = some x → x.arr = some (.released g hz)) →
     leaves (.bars e f) ((adopts s hz (hz + 2)).uniAnswer u f.d (dw g))))

/-! ## Banks between teams -/

/-- R80, R81, R85, R87: `give` answers 3 for a bad operand, 1 for a slot that is not private or is being given; else it posts the give and
waits, and answers 0 when it is complete. `bmop accept`, `bwait`, `query`, `phase` and `release` answer, and change their slots, as those
rules say; a `bwait` that waits goes on waiting until the bank arrives. R62, R64, R148: `bmop stash` answers 3, 2 or 1 for operands, slot or range that do not serve; else, with the rights that it
asks for, it suspends its threads and asks the home of the first page for its check. -/
def Obligations.BankTransferResult : Prop :=
  (∀ (e : Bool) (s : State) (u : UniCtx),
  let leaves := fun (i : Instr) (s' : State) => ∃ t, exec i s = .next t ∧ UniPast s s' t i u
  let cl := u.core / 4
  let idle := ∀ q ∈ u.ts, ∀ x, s.thread? q = some x → x.arr = none
  let slotIs := fun (n : Nat) (f : Slot → Slot) => s.modTeam u.ctx fun t => t.modSlot n f
  (∀ (f : GR),
    let a := u.group.gr f.a.toNat
    let b := u.group.gr f.b.toNat
    let n := a.toNat % 16
    let g : Give := ⟨s.nextId, u.ctx, u.grp, n, (u.team.slot n).bank, b.toNat / 2 ^ 16 % 4, BitVec.ofNat 16 b.toNat, none, false, false⟩
    UniReady s (.give e f) false [f.d.toNat, f.a.toNat, f.b.toNat] u →
    (idle → (16 ≤ a.toNat ∨ 2 ^ 18 ≤ b.toNat → leaves (.give e f) (s.uniAnswer u f.d 3)) ∧
      (a.toNat < 16 → b.toNat < 2 ^ 18 →
        ((u.team.slot n).mode ≠ .priv ∨ s.giveHolds u.ctx n = true → leaves (.give e f) (s.uniAnswer u f.d 1)) ∧
        ((u.team.slot n).mode = .priv → s.giveHolds u.ctx n = false → UniWaits (.give e f) s
          ((({ s with nextId := s.nextId + 1 }.modCluster cl fun k => { k with gives := k.gives ++ [g] }).eachThread u.ts fun x =>
            { x with arr := some (.give s.nextId) }).matchGives cl) (.give s.nextId)))) ∧
    ∀ (id : Nat) (h : Give), (∀ q ∈ u.ts, ∀ x, s.thread? q = some x → x.arr = some (.give id)) →
      (s.cluster cl).gives.find? (fun h => h.id == id) = some h → h.complete = true →
      leaves (.give e f) ((s.modCluster cl fun k => { k with gives := k.gives.filter fun h => h.id != id }).uniAnswer u f.d 0)) ∧
  (∀ (f : GR),
    let a := u.group.gr f.a.toNat
    let b := u.group.gr f.b.toNat
    let q := u.team.slot (b.toNat % 16)
    (UniReady s (.bmopAccept e f) false [f.d.toNat, f.a.toNat, f.b.toNat] u →
      (2 ^ 16 ≤ a.toNat ∨ 16 ≤ b.toNat → leaves (.bmopAccept e f) (s.uniAnswer u f.d 3)) ∧
      (a.toNat < 2 ^ 16 → b.toNat < 16 →
        (q.mode ≠ .empty ∨ q.acc = true ∨ q.mat = true ∨ q.arr = true → leaves (.bmopAccept e f) (s.uniAnswer u f.d 2)) ∧
        (q.mode = .empty → q.acc = false → q.mat = false → q.arr = false →
          leaves (.bmopAccept e f) ((({ s with nextId := s.nextId + 1 }.modTeam u.ctx fun t => t.modSlot b.toNat fun q =>
            { q with acc := true, tag := BitVec.ofNat 16 a.toNat, seq := s.nextId }).matchGives cl).uniAnswer u f.d 0)))) ∧
    (UniReady s (.bmopPhase e f) false [f.d.toNat, f.a.toNat, f.b.toNat] u →
      let bad := 16 ≤ a.toNat ∨ 16 ≤ b.toNat ∨ a = b
      let other := (u.team.slot a.toNat).mode ≠ .priv ∨ (u.team.slot b.toNat).mode ≠ .priv ∨ s.giveHolds u.ctx a.toNat = true ∨
        s.giveHolds u.ctx b.toNat = true
      (bad → leaves (.bmopPhase e f) (s.uniAnswer u f.d 3)) ∧ (¬bad → other → leaves (.bmopPhase e f) (s.uniAnswer u f.d 1)) ∧
      (¬bad → ¬other → leaves (.bmopPhase e f) ((s.modTeam u.ctx fun t =>
        (t.modSlot a.toNat fun q => { q with mode := .front, peer := b.toNat }).modSlot b.toNat fun q =>
          { q with mode := .shadow, peer := a.toNat }).uniAnswer u f.d 0)))) ∧
  ∀ (f : GR2),
    let n := (u.group.gr f.a.toNat).toNat % 16
    let q := u.team.slot n
    (UniReady s (.bmopBwait e f) false [f.d.toNat, f.a.toNat] u →
      (q.arr = true → leaves (.bmopBwait e f) ((slotIs n fun q => { q with arr := false }).uniAnswer u f.d 0)) ∧
      let waits := ∃ z ∈ u.ts, ∃ x, s.thread? z = some x ∧ x.arr = some (.bwait n)
      (q.arr = false → q.acc = true ∨ q.mat = true ∨ waits →
        UniWaits (.bmopBwait e f) s (s.eachThread u.ts fun x => { x with arr := some (.bwait n) }) (.bwait n)) ∧
      (q.arr = false → q.acc = false → q.mat = false → ¬waits → leaves (.bmopBwait e f) (s.uniAnswer u f.d 1))) ∧
    (UniReady s (.bmopQuery e f) false [f.d.toNat, f.a.toNat] u → leaves (.bmopQuery e f) (s.uniAnswer u f.d q.bmap)) ∧
    (UniReady s (.bmopRelease e f) false [f.d.toNat, f.a.toNat] u →
      let no := fun (v : DWord) => leaves (.bmopRelease e f) (s.uniAnswer u f.d v)
      (s.giveHolds u.ctx n = true → no 2) ∧
      (s.giveHolds u.ctx n = false →
        (q.mode = .pair ∨ q.mode = .shadow → no 1) ∧ (q.mode = .empty → q.mat = true → no 2) ∧
        (q.mode = .empty → q.mat = false → leaves (.bmopRelease e f)
          ((slotIs n fun p => { p with acc := false, tag := 0, det := false, arr := false }).uniAnswer u f.d 0)) ∧
        (q.mode = .front → leaves (.bmopRelease e f) ((s.modTeam u.ctx fun t =>
          (t.modSlot q.peer fun p => { p with mode := .priv, peer := 0 }).modSlot n fun p => { p with mode := .priv, peer := 0 }).uniAnswer u f.d 0)) ∧
        (q.mode = .priv → s.drained u.ctx n q.bank = false → UniWaits (.bmopRelease e f) s s (.bankDrain n)) ∧
        (q.mode = .priv → s.drained u.ctx n q.bank = true → leaves (.bmopRelease e f)
          ((((s.modCluster cl fun k => { k with banks := k.banks.put q.bank ⟨none, true⟩ }).post (.bankZeroDone cl q.bank)).modTeam u.ctx
            fun t => t.modSlot n fun p => { p with mode := .empty, bank := 0, det := false }).uniAnswer u f.d 0))))) ∧
  (∀ (e : Bool) (f : GR) (s : State) (u : UniCtx),
  let a := u.group.gr f.a.toNat
  let base := u.group.gr f.b.toNat
  let len1 := u.group.gr (f.b.toNat + 1)
  let p := relocate u.team.apx base
  let len := len1.toNat % 2 ^ 18
  let n := a.toNat % 16
  let bad := 16 ≤ a.toNat ∨ base.toNat % 64 ≠ 0 ∨ len = 0 ∨ 131072 < len ∨ len % 64 ≠ 0 ∨ len1.toNat / 2 ^ 18 % 2 ^ 14 ≠ 0 ∨
    2 ^ 33 ≤ len1.toNat ∨ vaOf p / 2 ^ 47 ≠ (vaOf p + len - 1) % 2 ^ 60 / 2 ^ 47
  let busy := (u.team.slot n).mode ≠ .priv ∨ s.giveHolds u.ctx n = true
  let lies := s.stashOverlaps (u.core / 4) (vaOf p) len = true
  let wr := len1.getLsbD 32
  let no := fun (v : DWord) => ∃ t, exec (.bmopStash e f) s = .next t ∧ UniPast s (s.uniAnswer u f.d v) t (.bmopStash e f) u
  UniReady s (.bmopStash e f) true [f.d.toNat, f.a.toNat, f.b.toNat, f.b.toNat + 1] u →
  (bad → no 3) ∧ (¬bad → busy → no 2) ∧ (¬bad → ¬busy → lies → no 1) ∧
  (¬bad → ¬busy → ¬lies → locketOk u.team.keys p 0 = true → (wr = true → locketOk u.team.keys p 1 = true) →
    let r := { reqAt (reqOf s.dev.no u.team u.ctx u.core (.stashSet u.ctx u.grp (u.ts.map fun t => t.idx)) u.run.pc (ptrAdd u.run.pc 4))
      u.team p (hostForm base) with id := s.nextId, excl := wr, size := len, look := n, cmp := p, dst := f.d.toNat }
    ∃ v, exec (.bmopStash e f) s =
        .next ((v.toSlice r none).useLines u.core (uniTags (.bmopStash e f) u [f.d.toNat, f.a.toNat, f.b.toNat, f.b.toNat + 1])).dropRun ∧
      v = { s with teams := v.teams, nextId := s.nextId + 1 } ∧
      ThreadsOnly s v u.ts ∧ ∀ q ∈ u.ts, ∀ x, s.thread? q = some x →
        v.thread? q = some { x with st := .suspended, pc := u.run.pc, arr := some (.checked s.nextId) }))

/-! ## Queues, matrix words, launch -/

/-- R351, R352, R345, R47: a `qpush` that does not end its chain adds its two words to it; one that ends a command whose checks pass, and
with room, queues it: the class's counter and sequence number rise, and the engine has the command with the words pushed, its pod pointers
relocated and the key IDs that the Locket gives them; a command of the matrix unit is carried out there. `qpop` answers the oldest entry of
its queue, or 0. -/
def Obligations.QueueResult : Prop := ∀ (e : Bool) (s : State) (u : UniCtx),
  (∀ (f : GQ),
    let q := f.q.toNat
    let ws := (match u.group.chain with
      | some c => c.2
      | none => []) ++ [u.group.gr f.a.toNat, u.group.gr f.b.toNat]
    let cls := if q = 2 then 0 else if q = 3 then 2 else 3
    let up := fun (g : Group) => { g with
      chain := none, cnt := g.cnt.store 0 cls (g.cnt.getD cls 0 + 1), issued := g.issued.put cls (g.issued.getD cls 0 + 1)
      seqs := g.seqs.store 0 cls ((g.seqs.getD cls 0 + 1) % 65536) }
    let w2 := ws.getD 2 0
    let pod : Nat → Bool := fun k => if q = 2 then (k == 0 && !w2.getLsbD 34 && w2.toNat / 2 ^ 61 != 4) || (k == 1 && !w2.getLsbD 33)
      else k == 0 || (k == 1 && q == 4)
    let at_ := fun (k : Nat) => if pod k then relocate u.team.apx (ws.getD k 0) else ws.getD k 0
    let gkid := fun (k : Nat) => if pod k then locketGkid u.team.keys (at_ k) else 0#16
    UniReady s (.qpush e f) false [f.a.toNat, f.b.toNat] u → (∀ c, u.group.chain = some c → c.1 = q) →
    (f.m = true → ∃ t, exec (.qpush e f) s = .next t ∧ UniGoes s t (.qpush e f) u fun g => { g with chain := some (q, ws) }) ∧
    (f.m = false → s.cmdFault u q ws = none → s.pushWait u q = none →
      (q = 2 ∨ q = 3 ∨ q = 4 → ∃ s' t c, exec (.qpush e f) s = .next t ∧ UniPast s s' t (.qpush e f) u ∧
        s' = { (s.modGroup u.ctx u.grp up).modCluster (u.core / 4) fun k => { k with cmds := k.cmds ++ [c] } with nextId := s.nextId + 1 } ∧
        c.id = s.nextId ∧ c.cls = cls ∧ c.ctx = u.ctx ∧ c.grp = u.grp ∧ c.core = u.core ∧ c.part = u.team.part ∧ c.dom = u.team.dom ∧
        c.seq = u.group.seqs.getD cls 0 ∧ c.n = u.group.issued.getD cls 0 + 1 ∧ (∀ k, c.words.getD k 0 = at_ k) ∧
        c.sg = gkid 0 ∧ c.dg = gkid 1 ∧ c.started = false ∧ c.pos = 0 ∧ c.delivered = 0 ∧ c.err = 0 ∧ c.finished = false) ∧
      (q = 1 → ∃ t, exec (.qpush e f) s = .next t ∧
        UniPast s ((s.modGroup u.ctx u.grp fun g => { g with chain := none }).qmxPush u.ctx u.grp (ws.getD 0 0) (ws.getD 1 0)) t (.qpush e f) u))) ∧
  ∀ (d q : BitVec 6), UniReady s (.qpop e d q) false [d.toNat] u → (u.group.overflow.find? fun w => w.1 == q.toNat) = none →
    let old := u.group.queues.getD q.toNat []
    ∃ t, exec (.qpop e d q) s = .next t ∧ UniGoes s t (.qpop e d q) u fun g =>
      { g.setG d.toNat (old.headD 0) with queues := if old = [] then g.queues else g.queues.put q.toNat old.tail }

/-- R310, R317: an `mma` of an issue set of one group that every check lets pass queues one operation: counted, with the octets that the
issue set covers, its fields, its jet order and the descriptors as they stand, and an octet to be done for each. -/
def Obligations.MatrixIssueResult : Prop :=
  ∀ (e : Bool) (f : LX) (s : State) (c : Nat) (r : Run) (k n : Nat) (tm : Team) (g : Group),
  let regs := (if 16 ≤ f.a.toNat then [2 * f.a.toNat, 2 * f.a.toNat + 1] else []) ++
    (if 16 ≤ f.b.toNat ∧ f.ones = false then [2 * f.b.toNat, 2 * f.b.toNat + 1] else [])
  let octs := (List.range 8).filter fun q => r.set.any fun t => t.idx / 8 == q
  let pair := fun (a : Nat) => if a < 16 then (0, 0) else (g.gr (2 * a), g.gr (2 * a + 1))
  let o : MmaOp := { id := s.nextId, ctx := k, grp := n, octets := octs, word := (wordOf (.mma e f)).getD 0, ad := f.d.toNat
                     sa := f.a.toNat, sb := f.b.toNat, mode := f.m, jo := r.jo, da := pair f.a.toNat, db := pair f.b.toNat
                     seq := g.seqs.getD 1 0, n := g.issued.getD 1 0 + 1, doneOct := [], failed := [], told := false, pins := [] }
  LaneReady s (.mma e f) bareMod [] regs c r → r.set ≠ [] → (∀ q ∈ r.set, q.ctx = k ∧ q.grp = n) → s.team? k = some tm →
  s.group? k n = some g → mmaIllegal tm g r.jo f = false → ((f.ja || f.jb) = true → f.d.toNat % jetG r.jo = 0) →
  s.descrFault k tm g r.jo f octs = none → (∀ q ∈ r.set, ∀ x, s.thread? q = some x → x.bankW = [] ∧ x.arr ≠ some .mma) →
  g.ops < 64 → (s.core c).mq.length < 64 →
  LaneThen (.mma e f) s r (fun _ x => (x, 0#40)) fun u =>
    { (u.modGroup k n fun g => { g with
        cnt := g.cnt.store 0 1 (g.cnt.getD 1 0 + 1), issued := g.issued.put 1 (g.issued.getD 1 0 + 1)
        seqs := g.seqs.store 0 1 ((g.seqs.getD 1 0 + 1) % 65536) }).modCore c fun q => { q with mq := q.mq ++ [o] } with
      nextId := s.nextId + 1, agenda := s.agenda ++ octs.map fun q => .mmaOctetDone c s.nextId q }

/-- R324, R262: `accrd` reads, and `accwr` writes, the element of a thread's own strip and row; a thread that takes no part keeps its
register, or has it zeroed. R350, R313: `tld` fills a tile from 128 rows of a bank and gives it the descriptor's form; `tst` writes the
tile's rows there, and its writes have retired when it ends. -/
def Obligations.StripAndTileResult : Prop :=
  (∀ (m : Mod) (f : LACC) (s : State) (c : Nat) (r : Run) (q : ThreadRef) (tm : Team) (g : Group) (x : Thread),
  let strip := f.s.toNat + q.idx / 8 * jetG r.jo
  let at_ := strip * 1024 + q.idx % 8 * 128 + f.c.toNat
  let ready := fun (i : Instr) => LaneReady s i m [one f.v] [] c r ∧
    f.s.toNat + (tm.width / 8 - 1) * jetG r.jo + 1 ≤ (tm.role g).strips ∧
    (takesPart m x = true → (∀ o ∈ (s.core c).mq, o.ctx = q.ctx → o.grp = q.grp → strip ∉ o.strips) ∧
      ∀ n ∈ g.errs, n.cls = 1 → strip ∉ n.strips)
  r.set = [q] → s.team? q.ctx = some tm → s.group? q.ctx q.grp = some g → s.thread? q = some x →
  (ready (.accrd m f) → ∃ t, exec (.accrd m f) s = .next t ∧ LaneGoes s t (.accrd m f) r fun _ x =>
    ((if takesPart m x then x.setR f.v.toNat (g.strips.getD at_ 0) else if m.z then x.setR f.v.toNat 0 else x), 0#40)) ∧
  (ready (.accwr m f) → LaneThen (.accwr m f) s r (fun _ x => (x, 0#40)) fun u =>
    if takesPart m x then u.modGroup q.ctx q.grp fun g => { g with strips := g.strips.store 0 at_ (x.r f.v.toNat) } else u)) ∧
  (∀ (e : Bool) (f : GT) (s : State) (u : UniCtx) (cl bank off : Nat),
  let d0 := u.group.gr f.a.toNat
  let d1 := u.group.gr (f.a.toNat + 1)
  let form := d1.toNat / 2 ^ 20 % 2 ^ 8
  let pitch := d0.toNat / 2 ^ 32 % 2 ^ 16
  let base := d0.toNat % 2 ^ 21
  let tile := f.t.toNat
  let ready := fun (i : Instr) (use : Use) => UniReady s i false [f.a.toNat, f.a.toNat + 1] u ∧ tile < (u.team.role u.group).tiles ∧
    d0.toNat / 2 ^ 21 % 2 ^ 11 = 0 ∧ d1.toNat / 2 ^ 28 = 0 ∧ d1.toNat % 16 = 0 ∧ (form = 0 ∨ form = 0x10 ∨ form = 0x11 ∨ form = 0x12) ∧
    base % 64 = 0 ∧ pitch % 64 = 0 ∧ s.bankPlace u.ctx u.team base 1 1 use = .ok (.bank cl bank off) ∧ off + 127 * pitch + 128 ≤ 131072 ∧
    ∀ q ∈ u.ts, ∀ x, s.thread? q = some x → (∀ l ∈ x.loads, l.acq = false) ∧ NoOwnWrite s x cl bank off (127 * pitch + 128)
  (ready (.tld e f) .engine → (∀ o ∈ (s.core u.core).mq, o.ctx = u.ctx → o.grp = u.grp → o.reading = true → s.mmaReads o tile = false) →
    ∃ t b, exec (.tld e f) s = .next t ∧
      (UniGoes s t (.tld e f) u fun g => { g with tiles := b, forms := g.forms.store 0 tile (BitVec.ofNat 8 form) }) ∧
      (∀ i < 128, ∀ j < 128, b.getD (tile * 16384 + i * 128 + j) 0 = s.banks.get (bankAddr cl bank (off + i * pitch + j))) ∧
      ∀ a, a < tile * 16384 ∨ tile * 16384 + 16384 ≤ a → b.getD a 0 = u.group.tiles.getD a 0) ∧
  (ready (.tst e f) .tile →
    let row := fun (i : Nat) => (List.range 128).map fun j => u.group.tiles.getD (tile * 16384 + i * 128 + j) 0
    let s' := { (s.eachThread u.ts fun x => { x with hznT := max x.hznT (s.nowAt u.core) }) with
      banks := (List.range 128).foldl (fun m i => m.write (bankAddr cl bank (off + i * pitch)) (row i)) s.banks }
    ∃ t, exec (.tst e f) s = .next t ∧ UniPast s s' t (.tst e f) u))

/-- R184, R185, R170: `launch` answers 3 for operands that break its rules; its record read and its group released at device scope, 2 for
a queue that does not take it, 1 for a full one, and 0 when the entry of 512 bytes, the record and the team's keys, stands in the ring and
LQWP has advanced.
The order of the checks is the model's reading (log entry 38). -/
def Obligations.LaunchResult : Prop := ∀ (e : Bool) (f : GR) (s : State) (u : UniCtx) (cl bank off : Nat),
  let a := (u.group.gr f.a.toNat).toNat
  let b := (u.group.gr f.b.toNat).toNat
  let p := s.part u.team.part
  let q := p.queue b
  let gives := fun (s' : State) (v : DWord) => ∃ t, exec (.launch e f) s = .next t ∧
    UniPast s (s'.modGroup u.ctx u.grp fun g => g.setG f.d.toNat v) t (.launch e f) u
  let bad := 16 ≤ b ∨ a % 64 ≠ 0
  let takes := q.en = true ∧ q.dev = true ∧ q.err = false ∧ p.dom b = u.team.dom
  let bytes := s.banks.read (bankAddr cl bank off) 256 ++ ((List.range 16).flatMap fun k => toBytes 4 (u.team.keys.getD k 0).toNat) ++
    List.replicate 192 0
  UniReady s (.launch e f) false [f.d.toNat, f.a.toNat, f.b.toNat] u →
  (bad → (∀ n, (u.team.slot n).mode ≠ .stash) → gives s 3) ∧
  (¬bad → a / 2 ^ 27 % 2 = 0 → a % 2 ^ 17 + 192 < 2 ^ 17 → s.bankPlace u.ctx u.team (a % 2 ^ 32) 256 64 .load = .ok (.bank cl bank off) →
    (∀ x ∈ u.ts, ∀ y, s.thread? x = some y → (∀ l ∈ y.loads, l.acq = false) ∧ NoOwnWrite s y cl bank off 256) →
    (∀ x ∈ u.group.threads, releaseOk (s.nowAt u.core) x.2 3 = true) →
    (¬takes → gives s 2) ∧ (takes → (q.wp + 1) % 2 ^ (min 11 q.logn + 4) = q.rp → gives s 1) ∧
    (takes → (q.wp + 1) % 2 ^ (min 11 q.logn + 4) ≠ q.rp → ∀ s1, s.append u.team.part b bytes = .ok s1 → gives s1 0))

/-! ## Runs, fills and replies -/

/-- R143, R144, R61, R154, R55: a free place takes a run of the threads gathered with the first candidate, while no fetch is under way;
the fills of the instruction cache, the register cache and the lane store bring in what was asked for, a line without a lease for the start
that it was fetched for; a bound set stalled for 64 cycles gives up its place; a retry is made again while it is waited for.
Which threads are gathered together is in part the model's reading (log entries 23, 29). -/
def Obligations.RunEventResult : Prop :=
  (∀ (core : Nat) (s : State) (t0 : Cand) (t : Team) (ws : List Word),
    let s0 := s.wakeParked core
    let cs := s0.cands core
    let set := gather cs t0 (ws.any isUniform)
    core < 384 → (s0.picks core cs = none → Does (.runStart core) s s0) ∧
    ((s0.core core).runs.length < 8 → (s0.core core).fetching = [] → s0.outstanding core < 2048 → (s0.core core).once = [] →
      s0.picks core cs = firstCand s0.cycle cs) ∧
    (s0.picks core cs = some t0 → s0.team? t0.ref.ctx = some t → t0.pc.toNat % 4 = 0 →
      s0.fetchRun ⟨core, t0.ref.ctx, t, t0.pc⟩ 24 t0.pc [] = .words ws →
      ∃ u, Does (.runStart core) s u ∧
        (u.core core).runs = (s0.core core).runs ++ [⟨s.nextId, ws.any isUniform, t0.pc, ws, set, 0, t0.jo, none⟩] ∧
        u = { s with teams := u.teams, cores := u.cores, nextId := s.nextId + 1 } ∧
        ∀ q x, s0.thread? q = some x → u.thread? q = some (if q ∈ set then { x with st := .running } else x))) ∧
  (∀ (s : State) (core : Nat) (q : ThreadRef) (x : Thread) (r : Req), r.client = .fetch core q → s.thread? q = some x →
    let k := s.core core
    let rest := k.fetching.filter fun f => f.id != r.id
    let line := r.va.toNat / 64
    let new : Nat → Grant → CLine := fun lend g => ⟨line, r.gkid, lend, 0, g.data, g.tag⟩
    let comes := fun (res : FillRes) (k : Core) => ∃ t, Does (.icacheFill r res) s t ∧ s.coresOnly t ∧ ThreadsOnly s t [q] ∧
      t.thread? q = some (if x.st = .suspended then { x with st := .ready, since := s.cycle } else x) ∧
      t.core core = k ∧ ∀ n, n ≠ core → t.core n = s.core n
    (k.fetching.any fun f => f.id == r.id) = true →
    (∀ g lend, 0 < lend → comes (.filled g lend) { k with fetching := rest, icache := icachePut k.icache (new lend g) }) ∧
    (∀ g, comes (.filled g 0) { k with fetching := rest, once := k.once ++ [(r.ctx.toNat, r.next, new 0 g)] }) ∧
    comes .region { k with fetching := rest, refused := k.refused ++ [(line, r.gkid, r.dom, 256)] } ∧
    (∀ c, comes (.denied c) { k with fetching := rest, refused := k.refused ++ [(line, r.gkid, r.dom, c.toNat)] }) ∧
    TurnsThread (.icacheFill r .held) s q (if x.st = .ready then { x with st := .suspended } else x)) ∧
  (∀ (s : State) (core rid : Nat) (r : Run) (c : Stall) (began : Nat), (s.core core).runs.find? (fun r => r.rid == rid) = some r →
    r.stall = some (c, began) → s.stallOk core r.set c = false → began + 64 ≤ s.cycle →
    ∃ t, Does (.boundStallExpiry core rid) s t ∧ s.coresOnly t ∧ ThreadsOnly s t r.set ∧
      t.core core = { s.core core with runs := (s.core core).runs.filter fun q => q.rid != rid } ∧
      ∀ q ∈ r.set, ∀ x, s.thread? q = some x → t.thread? q = some { x with st := .parked c true, pc := r.pc }) ∧
  (∀ (s : State) (core : Nat) (a : RcTag), core < 384 → (s.core core).rcAsked.contains a = true → (s.core core).rc.length < 16384 →
    TurnsCore (.registerCacheFill core a) s core
      { s.core core with rcAsked := (s.core core).rcAsked.erase a, rc := a :: (s.core core).rc.filter fun x => x != a }) ∧
  (∀ (s : State) (r : Req) (q : ThreadRef) (g : Group) (a : ThreadRef × Nat × Nat) (data : Line), r.client = .lane q →
    s.group? q.ctx q.grp = some g →
    let k := s.core r.core
    let line := a.2.1
    let same := fun (l : Nat) => ((k.lanes.filter fun y => !(y.owner == q && y.line == line)).filter fun y =>
      y.lane == l && y.line % 16 == line % 16).length < 4
    List.find? (fun (a : ThreadRef × Nat × Nat) => a.1 == q && a.2.2 == r.id) k.laneAsked = some a →
    (k.laneLine q line = none → same (g.lane q.idx) → TurnsCore (.laneStoreFill r data) s r.core
      { k with laneAsked := k.laneAsked.erase a, lanes := ⟨g.lane q.idx, q, line, 0, data, BitVec.allOnes 64⟩ :: k.lanes }) ∧
    ∀ y, k.laneLine q line = some y → same y.lane → ∃ d, TurnsCore (.laneStoreFill r data) s r.core
        { k with
          laneAsked := k.laneAsked.erase a
          lanes := { y with data := d, valid := BitVec.allOnes 64 } :: k.lanes.filter fun y => !(y.owner == q && y.line == line) } ∧
      ∀ i < 64, lineGet d i 1 = if y.valid.getLsbD i then lineGet y.data i 1 else lineGet data i 1) ∧
  ∀ (s : State) (r : Req) (q : ThreadRef), r.client = .thread q →
    (s.awaited r = false → Idle (.retryReissue r) s) ∧
    (s.awaited r = true → r.direct = false → Does (.retryReissue r) s (s.toSlice r none))

/-- R100, R101, R105, R148, R149, R150, R285: replies to global requests. A verdict that passes lets the suspended thread of a load or
store go on; one that fails makes it take the page fault; data, acceptances and atomic results enter the registers, horizons and lists. -/
def Obligations.ReplyResult : Prop := ∀ (s : State) (r : Req) (q : ThreadRef) (tm : Team) (g : Group) (x : Thread),
  r.client = .thread q → s.thread? q = some x →
  let waits := x.st = .suspended ∧ x.pc = r.pc ∧
    (x.arr = some (.checked r.id) ∨ (∃ l ∈ x.loads, l.id = r.id) ∨ ∃ p ∈ x.stores, p.1 = r.id)
  let rest := { x with loads := x.loads.filter fun l => l.id != r.id, stores := x.stores.filter fun p => p.1 != r.id }
  let δ := if r.scope.toNat ≤ 3 then 2 else if r.scope.toNat = 4 then 16 else 64
  let acquires := fun (x : Thread) (tag : Nat) => { x with
    hzg := max x.hzg tag, notBefore := if r.scope.toNat ≤ 1 then x.notBefore else max x.notBefore (tag + δ) }
  (waits → (r.acc = .load ∨ r.acc = .store) → TurnsThread (.verdictArrival r .pass) s q { x with st := .ready, pc := r.next, since := s.cycle }) ∧
  (waits → CanTrap s q tm g x → ∃ t, Does (.verdictArrival r .region) s t ∧ Trapped s t q tm g rest 0x05 0 (reqEa r) r.pc r.pc) ∧
  (∀ c, waits → CanTrap s q tm g x → ∃ t, Does (.verdictArrival r (.cancelled c)) s t ∧
    Trapped s t q tm g rest 0x06 c.toNat (reqEa r) r.pc r.pc) ∧
  (∀ (d : Grant) (lend ver : Nat) (l : Lookahead), x.loads.find? (fun l => l.id == r.id) = some l → l.uniform = false →
    let y := { x.setRs l.dst l.n (loaded r.szc (lineGet d.data (r.va.toNat % 64) r.size)) with
      loads := x.loads.filter fun l => l.id != r.id, loadTag := max x.loadTag d.tag.toNat }
    TurnsThread (.loadDataArrival r d lend ver) s q (if l.acq then acquires y d.tag.toNat else y)) ∧
  (∀ w, (∃ p ∈ x.stores, p.1 = r.id) → TurnsThread (.storeReply r w) s q
    { x with hzg := max x.hzg w, stores := x.stores.filter fun p => p.1 != r.id }) ∧
  ∀ (old : BitVec 128) (w : Nat) (tag : DWord), waits →
    let y := { x.setRs r.dst (r.size / 4) old.toNat with
      hzg := max x.hzg w, stores := x.stores.filter fun p => p.1 != r.id, st := .ready, pc := r.next, since := s.cycle
      loadTag := max x.loadTag tag.toNat }
    TurnsThread (.atomicResultArrival r old w tag) s q (if r.order.toNat % 2 = 1 then acquires y tag.toNat else y)

/-! ## Slices -/

/-- R57, R58, R119, R121, R126, R134, R148: the request of a thread at its slice. A load is served under a lease as far as the page's
class gives one; a store or atomic is performed where the slice owns the line exclusively, and asks for ownership where it holds it
otherwise; what the slice does not hold goes to the home. A permit goes back, or lets a request that was held enter. R123, R125, R127,
R128, R129: what homes send to slices. An invalidation drops the line from the die and carries the largest lease end back; a snoop that
shares leaves the owner in O, one that takes the line drops it, and a line that is no longer owned is answered as in flight; a grant makes
the slice the owner, where the waiting store is performed; an acknowledged write-back leaves the buffer; a recall drops near copies.
That an invalidation reaches every slice of the die, and which line makes room, are the model's (log entry 22). -/
def Obligations.SliceResult : Prop :=
  (∀ (s : State) (r : Req) (q : ThreadRef),
  r.client = .thread q → r.dev = s.dev.no →
  let n := s.sliceFor r.part r.die r.va.toNat
  let line := r.va.toNat / 64
  let k := s.core r.core
  let back := match k.heldReqs.find? (fun h => h.1 == n) with
    | some h => (s.modCore r.core fun k => { k with heldReqs := k.heldReqs.erase h }).post (match h.2.2 with
        | some v => .sliceRenewal h.2.1 v
        | none => .sliceRequest h.2.1)
    | none => s.modCore r.core fun k => { k with permits := k.permits.store 0 n (k.permits.getD n 0 - 1) }
  let hit := fun (x : SliceLine) => (s.slice n).lines.find? line = some x ∧ x.gkid = r.gkid ∧ r.own = false
  let home := fun (r : Req) (t : State) =>
    (s.regionSt r.die r.va.toNat ≠ 1 → t = back.post (.verdictArrival r .region)) ∧
    (s.regionSt r.die r.va.toNat = 1 → (s.homeOf r.die r.va.toNat).1 = s.dev.no →
      t = back.post (.homeRequest (s.homeOf r.die r.va.toNat).2 r))
  let lease := fun (x : SliceLine) => if x.lc = 0#2 then 0 else s.nowOn (n / 32) + leaseNs x.lc.toNat
  let entry := fun (s t : State) (y : SliceLine) => (t.slice n).lines.find? line = some y ∧
    ∀ a b, ¬(a = n ∧ b = line) → (t.slice a).lines.find? b = (s.slice a).lines.find? b
  ((s.slice n).lines.find? line = none → ∃ t, Does (.sliceRequest r) s t ∧ home r t) ∧
  (∀ x, hit x → r.acc = .load → r.excl = false → (x.st = .S ∨ x.st = .E ∨ x.st = .M ∨ x.st = .O) →
    ∃ t, Does (.sliceRequest r) s t ∧
      t = { back with slices := t.slices, pairs := t.pairs, agenda := back.agenda ++ [.verdictArrival r .pass,
        .loadDataArrival r ⟨x.data, x.fd, x.fr, x.wl, x.tag, x.lc, x.gkid, false⟩ (lease x) x.ver] } ∧
      entry s t (if x.lc = 0#2 then x else { x with lmax := max x.lmax (lease x) }) ∧
      t.pair (r.core / 2) = if x.lc = 0#2 then s.pair (r.core / 2)
        else pairPut (s.pair (r.core / 2)) ⟨line, x.gkid, lease x, x.ver, x.data, x.tag⟩) ∧
  (∀ x, hit x → r.acc = .store → (x.st = .E ∨ x.st = .M) →
    let w := max (max x.wl (s.nowOn (n / 32))) (max (x.fd + 2) (max (x.fr + 16) (x.lmax + 2)))
    let y := { x with
      st := .M, data := linePut x.data (r.va.toNat % 64) r.size (r.data.toNat % 2 ^ (8 * r.size)), wl := w
      tag := if x.tag < r.tag then r.tag else x.tag, ver := s.nextId }
    ∃ t, Does (.sliceRequest r) s t ∧ entry s t y ∧
      t = { back with slices := t.slices, pairs := t.pairs, nextId := s.nextId + 1
                      agenda := back.agenda ++ [.verdictArrival r .pass, .storeReply r w] }) ∧
  (∀ x op, hit x → r.acc = .atomic op → (x.st = .E ∨ x.st = .M) →
    let w := max (max x.wl (s.nowOn (n / 32))) (max (x.fd + 2) (max (x.fr + 16) (x.lmax + 2)))
    let old := lineGet x.data (r.va.toNat % 64) r.size
    let tag := if x.tag < r.tag then r.tag else x.tag
    let y := { x with
      st := .M, data := linePut x.data (r.va.toNat % 64) r.size (atomFn op old r.data.toNat r.cmp.toNat), wl := w, tag := tag, ver := s.nextId }
    ∃ t, Does (.sliceRequest r) s t ∧ entry s t y ∧
      t = { back with slices := t.slices, pairs := t.pairs, nextId := s.nextId + 1
                      agenda := back.agenda ++ [.verdictArrival r .pass, .atomicResultArrival r (BitVec.ofNat 128 old) w tag] }) ∧
  (∀ x, hit x → (r.acc = .store ∨ ∃ op, r.acc = .atomic op) → (x.st = .S ∨ x.st = .O) →
    ∃ t, Does (.sliceRequest r) s t ∧ home { r with upg := true } t) ∧
  ∀ (x : SliceLine) (y : CLine), hit x → (s.pair (r.core / 2)).find? (fun y => decide (y.line = line) && y.gkid == r.gkid) = some y →
    (x.st = .S ∨ x.st = .E ∨ x.st = .M ∨ x.st = .O) → y.ver = x.ver → x.lc ≠ 0#2 →
    ∃ t, Does (.sliceRenewal r x.ver) s t ∧ entry s t { x with lmax := max x.lmax (lease x) } ∧
      t = { back with slices := t.slices, pairs := t.pairs, agenda := back.agenda ++ [.verdictArrival r .pass,
        .loadDataArrival r ⟨y.data, 0, 0, 0, y.tag, 0, y.gkid, false⟩ (lease x) x.ver] } ∧
      t.pair (r.core / 2) = { y with lend := lease x } :: (s.pair (r.core / 2)).erase y) ∧
  (∀ (s : State) (home die : Nat) (va : VAddr),
  let line := va.toNat / 64
  let near := fun (t : State) => t = { s with slices := t.slices, teams := t.teams, agenda := t.agenda }
  (∃ t, Does (.invalidation home die va) s t ∧ near t ∧
    t.agenda = s.agenda ++ [.invalidationAck home die va
      (((s.holders die line).filterMap fun n => ((s.slice n).lines.find? line).map fun x => x.lmax).foldl max 0)] ∧
    (∀ n, n / 32 = die → (t.slice n).lines.find? line = none) ∧
    ∀ n l, ¬(n / 32 = die ∧ l = line) → (t.slice n).lines.find? l = (s.slice n).lines.find? l) ∧
  (s.ownerSlice die line = none → ∀ excl, Does (.forwardedSnoop home die va excl) s (s.post (.snoopResponse home die va .inFlight))) ∧
  (∀ n x, s.ownerSlice die line = some (n, x) → (x.st = .E ∨ x.st = .M ∨ x.st = .O) →
    (∃ t, Does (.forwardedSnoop home die va false) s t ∧ near t ∧ t.teams = s.teams ∧
      t.agenda = s.agenda ++ [.snoopResponse home die va (.data ⟨x.data, x.lmax, x.wl, x.tag, x.info.dirty⟩)] ∧
      (t.slice n).lines.find? line = some { x with st := .O } ∧
      ∀ a l, ¬(a = n ∧ l = line) → (t.slice a).lines.find? l = (s.slice a).lines.find? l) ∧
    ∃ t m, Does (.forwardedSnoop home die va true) s t ∧ near t ∧ x.lmax ≤ m ∧
      t.agenda = s.agenda ++ [.snoopResponse home die va (.data ⟨x.data, m, x.wl, x.tag, x.info.dirty⟩)] ∧
      (∀ a, a / 32 = die → (t.slice a).lines.find? line = none) ∧
      ∀ a l, ¬(a / 32 = die ∧ l = line) → (t.slice a).lines.find? l = (s.slice a).lines.find? l) ∧
  (∃ t, Does (.writeBackAck die va) s t ∧ t = { s with slices := t.slices } ∧
    ∀ n, (t.slice n).lines = (s.slice n).lines ∧
      (n / 32 = die → ∀ w, (s.slice n).wb.find? (fun w => w.1 == line) = some w → (t.slice n).wb = (s.slice n).wb.erase w) ∧
      (n / 32 ≠ die → (t.slice n).wb = (s.slice n).wb)) ∧
  (∀ (r : Req) (q : ThreadRef) (g : Grant), r.client = .thread q → r.dev = s.dev.no → r.acc = .store →
    let n := s.sliceFor r.part r.die r.va.toNat
    let l := r.va.toNat / 64
    s.holders r.die l = [] → ((s.slice n).lines.filter fun p => p.1 % 2048 == l % 2048).length < 16 →
    let w := max (max g.wl (s.nowOn (n / 32))) (max (g.fd + 2) (max (g.fr + 16) 2))
    ∃ t y, Does (.ownershipGrant r g) s t ∧ (t.slice n).lines.find? l = some y ∧ y.st = .M ∧ y.wl = w ∧ y.gkid = g.gkid ∧ y.lmax = 0 ∧
      y.data = linePut g.data (r.va.toNat % 64) r.size (r.data.toNat % 2 ^ (8 * r.size)) ∧ y.tag = (if g.tag < r.tag then r.tag else g.tag) ∧
      t = { s with slices := t.slices, pairs := t.pairs, nextId := s.nextId + 2, agenda := s.agenda ++ [.storeReply r w] }) ∧
  (∀ p, ∃ t, Does (.recallDrop (.pairCache p) va) s t ∧ t = { s with pairs := t.pairs } ∧
    t.pair p = (s.pair p).filter (fun x => x.line != line) ∧ ∀ k, k ≠ p → t.pair k = s.pair k) ∧
  ∀ c, TurnsCore (.recallDrop (.icache c) va) s c { s.core c with
    icache := (s.core c).icache.filter (fun x => x.line != line), once := (s.core c).once.filter fun o => o.2.2.line != line })

/-! ## Homes -/

/-- R27 to R31: a request at its home waits while its page switches or is recalled; it passes its checks and meets the directory, and its
requester is told; or it is held under a token, a new one with a record for the fault queue, or, with no room, is made again later. R119,
R122 to R126, R128, R129: the directory, for a line in no transient state that no request waits for. A read shared makes its die a sharer;
a read exclusive makes it the owner, once other sharers have been invalidated or the owner has been snooped; an upgrade makes a holder the
only one; a direct store is performed at the home; a read by another device leaves its lease end in the entry.
That a request without room is made again 4,096 ticks later is the model's choice (log entry 21). -/
def Obligations.HomeDirectoryResult : Prop :=
  (∀ (s : State) (home : Nat) (r : Req) (q : ThreadRef),
  home < 192 → r.client = .thread q → r.dev = s.dev.no → r.own = false → r.direct = false →
  let h := s.home home
  let vpn := r.va.toNat / 65536
  let page := fun (t : State) (k : Home) => t = { s with homes := t.homes, parts := t.parts, agenda := t.agenda, due := t.due } ∧
    t.home home = k ∧ ∀ n, n ≠ home → t.home n = s.home n
  let writes := decide (r.acc ≠ .load ∧ r.acc ≠ .fetch) || r.excl
  let late := Does (.homeRequest home r) s { s with due := s.due ++ [(s.clock + 4096, .retryReissue r)] }
  (s.holdsPage home vpn r = true → ∃ t, Does (.homeRequest home r) s t ∧ page t { h with heldReqs := h.heldReqs ++ [r] } ∧ t.agenda = s.agenda) ∧
  (s.holdsPage home vpn r = false → s.check home vpn r.dom.toNat r.gkid writes = none →
    ∃ t, Does (.homeRequest home r) s t ∧ page t { h with tcache := (t.home home).tcache } ∧
      t.agenda = s.agenda ++ [.verdictArrival r .pass,
        if !writes then .homeReadShared home r else if r.upg then .homeUpgrade home r else .homeReadExclusive home r]) ∧
  ∀ c w0, s.holdsPage home vpn r = false → s.check home vpn r.dom.toNat r.gkid writes = some (c, w0) →
    (4096 ≤ (h.tokens.map fun t => t.2.held.length).sum → late) ∧
    ((h.tokens.map fun t => t.2.held.length).sum < 4096 →
      (∀ k t, List.find? (fun (t : Nat × Token) => t.2.vpn == vpn && t.2.dom == r.dom) h.tokens = some (k, t) →
        ∃ u, Does (.homeRequest home r) s u ∧ page u { h with tokens := h.tokens.put k { t with held := t.held ++ [(r, c)] } } ∧
          u.agenda = s.agenda ∧ u.parts = s.parts) ∧
      (List.find? (fun (t : Nat × Token) => t.2.vpn == vpn && t.2.dom == r.dom) h.tokens = none →
        ((List.range 1024).find? (fun k => (h.tokens.find? k).isNone) = none → late) ∧
        ∀ k, (List.range 1024).find? (fun k => (h.tokens.find? k).isNone) = some k →
        let gen := h.gens.getD k 0
        let rec_ := faultRecord w0 r.core r.dev r.gkid r.dom ((match r.acc with
            | .store => 1
            | .atomic _ => 2
            | .fetch => 4
            | .load => if r.excl then 1 else 0) + if r.reloc then 16 else 0) c.toNat (s.dev.no * 256 + home) r.ctx.toNat
          (gen * 1024 + k) (s.nowHome home) r.pc (reqEa r)
        ∃ u, Does (.homeRequest home r) s u ∧ page u { h with tokens := h.tokens.put k ⟨gen, vpn, r.dom, r.part, r.dev, [(r, c)]⟩ } ∧
          .faultRecordWrite r.part ∈ u.agenda ∧
          (u.part r.part) = { s.part r.part with fq := { (s.part r.part).fq with waiting := (s.part r.part).fq.waiting ++ [rec_] } }))) ∧
  (∀ (s : State) (home : Nat) (r : Req) (q : ThreadRef) (m : Nat),
  home < 192 → r.dev = s.dev.no → r.die < 4 →
  let h := s.home home
  let loc := r.direct = false ∧ r.client = .thread q
  let line := r.va.toNat / 64
  let e := h.entry line
  let n := s.sliceFor r.part r.die r.va.toNat
  let die := BitVec.ofNat 5 (2 ^ r.die)
  let g : Grant := ⟨s.memLine home line, e.fd, e.fr, e.wl, e.tag, (s.pageInfo home line).1, (s.pageInfo home line).2, false⟩
  let puts := fun (t : State) (e : DirEntry) => t.home home = { h with dir := h.dir.put line e, turn := r.part } ∧ ∀ k, k ≠ home → t.home k = s.home k
  let quiet := (e.st = .I ∨ e.st = .S ∨ e.st = .X ∨ e.st = .OS) ∧ e.held = [] ∧ h.poison.contains line = false
  let grants := fun (i : Instr) (r : Req) => ∃ t, Does i s t ∧ puts t { e with st := .X, sharers := 0, owner := some (.die r.die), pend := none } ∧
    t = { s with homes := t.homes, agenda := s.agenda ++ [.ownershipGrant r g] }
  let excl := { r with excl := true, upg := false }
  quiet →
  (loc → e.owner = none → r.acc = .load → r.excl = false → (s.slice n).lines.find? line = none →
    ((s.slice n).lines.filter fun p => p.1 % 2048 == line % 2048).length < 16 →
    let lend := if g.lc = 0#2 then 0 else s.nowOn (n / 32) + leaseNs g.lc.toNat
    ∃ t, Does (.homeReadShared home r) s t ∧ puts t { e with st := .S, pend := none, sharers := e.sharers ||| die } ∧
      t = { s with homes := t.homes, slices := t.slices, pairs := t.pairs, nextId := s.nextId + 1
                   agenda := s.agenda ++ [.loadDataArrival r g lend s.nextId] } ∧
      (t.slice n).lines.find? line = some ⟨.S, g.gkid, g.lc, g.data, lend, g.wl, g.tag, g.fd, g.fr, s.nextId⟩) ∧
  (loc → e.owner = none → (r.acc = .store ∨ ∃ op, r.acc = .atomic op) → e.sharers.getLsbD 4 = false →
    let others := e.sharers &&& ~~~die &&& 15#5
    (others = 0 → grants (.homeReadExclusive home r) excl) ∧
    (others ≠ 0 → ∃ t, Does (.homeReadExclusive home r) s t ∧ puts t { e with st := .IXA, acks := others, pend := some excl } ∧
      t = { s with homes := t.homes, agenda := s.agenda ++ (((List.range 4).filter others.getLsbD).map fun d =>
        .invalidation home d (BitVec.ofNat 60 (64 * line))) })) ∧
  (loc → (r.acc = .store ∨ ∃ op, r.acc = .atomic op) → e.owner = some (.die m) → m < 4 →
    e.sharers &&& ~~~die &&& ~~~(BitVec.ofNat 5 (2 ^ m)) &&& 15#5 = 0#5 → e.sharers.getLsbD 4 = false →
    (∃ t, Does (.homeReadExclusive home r) s t ∧ puts t { e with st := .XF, pend := some excl } ∧
      t = { s with homes := t.homes, agenda := s.agenda ++ [.forwardedSnoop home m (BitVec.ofNat 60 (64 * line)) true] }) ∧
    (m = r.die → (∃ x, (s.slice n).lines.find? line = some x ∧ x.owns = true) →
      grants (.homeUpgrade home r) { r with excl := true, upg := true })) ∧
  (∀ (id : Nat) (w0 w1 : DWord), r.client = .agent id → r.direct = true → r.acc = .store → e.owner = none → e.sharers = 0 →
    h.mapped = true → h.tcache.find? (line / 1024) = some (w0, w1) → pTier w0 = 0 → (∀ b ∈ h.wbbuf, b.1 ≠ line) →
    let w := max (max e.wl (s.nowHome home)) (max (e.fd + 2) (max (max e.fr e.rl + 16) 2))
    ∃ t, Does (.homeDirectRequest home r) s t ∧
      (t.home home).entry line = { e with st := .I, sharers := 0, owner := none, wl := w, tag := if e.tag < r.tag then r.tag else e.tag, pend := none } ∧
      t.memLine home line = linePut g.data (r.va.toNat % 64) r.size (r.data.toNat % 2 ^ (8 * r.size)) ∧
      t = { s with homes := t.homes, hbm := t.hbm, pairs := t.pairs, agenda := s.agenda ++ [.storeReply r w] }) ∧
  (∀ (dev : Nat), dev ≠ s.dev.no → loc → r.acc = .load → r.excl = false → e.owner = none →
    let far := { r with dev := dev }
    let lend := s.nowHome home + leaseNs g.lc.toNat
    let s' := s.modHome home fun k => { k with turn := r.part, dir := k.dir.put line { e with
      st := if e.sharers = 0 then .I else .S, pend := none, rl := max e.rl lend, fr := max e.fr (max e.rl lend) } }
    Does (.remoteLeaseGrant home far) s (s'.toDevice dev r.va.toNat (.lease far g lend))))

/-- R123, R125, R127, R129: answers that reach a home. An acknowledgement that is not the last takes its die out of the sharers and its
Lmax into the floor; the last lets the waiting request be granted. An owner's data lets a waiting read be served, and a line in flight is
waited for; a write-back is acknowledged and enters memory; a clean drop takes its die out of the sharers,
unless another slice of the die holds the line. -/
def Obligations.HomeAnswerResult : Prop := ∀ (s : State) (home die : Nat) (va : VAddr) (r : Req) (q : ThreadRef),
  home < 192 → die < 4 →
  let h := s.home home
  let line := va.toNat / 64
  let e := h.entry line
  let bit := BitVec.ofNat 5 (2 ^ die)
  let entry := fun (t : State) (e : DirEntry) => (t.home home).entry line = e ∧ ∀ k, k ≠ home → t.home k = s.home k
  let homes := fun (t : State) => t = { s with homes := t.homes, agenda := t.agenda }
  (∀ lmax, e.st = .IXA → e.acks &&& ~~~bit ≠ 0 → ∃ t, Does (.invalidationAck home die va lmax) s t ∧ homes t ∧ t.agenda = s.agenda ∧
    entry t { e with fd := max e.fd lmax, acks := e.acks &&& ~~~bit, sharers := e.sharers &&& ~~~bit }) ∧
  (∀ lmax, e.st = .IXA → e.acks &&& ~~~bit = 0 → e.pend = some r → e.owner = none → e.held = [] → h.poison.contains line = false →
    e.sharers &&& ~~~bit &&& ~~~(BitVec.ofNat 5 (2 ^ r.die)) = 0 → r.client = .thread q → r.direct = false → r.dev = s.dev.no → r.die < 4 → r.va.toNat / 64 = line →
    (r.acc = .store ∨ ∃ op, r.acc = .atomic op) → ∃ t g, Does (.invalidationAck home die va lmax) s t ∧ homes t ∧
      g.fd = max e.fd lmax ∧ t.agenda = s.agenda ++ [.ownershipGrant r g] ∧
      entry t { e with st := .X, sharers := 0, owner := some (.die r.die), pend := none, fd := max e.fd lmax, acks := 0, wbSeen := false }) ∧
  (e.st = .XF → e.wbSeen = false → ∃ t, Does (.snoopResponse home die va .inFlight) s t ∧ homes t ∧ t.agenda = s.agenda ∧
    entry t { e with st := .XW }) ∧
  (∀ i : LineInfo, e.st = .XF → e.pend = some r → e.held = [] → r.client = .thread q → r.direct = false → r.dev = s.dev.no → r.die < 4 → r.acc = .load →
    r.excl = false → r.va.toNat / 64 = line →
    let n := s.sliceFor r.part r.die r.va.toNat
    (s.slice n).lines.find? line = none → ((s.slice n).lines.filter fun p => p.1 % 2048 == line % 2048).length < 16 →
    ∃ t g lend, Does (.snoopResponse home die va (.data i)) s t ∧ g.data = i.data ∧
      t = { s with homes := t.homes, slices := t.slices, pairs := t.pairs, nextId := s.nextId + 1
                   agenda := s.agenda ++ [.loadDataArrival r g lend s.nextId] } ∧
      entry t { e with st := .OS, tag := if e.tag < i.tag then i.tag else e.tag, wl := max e.wl i.wl, pend := none
                       sharers := e.sharers ||| BitVec.ofNat 5 (2 ^ r.die) }) ∧
  (∀ (i : LineInfo) (w0 w1 : DWord), e.st = .X → e.owner = some (.die die) → e.sharers = 0 → h.mapped = true →
    h.tcache.find? (line / 1024) = some (w0, w1) → pTier w0 = 0 → pBsy w0 = false →
    (∀ b ∈ h.wbbuf, b.1 ≠ line) →
    ∃ t, Does (.writeBack home die va i) s t ∧ t.agenda = s.agenda ++ [.writeBackAck die va] ∧ t.memLine home line = i.data ∧
      t = { s with homes := t.homes, hbm := t.hbm, agenda := t.agenda } ∧
      entry t { e with st := .I, owner := none, wl := max e.wl i.wl, tag := if e.tag < i.tag then i.tag else e.tag, fd := max e.fd i.lmax }) ∧
  ∀ lmax, (e.st = .S ∨ e.st = .OS) → ∃ t, Does (.cleanDropNotice home die va lmax) s t ∧ homes t ∧ t.agenda = s.agenda ∧
    let left := if s.holders die line = [] then e.sharers &&& ~~~bit else e.sharers
    entry t { e with fd := max e.fd lmax, sharers := left, st := if left ≠ 0 then e.st else if e.st = .S then .I else .X }

/-- R37, R116, R130, R403: the host. A read answers the newest data of its line; a write takes copies back, is performed with its W, and
completes at that time; an ownership request is granted after every lease; a snoop is answered once the line is recalled, and a response
to a back-invalidation leaves memory with what the host had.
The interval at which the host's request is tried again is the model's (log entry 21). -/
def Obligations.HostAccessResult : Prop := ∀ (s : State) (dpa size home line off : Nat),
  let h := s.home home
  let e := h.entry line
  let n := max 1 (min size (64 - dpa % 64))
  let later := max e.fd (max e.fr e.rl) + 64
  let may := s.ideOk true = true ∧ s.hostMay dpa = true
  home < 192 →
  (∀ hpa excl, s.ideOk true = true → s.hpaLine hpa = none → Does (.hostSnoop hpa excl) s { s with outs := s.outs ++ [.hostSnooped hpa] }) ∧
  (∀ w, let now := s.nowHome (dpa / 2 ^ 32 % 256)
    (now < w → Does (.hostStoreCompletion dpa w) s { s with due := s.due ++ [(max (3 * w) (s.clock + 2), .hostStoreCompletion dpa w)] }) ∧
    (w ≤ now → Does (.hostStoreCompletion dpa w) s { s with outs := s.outs ++ [.hostDone dpa] })) ∧
  (∀ va : VAddr, va.toNat / 64 = line → e.st = .RC → e.hostWant = true → e.held = [] →
    (s.nowHome home < later → Does (.hostOwnershipGrant home va) s { s with due := s.due ++ [(3 * later, .hostOwnershipGrant home va)] }) ∧
    (later ≤ s.nowHome home → ∃ t, Does (.hostOwnershipGrant home va) s t ∧ t = { s with homes := t.homes, outs := t.outs } ∧
      t.outs.length = s.outs.length + 1 ∧ (t.home home).entry line = { e with st := .X, sharers := 0, owner := some .host, hostWant := false })) ∧
  (∀ (va : VAddr) (d : Line), va.toNat / 64 = line → s.ideOk true = true → e.st = .BI → e.pend = none → e.held = [] →
    (∀ b ∈ h.wbbuf, b.1 ≠ line) → ∀ w0 w1, h.mapped = true → h.tcache.find? (line / 1024) = some (w0, w1) → pTier w0 = 0 →
    ∃ t, Does (.hostBiResponse home va (some d)) s t ∧ t.memLine home line = d ∧ t = { s with homes := t.homes, hbm := t.hbm } ∧
      (t.home home).entry line = { e with
        st := match (if e.owner = some .host then none else e.owner) with
          | some _ => if e.sharers &&& 15#5 = 0 then .X else .OS
          | none => if e.sharers &&& 15#5 = 0 then .I else .S
        owner := if e.owner = some .host then none else e.owner, sharers := e.sharers &&& 15#5, pend := none, acks := 0, wbSeen := false }) ∧
  (may → s.dpaLine dpa = some (home, line, off) → s.lineFree home line false = true →
    Does (.hostCxlMemRead dpa size true) s { s with outs := s.outs ++
      [.hostRead dpa (toBytes n (lineGet (s.lineNow home line) off n)) (h.poison.contains line)] }) ∧
  (may → s.dpaLine dpa = some (home, line, off) → h.busyPage (line / 1024) = false → (e.st = .I ∨ e.st = .S ∨ e.st = .X ∨ e.st = .OS) →
    (∀ d k, e.owner ≠ some (.remote d k)) → s.inFlight line = false →
    (∃ t, Does (.hostOwnershipRequest dpa true) s t ∧ ((t.home home).entry line).st = .RC ∧ ∃ w, t.due = s.due ++ [(3 * w,
        .hostOwnershipGrant home (BitVec.ofNat 60 (64 * line)))] ∧ e.rl + 64 ≤ w ∧ e.fd + 64 ≤ w ∧ e.fr + 64 ≤ w) ∧
    ∀ data, ∃ t w, Does (.hostCxlMemWrite dpa size data true) s t ∧ t.due = s.due ++ [(3 * w, .hostStoreCompletion dpa w)] ∧
      ((t.home home).entry line).wl = w ∧ (t.home home).hostW = w ∧ h.hostW ≤ w ∧ s.nowHome home ≤ w ∧ e.wl ≤ w ∧ e.rl + 64 ≤ w ∧ e.fr + 64 ≤ w ∧
      e.fd + 64 ≤ w ∧ ∀ d, d < 4 → t.holders d line = [])

/-! ## Banks, stashes, the Clasp -/

/-- R76, R81, R83, R88, R102, R111: a bank write retires: its bytes stand in the bank and its thread's horizon is raised; a zeroed bank
reads 0; a drained give attaches the bank to the receiving slot. R65, R66, R67, R69: a stash fill brings its line in or keeps the refusal,
an upgrade makes it writable, a snoop takes it back. -/
def Obligations.BankEventResult : Prop := ∀ (s : State) (cl bank : Nat),
  (∀ (w : BankWrite) (q : ThreadRef) (g : Group) (x : Thread), (s.cluster w.cluster).writes.find? (fun v => v.id == w.id) = some w →
    w.shadow = none →
    s.group? q.ctx q.grp = some g → s.thread? q = some x → x.bankW.contains w.id = true →
    ∃ t, Does (.bankWriteRetire w) s t ∧ t = { s with teams := t.teams, clusters := t.clusters, banks := t.banks } ∧
      t.cluster w.cluster = { s.cluster w.cluster with writes := (s.cluster w.cluster).writes.erase w } ∧
      (w.size ≤ 64 → t.bankGet w.cluster w.bank w.off w.size = w.data.toNat % 2 ^ (8 * w.size)) ∧
      (∀ a, a < bankAddr w.cluster w.bank w.off ∨ bankAddr w.cluster w.bank w.off + w.size ≤ a → t.banks.get a = s.banks.get a) ∧
      t.thread? q = some { x with bankW := x.bankW.erase w.id, hznT := max x.hznT (s.nowAt g.core) }) ∧
  (cl < 96 → bank < 32 → ∃ t, Does (.bankZeroDone cl bank) s t ∧ t = { s with banks := t.banks, clusters := t.clusters } ∧
    (∀ a, bankAddr cl bank 0 ≤ a → a < bankAddr cl bank 131072 → t.banks.get a = 0#8) ∧
    (∀ a, a < bankAddr cl bank 0 ∨ bankAddr cl bank 131072 ≤ a → t.banks.get a = s.banks.get a) ∧
    ((t.cluster cl).banks.getD bank {}).zeroing = false) ∧
  (∀ (g : Give) (c n : Nat) (a b : Team), (s.cluster cl).gives.find? (fun h => h.id == g.id) = some g → g.dst = some (c, n) → g.complete = false →
    s.drained g.ctx g.slot g.bank = true → s.team? g.ctx = some a → s.team? c = some b → c ≠ g.ctx →
    g.lost = false →
    ∃ t a' b', Does (.giveDrainDone cl g.id) s t ∧ t = { s with teams := t.teams, clusters := t.clusters } ∧
      t.team? g.ctx = some a' ∧ t.team? c = some b' ∧ a'.slot g.slot = { a.slot g.slot with drn := false } ∧
      b'.slot n = { b.slot n with mode := .priv, bank := g.bank, mat := false, arr := true, tag := 0, det := false } ∧
      (∀ k, k ≠ n → b'.slot k = b.slot k) ∧ (∃ h ∈ (t.cluster cl).gives, h = { g with complete := true }) ∧
      ((t.cluster cl).banks.getD g.bank {}).owner = some c) ∧
  (∀ (g : Give) (d : Nat × Nat), (s.cluster cl).gives.find? (fun h => h.id == g.id) = some g → g.dst = some d → g.complete = false →
    s.drained g.ctx g.slot g.bank = true → g.lost = true →
    ∃ t, Does (.giveDrainDone cl g.id) s t ∧ t = { s with teams := t.teams, clusters := t.clusters, agenda := t.agenda } ∧
      t.agenda = s.agenda ++ [.bankZeroDone cl g.bank] ∧ (t.cluster cl).banks.getD g.bank {} = ⟨none, true⟩) ∧
  (∀ (r : Req) (th : ThreadRef) (ctx slot i : Nat) (rec : StashRec) (tm : Team), r.client = .stash cl bank th →
    s.stashOf cl r.va.toNat = some (ctx, slot, rec, i) → s.team? ctx = some tm → (tm.slot slot).stash = some rec →
    let stash := fun (t : State) (f : StashRec → StashRec) =>
      t = { s with teams := t.teams, banks := t.banks, slices := t.slices } ∧ (∀ n, t.slice n = s.slice n) ∧ ∃ y, t.team? ctx = some y ∧ y.slot slot =
        { tm.slot slot with stash := some (f { rec with asked := rec.asked.erase i }) }
    (∀ q ∈ (s.slice (s.sliceFor r.part r.die r.va.toNat)).wait, q.va.toNat / 64 ≠ r.va.toNat / 64) →
    (∃ t, Does (.stashFill r .region) s t ∧ stash t fun q => { q with closed := i :: q.closed }) ∧
    (∀ c, c ≠ 5#8 → ∃ t, Does (.stashFill r (.denied c)) s t ∧ stash t fun q => { q with revoked := i :: q.revoked }) ∧
    (∀ g lend, (tm.slot slot).bank = bank → r.excl = false →
      ∃ t, Does (.stashFill r (.filled g lend)) s t ∧
        (stash t fun q => { q with lines := q.lines.put i ⟨.S, lend, g.wl, g.tag, g.fd, g.fr⟩ }) ∧
        t.bankGet cl bank (64 * i) 64 = g.data.toNat) ∧
    (∀ g lend, (tm.slot slot).bank = bank → r.excl = true → s.stashBacked cl (r.va.toNat / 64) = true →
      ∃ t, Does (.stashFill r (.filled g lend)) s t ∧
        (stash t fun q => { q with lines := q.lines.put i ⟨if g.dirty then .M else .E, 0, g.wl, g.tag, g.fd, g.fr⟩ }) ∧
        t.bankGet cl bank (64 * i) 64 = g.data.toNat) ∧
    ∀ g, s.stashBacked cl (r.va.toNat / 64) = true → ∃ t, Does (.stashUpgradeGrant r g) s t ∧ stash t fun q => { q with lines := match q.lines.find? i with
      | some y => q.lines.put i { y with st := .M, wl := max y.wl g.wl, fd := g.fd, fr := g.fr }
      | none => q.lines.put i ⟨.M, 0, g.wl, g.tag, g.fd, g.fr⟩ }) ∧
  ∀ (home part : Nat) (va : VAddr) (excl : Bool), cl < 96 → bank < 32 → home < 256 →
    let snoop := Instr.stashSnoop (s.dev.no * 256 + home) part ⟨cl, bank⟩ va excl
    (s.ownerSlice (cl / 24) (va.toNat / 64) = none → Does snoop s (s.post (.snoopResponse home (cl / 24) va .inFlight))) ∧
    ∀ n x, s.ownerSlice (cl / 24) (va.toNat / 64) = some (n, x) → (∃ k, x.st = .K k) → ∃ t i, Does snoop s t ∧
      t.agenda = s.agenda ++ [.snoopResponse home (cl / 24) va (.data i)] ∧ i.data = (s.heldInfo (va.toNat / 64) x).data ∧
      i.wl = (s.heldInfo (va.toNat / 64) x).wl ∧
      (excl = true → ∀ a, a / 32 = cl / 24 → (t.slice a).lines.find? (va.toNat / 64) = none)

/-! ## The matrix engine -/

/-- R317, R318, R325, R326, R327: an octet that is done puts its strips and flags into the group; one that fails changes no strip; an
operation completes in order once all its octets have finished, its errors posted to `qmx`; a mark's arming takes the operations that
still read its buffer and posts when they have read; a report answers the flags and clears them. -/
def Obligations.MatrixEventResult : Prop := ∀ (s : State) (core q : Nat) (o : MmaOp) (g : Group),
  core < 384 → s.mmaOp? core o.id = some o → s.group? o.ctx o.grp = some g →
  let k := s.core core
  let group := fun (t : State) (y : Group) => t = { s with teams := t.teams, cores := t.cores } ∧ t.group? o.ctx o.grp = some y ∧
    (∀ c n, ¬(c = o.ctx ∧ n = o.grp) → t.group? c n = s.group? c n) ∧ ∀ n, n ≠ core → t.core n = s.core n
  let post := fun (g : Group) (e : DWord) => { g with queues := g.queues.put 1 (g.queues.getD 1 [] ++ [e]) }
  let room := fun (n : Nat) => (g.queues.getD 1 []).length + n ≤ 16 ∧ ∀ w ∈ g.overflow, w.1 ≠ 1
  (o.octets.contains q = true → o.doneOct.contains q = false → (∀ p ∈ o.failed, p.1 ≠ q) →
    let bent := (s.residues.find? fun f => f.op == o.id && f.oct == q).map fun f => (f.chan, f.delta)
    (∀ a, s.octet o q bent o.products ([], 0#5) = .ok a → ∃ t y, Does (.mmaOctetDone core o.id q) s t ∧
      t = { s with teams := t.teams, cores := t.cores } ∧ t.group? o.ctx o.grp = some y ∧
      (t.core core).mq = k.mq.map (fun p => if p.id = o.id then { p with doneOct := p.doneOct ++ [q] } else p) ∧
      y = { g with strips := y.strips, mflags := g.mflags ||| a.2 } ∧
      (∀ p v, (p, v) ∈ a.1 → (a.1.map fun x => x.1).Nodup → v.length = 1024 → ∀ i < 1024,
        y.strips.getD ((o.ad + q * jetG o.jo + p) * 1024 + i) 0 = BitVec.ofNat 32 (v.getD i 0)) ∧
      ∀ i, (∀ p ∈ a.1, i / 1024 ≠ o.ad + q * jetG o.jo + p.1) → y.strips.getD i 0 = g.strips.getD i 0) ∧
    (∀ n, s.octet o q bent o.products ([], 0#5) = .error n → TurnsCore (.mmaOctetDone core o.id q) s core
      { k with mq := k.mq.map fun p => if p.id = o.id then { p with failed := p.failed ++ [(q, n)] } else p })) ∧
  (o.octets.length ≤ o.doneOct.length + o.failed.length → k.firstOp o.ctx o.grp = some o → o.told = false → o.failed = [] →
    ∃ t, Does (.mmaComplete core o.id) s t ∧ group t { g with cnt := g.cnt.store 0 1 (g.cnt.getD 1 0 - 1) } ∧
      (t.core core).mq = (k.mq.map fun p => if p.id = o.id then { p with told := true } else p).filter fun p => p.id != o.id) ∧
  (o.octets.length ≤ o.doneOct.length + o.failed.length → k.firstOp o.ctx o.grp = some o → o.told = false → o.failed ≠ [] →
    (∀ p ∈ o.failed, p.2 = 2) → room 1 →
    let e := dw (3 * 2 ^ 56 + 2 * 2 ^ 48 + o.seq * 2 ^ 32 + ((o.failed.map fun p => 2 ^ p.1).sum) * 2 ^ 16 + o.ad)
    ∃ t es, Does (.mmaComplete core o.id) s t ∧ es.map (fun n => (n.cls, n.seq, n.entry)) = [(1, o.n, e)] ∧
      group t { post g e with cnt := g.cnt.store 0 1 (g.cnt.getD 1 0 - 1), errs := g.errs ++ es }) ∧
  (g.core = core →
    (∀ (a : Arm), a ∈ g.arms → g.arms.find? (fun b => b.w0 == a.w0 && b.w1 == a.w1) = some a →
      let m := a.w0.toNat % 2 ^ 16
      let es := (k.mq.filter fun p => p.ctx == o.ctx && p.grp == o.grp && decide (p.n ≤ a.n) && p.reading && s.mmaNames p a.w1).map fun p => p.id
      ∃ t, Does (.qmxArmMark o.ctx o.grp a.w0 a.w1) s t ∧ group t { g with
        arms := g.arms.erase a, marks := (g.marks.filter fun j => !(j.m == m && j.posted)) ++ [⟨m, a.serial, es, false⟩] }) ∧
    (∀ (mark : Mark), g.marks.find? (fun j => j.m == mark.m && s.markReady core j) = some mark → room 1 → mark.m < 65536 →
      ∃ t, Does (.markPost o.ctx o.grp mark.m) s t ∧ group t { post g (dw (2 ^ 56 + mark.m)) with
        marks := g.marks.map fun j => if j = mark then { j with posted := true } else j }) ∧
    ∀ n seq rest, g.reports = (n, seq) :: rest → (∀ p ∈ k.mq, p.ctx = o.ctx → p.grp = o.grp → n < p.n) → room 1 →
      ∃ t, Does (.qmxReportFlags o.ctx o.grp) s t ∧
        group t { post g (dw (2 * 2 ^ 56 + seq * 2 ^ 32 + (g.mflags &&& 29#5).toNat)) with reports := rest, mflags := 0#5 })

/-! ## Engines -/

/-- R91, R113, R114, R353, R355 to R359: a copy, gather or collective that can go on makes its next move: it reads a piece of its source,
delivers one write, to a bank or to memory, passes over bytes delivered before a move, ends with an error, or has delivered all. A
collective is matched once every device of its list has posted one with its domain, tag and list, or ends with error 3 where they differ; a bank write of a command lands and counts; a
finished command, first of its group and class, posts its entry and lowers its counter.
The operands and flags of a collective are the model's reading (log entry 20). -/
def Obligations.EngineEventResult : Prop := ∀ (s : State) (cl : Nat) (c : Cmd) (t : Team) (g : Group),
  s.cmd? c.id = some (cl, c) → s.team? c.ctx = some t → s.group? c.ctx c.grp = some g →
  let k := s.cluster cl
  let cmd := fun (u : State) (f : Cmd → Cmd) => (u.cluster cl).cmds = k.cmds.map fun d => if d.id = c.id then f d else d
  let sends := fun (u : State) (v : Req) => if c.cls = 3 then u.toHome v else u.toSlice v none
  let goes := fun (i : Instr) => s.cmdReady cl c = true →
    (s.piece c = none → ∃ u, Does i s u ∧ u = { s with clusters := u.clusters } ∧ cmd u fun d => { d with started := true, finished := true }) ∧
    (∀ p, s.piece c = some p → c.buf.length < p.len → c.fromBank = false → ∃ u v, Does i s (sends u v) ∧
      u = { s with clusters := u.clusters, nextId := s.nextId + 1 } ∧ cmd u (fun d => { d with started := true, asked := some s.nextId }) ∧
      v.id = s.nextId ∧ v.client = .engine c.id ∧ v.acc = .load ∧ v.size ≤ 64 ∧ v.direct = decide (c.cls = 3) ∧
      v.va = BitVec.ofNat 60 (ptrAdd (c.words.getD 0 0) (p.src + c.buf.length)).toNat) ∧
    ∀ p, s.piece c = some p → (c.buf.length < p.len → c.fromBank = true) →
      let src := if c.buf.length < p.len then s.cmdBytes c.ctx c.pins ((c.words.getD 0 0).toNat % 2 ^ 32 + p.src) p.len else c.buf
      (∀ n, p.make src = .error n → ∃ u, Does i s u ∧ u = { s with clusters := u.clusters } ∧
        cmd u fun d => { d with started := true, buf := src, err := n, finished := true, asked := none }) ∧
      ∀ bs fl, p.make src = .ok (bs, fl) →
        let had := fun (d : Cmd) => { d with started := true, buf := src, flags := d.flags ||| fl }
        let base := (c.words.getD 1 0).toNat
        (c.pos + bs.length ≤ c.skip → ∃ u, Does i s u ∧ u = { s with clusters := u.clusters } ∧ cmd u fun d => (had d).pass bs.length) ∧
        (c.skip < c.pos + bs.length → c.toBank = false → ∃ u v, Does i s (sends u v) ∧
          u = { s with clusters := u.clusters, nextId := s.nextId + 1 } ∧ cmd u (fun d => { had d with asked := some s.nextId }) ∧
          v.id = s.nextId ∧ v.client = .engine c.id ∧ v.acc = .store ∧ v.size = bs.length ∧ v.data = BitVec.ofNat 512 (ofBytes bs) ∧
          v.direct = decide (c.cls = 3) ∧ v.va = BitVec.ofNat 60 (ptrAdd (c.words.getD 1 0) p.off).toNat) ∧
        ∀ b, c.skip < c.pos + bs.length → c.toBank = true → base / 2 ^ 27 % 2 = 0 → base % 2 ^ 17 + p.off + bs.length ≤ 131072 →
          s.slotBank c.ctx c.pins (base / 2 ^ 17 % 16) = some b → ∃ u w, Does i s u ∧ (u.cluster cl).writes = k.writes ++ [w] ∧
          w = ⟨s.nextId, none, some c.id, cl, b, base % 2 ^ 17 + p.off, bs.length, BitVec.ofNat 512 (ofBytes bs), none⟩ ∧
          u = { s with clusters := u.clusters, nextId := s.nextId + 1, agenda := s.agenda ++ [.copyWriteRetire c.id] } ∧ cmd u had
  (c.event = .copyPlain c.id → goes (.copyPlain c.id)) ∧ (c.event = .copyStrided c.id → goes (.copyStrided c.id)) ∧
  (c.event = .copyTaggedPack c.id → goes (.copyTaggedPack c.id)) ∧ (c.event = .copyTaggedUnpack c.id → goes (.copyTaggedUnpack c.id)) ∧
  (c.event = .copyStripDrain c.id → goes (.copyStripDrain c.id)) ∧ (c.event = .gather c.id → goes (.gather c.id)) ∧
  (c.event = .reduceScatter c.id → goes (.reduceScatter c.id)) ∧ (c.event = .allGather c.id → goes (.allGather c.id)) ∧
  (c.event = .allReduce c.id → goes (.allReduce c.id)) ∧
  (c.cls = 3 → c.matched = none → c.finished = false → t.leaving = .no → ∀ tag peers,
    let ps := peers.filter fun p => c.list.contains p.dev
    let alike := ∀ p ∈ ps, p.dev = s.dev.no ∨ (p.op.toNat = lOp c.words ∧ p.bf16 = (c.words.getD 2 0).getLsbD 61 ∧
      p.count = lCount c.words ∧ p.ndev = lNdev c.words)
    (¬(tag.dom = c.dom ∧ tag.tag = lTag c.words ∧ tag.list = c.list) → Idle (.collectiveMatch c.id tag peers) s) ∧
    ((∃ d ∈ c.list, d ≠ s.dev.no ∧ ∀ p ∈ ps, p.dev ≠ d) → Idle (.collectiveMatch c.id tag peers) s) ∧
    (tag.dom = c.dom → tag.tag = lTag c.words → tag.list = c.list → (∀ d ∈ c.list, d = s.dev.no ∨ ∃ p ∈ ps, p.dev = d) →
      (alike → ∃ u, Does (.collectiveMatch c.id tag peers) s u ∧ u = { s with clusters := u.clusters } ∧
        cmd u fun d => { d with matched := some (d.operands s.dev.no ps) }) ∧
      (¬alike → ∃ u, Does (.collectiveMatch c.id tag peers) s u ∧ u = { s with clusters := u.clusters } ∧
        cmd u fun d => { d with err := 3, finished := true, asked := none }))) ∧
  (∀ w, s.clusters.findSome? (fun k => (k.2.writes.find? fun w => w.engine == some c.id).map fun w => (k.1, w)) = some (cl, w) →
    w.shadow = none → w.cluster = cl → w.size ≤ 64 → (c.words.getD 2 0).getLsbD 54 = false → ∃ u, Does (.copyWriteRetire c.id) s u ∧
      u = { s with clusters := u.clusters, banks := u.banks } ∧ (u.cluster cl).writes = k.writes.erase w ∧
      u.bankGet cl w.bank w.off w.size = w.data.toNat % 2 ^ (8 * w.size) ∧
      (∀ a, a < bankAddr cl w.bank w.off ∨ bankAddr cl w.bank w.off + w.size ≤ a → u.banks.get a = s.banks.get a) ∧
      cmd u fun d => { d.pass w.size with delivered := d.delivered + w.size, wmax := max d.wmax 0, asked := none }) ∧
  (c.finished = true → k.firstCmd c = true → c.told = false → c.err = 0 →
    let q := if c.cls = 0 then 2 else if c.cls = 2 then 3 else 4
    let notify := (c.words.getD 2 0).getLsbD 53
    (notify = true → (g.queues.getD q []).length < 16 ∧ ∀ w ∈ g.overflow, w.1 ≠ q) →
    ∃ u, Does (.engineCommandComplete c.id) s u ∧ u = { s with teams := u.teams, clusters := u.clusters } ∧
      (∀ d ∈ k.cmds, d.id ≠ c.id → d ∈ (u.cluster cl).cmds) ∧ (∀ d ∈ (u.cluster cl).cmds, d.id ≠ c.id) ∧
      u.group? c.ctx c.grp = some { g with
        cnt := g.cnt.store 0 c.cls (g.cnt.getD c.cls 0 - 1)
        done := g.done ++ [⟨c.cls, c.n, c.wmax, (c.words.getD 2 0).toNat / 2 ^ 55 % 8⟩]
        queues := if notify then g.queues.put q (g.queues.getD q [] ++ [dw (2 ^ 56 + c.seq * 2 ^ 32 + c.flags.toNat)]) else g.queues })

/-- R351, R352: a `qpush` with M adds its words to its chain, and one that completes a copy between two pod ranges queues it; a `qpop`
answers the oldest entry of its queue, or 0. R355, R357, R359, R119: where an engine command reads next: the byte after those it has
delivered, the next row, the next words or block, the row that the next index names, the element of its own operand, in a request to the slice,
a collective's to the home; a drain delivers the row of its strip instead; and a command that has delivered all is finished.
R91, R114, R353: a matched collective runs, a bank write of a copy lands and counts, and a finished command completes in the order of issue. -/
def Obligations.QueueEngineCompletion : Prop :=
  (∀ (e : Bool) (s : State) (u : UniCtx) (f : GQ), UniReady s (.qpush e f) false [f.a.toNat, f.b.toNat] u →
    let a := u.group.gr f.a.toNat
    let b := u.group.gr f.b.toNat
    (f.m = true → u.group.chain = none →
      ∃ t, exec (.qpush e f) s = .next t ∧ UniGoes s t (.qpush e f) u fun g => { g with chain := some (f.q.toNat, [a, b]) }) ∧
    ∀ src dst : DWord, f.m = false → f.q.toNat = 2 → u.group.chain = some (2, [src, dst]) → a = 0 → 0 < b.toNat → b.toNat < 2 ^ 20 →
      locketOk u.team.keys (relocate u.team.apx src) 0 = true → locketOk u.team.keys (relocate u.team.apx dst) 1 = true →
      (∀ x ∈ u.group.threads, x.2.stores = [] ∧ x.2.bankW = []) → (u.group.cnt.map fun c => c.2).sum < 64 →
      ((s.cluster (u.core / 4)).cmds.filter fun c => c.cls == 0).length < 64 →
      ∃ t c, exec (.qpush e f) s = .next t ∧ (t.cluster (u.core / 4)).cmds = (s.cluster (u.core / 4)).cmds ++ [c] ∧ c.id = s.nextId ∧ c.cls = 0 ∧
        c.ctx = u.ctx ∧ c.grp = u.grp ∧ c.words = [relocate u.team.apx src, relocate u.team.apx dst, a, b] ∧ c.pos = 0) ∧
  (∀ (e : Bool) (d q : BitVec 6) (s : State) (u : UniCtx), UniReady s (.qpop e d q) false [d.toNat] u →
    (u.group.queues.getD q.toNat [] = [] → ∃ t, exec (.qpop e d q) s = .next t ∧ UniGoes s t (.qpop e d q) u fun g => g.setG d.toNat 0) ∧
    ∀ x more, u.group.queues.getD q.toNat [] = x :: more → (∀ w ∈ u.group.overflow, w.1 ≠ q.toNat) →
      ∃ t, exec (.qpop e d q) s = .next t ∧ UniGoes s t (.qpop e d q) u fun g =>
        { g.setG d.toNat x with queues := g.queues.put q.toNat more }) ∧
  ∀ (s : State) (cl : Nat) (c : Cmd) (t : Team) (g : Group),
  s.cmd? c.id = some (cl, c) → s.team? c.ctx = some t → s.group? c.ctx c.grp = some g →
  (∀ d ∈ (s.cluster cl).cmds, d.id = c.id → d = c) →
  let k := s.cluster cl
  let w := fun (i : Nat) => c.words.getD i 0
  let w2 := w 2
  let w3 := (w 3).toNat
  let cmd := fun (u : State) (f : Cmd → Cmd) => (u.cluster cl).cmds = k.cmds.map fun d => if d.id = c.id then f d else d
  let may := t.leaving = .no ∧ c.finished = false ∧ c.started = true ∧ c.asked = none ∧ ∀ x ∈ k.writes, x.engine ≠ some c.id
  let room := 64 - ((w 1).toNat + c.pos) % 64
  let reads := fun (i : Instr) (off n : Nat) => may → c.buf = [] → 0 < n →
    let va := ptrAdd (w 0) off
    ∃ u v, Does i s (if c.cls = 3 then u.toHome v else u.toSlice v none) ∧ u = { s with clusters := u.clusters, nextId := s.nextId + 1 } ∧
      cmd u (fun d => { d with started := true, asked := some s.nextId }) ∧ v.id = s.nextId ∧ v.client = .engine c.id ∧ v.acc = .load ∧
      v.va = BitVec.ofNat 60 va.toNat ∧ v.size = min n (64 - va.toNat % 64) ∧ v.direct = decide (c.cls = 3) ∧ v.part = c.part ∧ v.dom = c.dom
  let ends := fun (i : Instr) => may → ∃ u, Does i s u ∧ u = { s with clusters := u.clusters } ∧ cmd u fun d => { d with started := true, finished := true }
  let conv := w2.toNat / 2 ^ 61
  let fmt := w2.toNat / 2 ^ 58 % 8
  let rows := w3 / 2 ^ 20 % 2 ^ 12 + 1
  let rlen := w3 % 2 ^ 20
  let spitch := 16 * (w3 / 2 ^ 32 % 2 ^ 16)
  let dpitch := 16 * (w3 / 2 ^ 48)
  let n := if fmt = 1 then 62 else if fmt = 2 then 124 else 31
  (c.cls = 0 → w2.getLsbD 34 = false →
    (conv = 0 → rows = 1 → (c.pos < rlen → reads (.copyPlain c.id) c.pos (min room (rlen - c.pos))) ∧ (rlen = c.pos → 0 < rlen → ends (.copyPlain c.id))) ∧
    (conv = 1 → 0 < rlen → (c.pos / rlen < rows → reads (.copyStrided c.id) (c.pos / rlen * spitch + c.pos % rlen)
        (min (64 - ((w 1).toNat + (c.pos / rlen * dpitch + c.pos % rlen)) % 64) (rlen - c.pos % rlen))) ∧
      (rows ≤ c.pos / rlen → ends (.copyStrided c.id))) ∧
    (conv = 2 → fmt = 1 ∨ fmt = 2 ∨ fmt = 3 → (c.pos / 64 < rlen / (4 * n) → reads (.copyTaggedPack c.id) (4 * n * (c.pos / 64)) (4 * n)) ∧
      (rlen / (4 * n) ≤ c.pos / 64 → ends (.copyTaggedPack c.id))) ∧
    (conv = 3 → (c.blk < rlen / 64 → reads (.copyTaggedUnpack c.id) (64 * c.blk) 64) ∧ (rlen / 64 ≤ c.blk → ends (.copyTaggedUnpack c.id))) ∧
    (conv = 4 → fmt = 0 →
      let i := c.pos / 512
      let o := c.pos % 512
      (8 * rows ≤ i → ends (.copyStripDrain c.id)) ∧
      (i < 8 * rows → w2.getLsbD 33 = false → c.skip ≤ c.pos → may → c.buf = [] →
        let off := i * dpitch + o
        let strip := (w 0).toNat % 2 ^ 9 + i / 8
        let row := (List.range 128).flatMap fun j => toBytes 4 (g.strips.getD (strip * 1024 + i % 8 * 128 + j) 0).toNat
        let bs := (row.drop o).take (min (64 - ((w 1).toNat + off) % 64) (512 - o))
        ∃ u v, Does (.copyStripDrain c.id) s (u.toSlice v none) ∧ u = { s with clusters := u.clusters, nextId := s.nextId + 1 } ∧
          cmd u (fun d => { d with started := true, asked := some s.nextId }) ∧ v.id = s.nextId ∧ v.client = .engine c.id ∧ v.acc = .store ∧
          v.va = BitVec.ofNat 60 (ptrAdd (w 1) off).toNat ∧ v.size = bs.length ∧ v.data = BitVec.ofNat 512 (ofBytes bs)))) ∧
  (c.cls = 2 →
    let len := w3 % 2 ^ 16
    let count := w3 / 2 ^ 16 % 2 ^ 16 + 1
    let i := c.pos / len
    0 < len → (count ≤ i → ends (.gather c.id)) ∧
    ∀ b, (w 1).toNat / 2 ^ 32 % 2 ^ 17 + 4 * i + 4 ≤ 131072 → s.slotBank c.ctx c.pins ((w 1).toNat / 2 ^ 32 / 2 ^ 17 % 16) = some b → i < count →
      let idx := s.bankGet (t.core / 4) b ((w 1).toNat / 2 ^ 32 % 2 ^ 17 + 4 * i) 4
      reads (.gather c.id) (idx * (w3 / 2 ^ 32) + c.pos % len) (min room (len - c.pos % len))) ∧
  (c.cls = 3 →
    let es := if w2.getLsbD 61 then 2 else 4
    let count := w3 % 2 ^ 32
    let place := c.list.idxOf s.dev.no
    let el := c.pos / es
    let op := w2.toNat / 2 ^ 62
    let total := if op = 0 then count else (w 4).toNat % 2 ^ 9 * count
    let size := fun (els : Nat) => ((c.pos + min room (els * es - c.pos) - 1) / es + 1 - el) * es
    (op = 0 → (total * es ≤ c.pos → ends (.reduceScatter c.id)) ∧
      (c.pos < total * es → reads (.reduceScatter c.id) ((place * count + el) * es) (size total))) ∧
    (op = 1 → (total * es ≤ c.pos → ends (.allGather c.id)) ∧
      (c.pos < total * es → place * count ≤ el → (c.pos + min room (total * es - c.pos) - 1) / es < (place + 1) * count →
        reads (.allGather c.id) ((el - place * count) * es) (size total))) ∧
    (op = 2 → (total * es ≤ c.pos → ends (.allReduce c.id)) ∧ (c.pos < total * es → reads (.allReduce c.id) (el * es) (size total))) ∧
    (∀ tag peers, c.matched = none → c.finished = false → t.leaving = .no → tag.dom = c.dom → tag.tag.toNat = w3 / 2 ^ 32 → tag.list = c.list →
      (∀ d ∈ c.list, ∃ p ∈ peers, p.dev = d) → (∀ p ∈ peers, p.dev ∈ c.list) →
      (∀ p ∈ peers, p.dev ≠ s.dev.no → p.op.toNat = op ∧ p.bf16 = w2.getLsbD 61 ∧ p.count = count ∧ p.ndev = (w 4).toNat % 2 ^ 9) →
      ∃ u x, Does (.collectiveMatch c.id tag peers) s u ∧ u = { s with clusters := u.clusters } ∧ cmd u fun d => { d with matched := some x })) ∧
  (∀ x : BankWrite, s.clusters.findSome? (fun k => (k.2.writes.find? fun x => x.engine == some c.id).map fun x => (k.1, x)) = some (cl, x) →
    x.shadow = none → x.cluster = cl → x.size ≤ 64 → c.cls = 0 → conv = 0 → w2.getLsbD 54 = false →
    ∃ u, Does (.copyWriteRetire c.id) s u ∧ (u.cluster cl).writes = k.writes.erase x ∧
      u.bankGet cl x.bank x.off x.size = x.data.toNat % 2 ^ (8 * x.size) ∧
      cmd u fun d => { d with pos := d.pos + x.size, buf := [], delivered := d.delivered + x.size, asked := none }) ∧
  (c.finished = true → c.told = false → c.err = 0 → w2.getLsbD 53 = false → (∀ d ∈ k.cmds, d.ctx = c.ctx → d.grp = c.grp → d.cls = c.cls → c.n ≤ d.n) →
    ∃ u, Does (.engineCommandComplete c.id) s u ∧ (∀ d ∈ (u.cluster cl).cmds, d.id ≠ c.id) ∧ ∃ h, u.group? c.ctx c.grp = some h ∧
      h.cnt = g.cnt.store 0 c.cls (g.cnt.getD c.cls 0 - 1) ∧ h.done = g.done ++ [⟨c.cls, c.n, c.wmax, w2.toNat / 2 ^ 55 % 8⟩])

/-! ## System software: tables, homes, fault queues -/

/-- R11, R12, R13, R15, R16, R18: table updates. One that finds another running ends with RESULT 4; one whose value breaks a rule with 1; a
change of state that the table does not have with 2; a set in use with 3. One that is accepted is busy until each die's copy of the table
has taken it; a region that closes stays busy until its homes have recalled every line. R23, R24, R25, R26, R27: the commands of a home.
One that finds another running ends with RESULT 5. INSTALL writes a free entry, or recalls the page first; REMOVE and RECALL begin a
recall, which takes the entries of the lines and waits for every copy and lease; MOVE marks its page busy. When a recall is done, the lines
are home, the entry is replaced or cleared, and what was held is served in the order in which it came; when a move has drained and copied,
the page's bytes stand at the new tier, or it stays where it was.
The choice of RESULT for reserved bits is the model's (log entry 31). -/
def Obligations.TranslationCommandResult : Prop :=
  (∀ (s : State) (v : DWord) (region : Nat),
  let i := v.toNat % 2 ^ 14
  let x := s.dev.dtdata
  let n := x.toNat
  let ends := fun (e : Instr) (r : Nat) => Does e s { s with dev := { s.dev with dtResult := r } }
  let busy := fun (table : Nat) (x : DWord) => { s.dev with
    dtBusy := true, dtResult := 0, dtLeft := [0, 1, 2, 3], dtTable := table, dtIndex := i, dtValue := x }
  let copies := s.agenda ++ [Event.tableCopy 0, Event.tableCopy 1, Event.tableCopy 2, Event.tableCopy 3]
  let takes := fun (e : Instr) (table : Nat) (x : DWord) => Does e s { s with dev := busy table x, agenda := copies }
  (s.dev.dtBusy = true → ends (.tableUpdateDistribution v) 4 ∧ ends (.tableUpdateSetList v) 4 ∧ ends (.tableUpdateAperture v) 4) ∧
  (s.dev.dtBusy = false →
    (let old := (s.distAt 0 i).toNat
     let was := old / 2 ^ 62
     let want := n / 2 ^ 62
     let bad := i = 0 ∨ 8192 ≤ i ∨ want = 3 ∨ n / 2 ^ 46 % 2 ^ 16 ≠ 0 ∨ n / 2 ^ 8 % 2 ^ 24 ≠ 0 ∨ 16383 < n / 2 ^ 32 % 2 ^ 14 + n % 2 ^ 8
     let opens := (was = 0 ∧ want = 1) ∨ (was = 2 ∧ want = 0) ∨ (was = 2 ∧ want = 1)
     let closes := was = 1 ∧ want = 2
     (bad → ends (.tableUpdateDistribution v) 1) ∧ (¬bad → ¬opens → ¬closes → ends (.tableUpdateDistribution v) 2) ∧
     (¬bad → opens → takes (.tableUpdateDistribution v) 0 x) ∧
     (¬bad → closes → Does (.tableUpdateDistribution v) s
       { s with dev := { busy 0 (BitVec.ofNat 64 (2 * 2 ^ 62 + old % 2 ^ 62)) with dtClosing := some i }, agenda := copies })) ∧
    (let bad := n / 2 ^ 16 ≠ 0 ∨ 192 ≤ n % 256
     let used := ∃ e ∈ s.dist, e.1 < 8192 ∧ (e.2.toNat / 2 ^ 62 = 1 ∨ e.2.toNat / 2 ^ 62 = 2) ∧ e.2.toNat / 2 ^ 32 % 2 ^ 14 ≤ i ∧
       i ≤ e.2.toNat / 2 ^ 32 % 2 ^ 14 + e.2.toNat % 2 ^ 8
     (bad → ends (.tableUpdateSetList v) 1) ∧ (¬bad → used → ends (.tableUpdateSetList v) 3) ∧
     (¬bad → ¬used → takes (.tableUpdateSetList v) 1 x)) ∧
    (4096 ≤ i ∨ n / 2 ^ 13 ≠ 0 → ends (.tableUpdateAperture v) 1) ∧
    (¬(4096 ≤ i ∨ n / 2 ^ 13 ≠ 0) → takes (.tableUpdateAperture v) 2 x)) ∧
  (∀ die, s.dev.dtLeft.contains die = true → ∃ t, happen (.tableCopy die) s = .next t ∧ t.dev = { s.dev with dtLeft := s.dev.dtLeft.erase die } ∧
    let d := s.dev
    (d.dtTable = 0 → (∀ k, k ≠ die * 8192 + d.dtIndex → t.dist.getD k 0 = s.dist.getD k 0) ∧
      t.dist.getD (die * 8192 + d.dtIndex) 0 = d.dtValue ∧ t.setlist = s.setlist ∧ t.apt = s.apt) ∧
    (d.dtTable = 1 → (∀ k, k ≠ die * 16384 + d.dtIndex → t.setlist.getD k 0 = s.setlist.getD k 0) ∧
      t.setlist.getD (die * 16384 + d.dtIndex) 0 = BitVec.ofNat 16 d.dtValue.toNat ∧ t.dist = s.dist ∧ t.apt = s.apt) ∧
    (d.dtTable = 2 → (∀ k, k ≠ die * 4096 + d.dtIndex → t.apt.getD k 0 = s.apt.getD k 0) ∧
      t.apt.getD (die * 4096 + d.dtIndex) 0 = BitVec.ofNat 32 d.dtValue.toNat ∧ t.dist = s.dist ∧ t.setlist = s.setlist) ∧
    t.agenda = if s.dev.dtLeft.erase die = [] ∧ s.dev.dtClosing = none then s.agenda ++ [.tableUpdateDone] else s.agenda) ∧
  (s.dev.dtLeft = [] → s.dev.dtClosing = none → Does .tableUpdateDone s { s with dev := { s.dev with dtBusy := false } }) ∧
  (s.dev.dtLeft ≠ [] ∨ s.dev.dtClosing ≠ none → Idle .tableUpdateDone s) ∧
  (s.dev.dtClosing ≠ some region ∨ s.dev.dtLeft ≠ [] ∨ s.regionBusy region = true → Idle (.regionCloseRecallDone region) s) ∧
  (s.dev.dtClosing = some region → s.dev.dtLeft = [] → s.regionBusy region = false → s.regionOpen region = [] → s.regionReady region = true →
    (∀ h ∈ s.homes, h.2.heldReqs = []) →
    ∃ t, Does (.regionCloseRecallDone region) s t ∧ t.dev.dtBusy = false ∧ t.dev.dtClosing = none ∧
      t = { s with teams := t.teams, cores := t.cores, pairs := t.pairs, slices := t.slices, homes := t.homes, hbm := t.hbm, host := t.host
                   parts := t.parts, dev := t.dev, agenda := t.agenda, outs := t.outs } ∧
      ∀ h ∈ s.regionHomes region, ∀ l ∈ (s.home h).linesOf (inRegion region), ∀ n < 128, (t.slice n).lines.find? l = none)) ∧
  (∀ (s : State) (home : Nat) (vpn : BitVec 44),
  home < 192 →
  let h := s.home home
  let v := vpn.toNat
  let puts := fun (t : State) (k : Home) => t.home home = k ∧ ∀ n, n ≠ home → t.home n = s.home n
  let ends := fun (e : Instr) (r : Nat) => ∃ t, Does e s t ∧ t = { s with homes := t.homes } ∧ puts t { h with cmd := none, result := r }
  let begins := fun (e : Instr) (op : Nat) (w0 w1 : DWord) => ∃ t, Does e s t ∧ t = { s with homes := t.homes } ∧
    puts t { h with cmd := some ⟨op, v, false, w0, w1⟩ }
  let entry := fun (t : State) (a : Nat) (w0 w1 : DWord) => t.pteAt home a = (w0, w1) ∧
    ∀ b, b < chan home a ∨ chan home a + 16 ≤ b → t.hbm.get b = s.hbm.get b
  (h.cmd ≠ none → ∀ e, e = .install home vpn ∨ e = .remove home vpn ∨ e = .move home vpn ∨ e = .recallPage home vpn →
    ∃ t, Does e s t ∧ t = { s with homes := t.homes } ∧ puts t { h with result := 5 }) ∧
  (h.cmd = none →
    (let w0 : DWord := BitVec.ofNat 64 (h.harg0.toNat / 2 ^ 57 * 2 ^ 57 + v)
     (s.installBad home v w0 h.harg1 = true → ends (.install home vpn) 6) ∧
     (s.installBad home v w0 h.harg1 = false →
       (∀ a, s.pteFind home v = some a → begins (.install home vpn) 1 w0 h.harg1) ∧
       (s.pteFind home v = none →
         let free := (h.probes v).find? fun a => (s.pteAt home a).1.toNat / 2 ^ 63 == 0
         (free = none → ends (.install home vpn) 1) ∧
         ∀ a, free = some a → ∃ t, Does (.install home vpn) s t ∧ t = { s with homes := t.homes, hbm := t.hbm } ∧ entry t a w0 h.harg1 ∧
           puts t { h with
             cmd := none, result := 0
             rev := if w0.getLsbD 63 = true ∧ pTier w0 = 0 then h.rev.put (pFrame h.harg1) v else h.rev
             tcache := if w0.getLsbD 63 = false then h.tcache.del v
               else if (h.tcache.find? v).isSome then h.tcache.put v (w0, h.harg1) else h.tcache }))) ∧
    (s.pteFind home v = none → ends (.remove home vpn) 2) ∧
    (∀ a, s.pteFind home v = some a → begins (.remove home vpn) 2 0 0) ∧
    begins (.recallPage home vpn) 4 0 0 ∧
    (∀ r, s.moveBad home v (h.harg0.toNat % 4) h.harg1 = some r → ends (.move home vpn) r) ∧
    ∀ a, s.moveBad home v (h.harg0.toNat % 4) h.harg1 = none → s.pteFind home v = some a → ∃ t, Does (.move home vpn) s t ∧
      t = { s with homes := t.homes, hbm := t.hbm } ∧ entry t a ((s.pteAt home a).1 ||| 0x0100000000000000#64) (s.pteAt home a).2 ∧
      puts t { h with tcache := (t.home home).tcache, cmd := some ⟨3, v, false, h.harg0, h.harg1⟩ }) ∧
  (∀ r : Req, Does (.homeRequest home r) s (s.takeIn home r)) ∧
  (∃ k, s.serveHeld home = (h.heldReqs.filter fun r => !s.holdsPage home (r.va.toNat / 65536) r).foldl (fun u r => u.takeIn home r)
    (s.modHome home fun _ => { h with heldReqs := k }) ∧ ∀ r, r ∈ k ↔ r ∈ h.heldReqs ∧ s.holdsPage home (r.va.toNat / 65536) r = true) ∧
  ∀ c, h.cmd = some c →
    let served := fun (e : Instr) (r : Nat) (p : State → Prop) => ∃ u, Does e s (u.serveHeld home) ∧ (u.home home).cmd = none ∧
      (u.home home).result = r ∧ (u.home home).heldReqs = h.heldReqs ∧ u.agenda = s.agenda ∧ p u
    let memory := fun (t : State) => t = { s with homes := t.homes, hbm := t.hbm }
    (c.op ≠ 3 → s.recallReady home c.names = true → s.recallOpen home c.names ≠ [] → s.awayLines home c.names true = [] →
      ∃ t, Does (.homeRecallDone home) s t ∧ t = { s with homes := t.homes, agenda := t.agenda } ∧ (∀ e ∈ s.agenda, e ∈ t.agenda) ∧
        ∀ l, (t.home home).entry l = if l ∈ s.recallOpen home c.names then { h.entry l with st := .RC } else h.entry l) ∧
    (c.op ≠ 3 → s.recallReady home c.names = true → s.recallOpen home c.names = [] →
      (c.op = 4 → served (.homeRecallDone home) 0 fun t =>
        (∀ l ∈ h.linesOf c.names, ∀ n < 128, (t.slice n).lines.find? l = none) ∧
        t = { s with teams := t.teams, cores := t.cores, pairs := t.pairs, slices := t.slices, homes := t.homes, hbm := t.hbm, host := t.host }) ∧
      (∀ a, h.linesOf c.names = [] → s.pteFind home c.vpn = some a →
        (c.op = 1 → served (.homeRecallDone home) 0 fun t => (t.home home).harg1 = (s.pteAt home a).2 ∧ entry t a c.w0 c.w1 ∧ memory t) ∧
        (c.op = 2 → served (.homeRecallDone home) 0 fun t => (t.home home).harg1 = (s.pteAt home a).2 ∧
          entry t a ((s.pteAt home a).1 &&& 0x7FFFFFFFFFFFFFFF#64) (s.pteAt home a).2 ∧ (t.home home).tcache.find? c.vpn = none ∧ memory t))) ∧
    (c.op = 3 → c.drained = false → s.moveDrained home c = true →
      (c.w0.toNat % 4 ≠ 1 → ∃ t, Does (.moveDrainDone home) s t ∧ t = { s with homes := t.homes } ∧
        puts t { h with cmd := some { c with drained := true } }) ∧
      (c.w0.toNat % 4 = 1 → s.awayLines home c.names false = [] → ∃ t, Does (.moveDrainDone home) s t ∧
        t = { s with teams := t.teams, slices := t.slices, homes := t.homes, hbm := t.hbm, host := t.host } ∧
        (t.home home).cmd = some { c with drained := true } ∧
        ∀ l ∈ s.ownedLines home c.names, ∀ n < 128, ∀ y, (t.slice n).lines.find? l = some y → y.owns = false)) ∧
    (c.op = 3 → c.drained = true → (∀ w ∈ h.wbbuf, w.1 / 1024 ≠ c.vpn) → ∀ a, s.pteFind home c.vpn = some a →
      let e := s.pteAt home a
      let tier := c.w0.toNat % 4
      let bs := s.pageRead home c.vpn e.1 e.2 0 65536
      let units := imageUnits bs
      let moves := fun (r : Nat) (p : State → Prop) => served (.moveCopyDone home) r fun t => (t.home home).harg1 = e.2 ∧ p t
      let stays := fun (r : Nat) => moves r fun t => entry t a (e.1 &&& 0xFEFFFFFFFFFFFFFF#64) e.2 ∧ memory t
      (tier = 2 → moves 0 fun t => entry t a (movedW0 e.1 2 0) (movedW1 e.2 (pFrame c.w1)) ∧
        t.host.read (pFrame c.w1 * 65536) 65536 = bs ∧ t = { s with homes := t.homes, hbm := t.hbm, host := t.host }) ∧
      (tier = 0 → moves 0 fun t => t.hbm.read (chan home (pFrame c.w1 % 65536 * 65536)) 65536 = bs ∧
        (t.home home).rev.find? (pFrame c.w1) = some c.vpn ∧ memory t) ∧
      (tier = 1 → 15 < units → stays 4) ∧ (tier = 1 → units ≤ 15 → h.poolFit units = none → stays 3) ∧
      ∀ u, tier = 1 → units ≤ 15 → h.poolFit units = some u → moves 0 fun t =>
        entry t a (movedW0 e.1 1 units) (movedW1 e.2 u) ∧ (t.home home).pool.find? c.vpn = some (u, units) ∧
        Memory.read (t.home home).t1 (c.vpn * 65536) 65536 = bs ∧ memory t))

/-- R31, R32: a partition's fault queue. The oldest record is written at TAIL, with PHASE and SEQ, which then advance; with none waiting,
or ERR or a full ring, nothing is written; a ring that cannot be written sets ERR. The interrupt is raised once, when enough records are
unread or the oldest is old enough; FQHEAD arms it again, and FQBASE empties the ring. R30, R33, R34, R35, R36: a replay or a cancel of a
live token frees it, with a new generation; a replay has its home take its requests again in the order in which they came, a cancel answers each with its own cause. A
token that is not live counts as stale.
Waiting records at FQBASE are the model's reading (log entry 32). -/
def Obligations.FaultQueueResult : Prop :=
  (∀ (s : State) (part : Nat) (v : DWord),
  part < 64 →
  let q := (s.part part).fq
  let n := 2 ^ (min 10 (q.cfg.toNat % 16) + 6)
  let unread := (q.tail + n - q.head) % n
  let fq := fun (t : State) (k : FaultQ) => t.part part = { s.part part with fq := k } ∧ ∀ p, p ≠ part → t.part p = s.part p
  let vector : Out := .msix (part + 1) (q.cfg.toNat / 2 ^ 16 % 2 ^ 11)
  let retry := if s.agenda.contains (.faultRecordWrite part) then s.agenda else s.agenda ++ [.faultRecordWrite part]
  (q.waiting = [] ∨ q.err = true ∨ (q.tail + 1) % n = q.head → Idle (.faultRecordWrite part) s) ∧
  (∀ r rest, q.waiting = r :: rest → q.err = false → (q.tail + 1) % n ≠ q.head →
    let va := vaOf q.base + 64 * q.tail
    let bs := toBytes 64 (BitVec.ofNat 512 (r.toNat + (if q.pass then 2 ^ 504 else 0) + q.seq % 2 ^ 32 * 2 ^ 352)).toNat
    (s.ringBad part va bs = true → ∃ t, Does (.faultRecordWrite part) s t ∧ t = { s with parts := t.parts } ∧ fq t { q with err := true }) ∧
    (s.ringBad part va bs = false → s.podWrite (64 + part) 2 va bs = none → Does (.faultRecordWrite part) s
      ((s.podAskW part (64 + part) 2 va bs).postAt (s.clock + 64) (.faultRecordWrite part))) ∧
    ∀ s', s.ringBad part va bs = false → s.podWrite (64 + part) 2 va bs = some s' → ∃ t, Does (.faultRecordWrite part) s t ∧
        t = { s' with parts := t.parts, agenda := t.agenda, due := t.due, outs := t.outs } ∧
        t.part part = { s'.part part with fq := { (s'.part part).fq with
          tail := (q.tail + 1) % n, pass := if (q.tail + 1) % n = 0 then !q.pass else q.pass, seq := (q.seq + 1) % 2 ^ 32
          waiting := rest, times := q.times ++ [s'.now], armed := (t.part part).fq.armed } } ∧
        (∀ p, p ≠ part → t.part p = s'.part p) ∧ (rest ≠ [] → .faultRecordWrite part ∈ t.agenda)) ∧
  (let late := ∃ t rest, q.times = t :: rest ∧ t + 1000 * (q.cfg.toNat / 2 ^ 40 % 2 ^ 8) ≤ s.now
   let due := 0 < unread ∧ (max 1 (q.cfg.toNat / 2 ^ 32 % 2 ^ 8) ≤ unread ∨ late)
   (q.armed = true → due → ∃ t, Does (.faultQueueCoalesce part) s t ∧ t = { s with parts := t.parts, outs := s.outs ++ [vector] } ∧
     fq t { q with armed := false }) ∧
   (q.armed = false → Idle (.faultQueueCoalesce part) s)) ∧
  (∃ t, Does (.fqbaseWrite part v) s t ∧ t = { s with parts := t.parts, agenda := retry, mail := s.mail.filter fun m => m.agent != 64 + part } ∧
    fq t { q with base := BitVec.ofNat 64 (v.toNat / (64 * n) * (64 * n)), head := 0, tail := 0, err := false, pass := true, times := [] }) ∧
  ∃ t, Does (.fqheadWrite part v) s t ∧ t = { s with parts := t.parts, agenda := retry, due := t.due, outs := t.outs } ∧
    ((t.part part).fq.armed = true ∧ t.outs = s.outs ∨ (t.part part).fq.armed = false ∧ t.outs = s.outs ++ [vector]) ∧
    let step := (v.toNat % n + n - q.head) % n
    fq t (if step ≤ unread then { q with head := v.toNat % n, times := q.times.drop step, armed := (t.part part).fq.armed }
      else { q with armed := (t.part part).fq.armed })) ∧
  (∀ (s : State) (part : Nat) (v : DWord),
  part < 64 →
  let home := v.toNat / 2 ^ 32 % 2 ^ 8
  let k := v.toNat % 1024
  let h := s.home home
  let puts := fun (t : State) (h : Home) => t.home home = h ∧ ∀ n, n ≠ home → t.home n = s.home n
  let freed := { h with tokens := h.tokens.del k, gens := h.gens.store 0 k ((h.gens.getD k 0 + 1) % 2 ^ 22) }
  let live := fun (t : Token) => h.tokens.find? k = some t ∧ t.gen = v.toNat / 2 ^ 10 % 2 ^ 22 ∧ t.part = part ∧ t.dev = s.dev.no
  v.toNat / 2 ^ 40 % 2 ^ 8 = s.dev.no → home < 192 →
  ((∀ t, ¬live t) → ∀ e, (e = .replay part v ∧ v.toNat / 2 ^ 62 = 1) ∨ (e = .cancel part v ∧ v.toNat / 2 ^ 62 = 2) → ∃ u, Does e s u ∧
    u = { s with homes := u.homes } ∧ puts u { h with stale := min 65535 (h.stale + 1) }) ∧
  ∀ t, live t →
    (v.toNat / 2 ^ 62 = 1 → Does (.replay part v) s (t.held.foldl (fun u x => u.takeIn home x.1) (s.modHome home fun _ => freed))) ∧
    (v.toNat / 2 ^ 62 = 2 → (∀ x ∈ t.held, x.1.dev = s.dev.no ∧ ∃ q, x.1.client = .thread q) → ∃ u, Does (.cancel part v) s u ∧ puts u freed ∧
      u = { s with homes := u.homes, agenda := s.agenda ++ t.held.map fun x => .verdictArrival x.1 (.cancelled x.2) }))

/-- R31, R367, R408: a context that consumes poison has its grid killed: its teams leave their cores, a record is offered, and the grid
only completes any more, with status 7.
PC and address of the record are free values (log entries 4, 35). -/
def Obligations.KillResult : Prop := ∀ (s : State) (q : ThreadRef) (tm : Team) (gr : Group) (g : Grid),
  s.team? q.ctx = some tm → s.group? q.ctx q.grp = some gr → s.grids.find? tm.grid = some g → g.killed = false →
  ∃ t addr pc, Does (.poisonConsumed q) s t ∧ (∀ c x, t.team? c = some x → x.grid ≠ tm.grid) ∧ .gridComplete tm.grid ∈ t.agenda ∧
    (∃ hz, g.hmax ≤ hz ∧ t.grids.find? tm.grid = some { g with killed := true, status := some 7, away := [], hmax := hz, stalled := none }) ∧
    (∀ k, k ≠ tm.grid → t.grids.find? k = s.grids.find? k) ∧
    t.part g.part = { s.part g.part with
      counts := (t.part g.part).counts
      fq := { (s.part g.part).fq with waiting := (s.part g.part).fq.waiting ++
        [faultRecord 0 gr.core s.dev.no 0 g.dom 0 0xFE 0 q.ctx 0 s.now pc addr] } } ∧
    t = { s with teams := t.teams, cores := t.cores, pairs := t.pairs, clusters := t.clusters, slices := t.slices, parts := t.parts
                 grids := t.grids, dev := t.dev, agenda := t.agenda, due := t.due, outs := t.outs, nextId := t.nextId, fresh := s.fresh + 2 }

/-! ## Launch queues, grids and teams -/

/-- R169, R170, R172, R174, R175: a queue's LQCFG and LQWP; the taking of a record, which becomes a grid or is refused with a status; a
round of reads of wait-conditions; and the completion of a grid, 64 ns after its last horizon, with its signal, its interrupt and its
queue. Reads, checks and writes go to the homes of their pages, on any device, and a step waits for what a home has not answered (R119).
What an unreadable ring page does is the model's reading (log entry 38), and what a write to a removed page does (log entry 70). -/
def Obligations.LaunchQueueResult : Prop := ∀ (s : State) (part queue : Nat) (v : DWord),
  part < 64 → queue < 16 →
  let p := s.part part
  let q := p.queue queue
  let n := 2 ^ (min 11 q.logn + 4)
  let puts := fun (t : State) (k : LQueue) => t.part part = { p with queues := p.queues.put queue k } ∧ ∀ j, j ≠ part → t.part j = s.part j
  let anew := s.mail.filter fun m => !(m.agent == part && (m.n == 0 || m.acc == .load))
  (let on := v.getLsbD 8 && !p.clusters.isEmpty && decide (p.doms.1 ≤ (p.dom queue).toNat ∧ (p.dom queue).toNat < p.doms.1 + p.doms.2)
   ∃ t, Does (.launchQueueEnable part queue v) s t ∧ t = { s with parts := t.parts, mail := anew } ∧
     (q.en = true → puts t { q with en := v.getLsbD 8, rsvd := BitVec.ofNat 64 (v.toNat % 2 ^ 63 / 2 ^ 10 * 2 ^ 10 + q.rsvd.toNat % 2 ^ 10) }) ∧
     (q.en = false → puts t { q with
       logn := v.toNat % 2 ^ 4, prio := v.toNat / 2 ^ 4 % 4, dev := v.getLsbD 9, en := on, wp := if on then 0 else q.wp
       rsvd := BitVec.ofNat 64 (v.toNat % 2 ^ 63 / 2 ^ 10 * 2 ^ 10 + v.toNat / 2 ^ 6 % 4 * 2 ^ 6)
       rp := if on then 0 else q.rp, err := if on then false else q.err })) ∧
  (q.dev = true → Idle (.lqwpWrite part queue v) s) ∧
  (q.dev = false → ∃ t, Does (.lqwpWrite part queue v) s t ∧ t = { s with parts := t.parts, agenda := t.agenda } ∧
    puts t { q with wp := v.toNat % n } ∧ (∀ e ∈ s.agenda, e ∈ t.agenda) ∧ ∀ k ∈ t.waitingQueues part, .waitConditionPoll part k ∈ t.agenda) ∧
  (s.takeOpen part queue = false → Idle (.recordTake part queue) s) ∧
  (s.takeOpen part queue = true →
    (s.takeLook part queue = none → Does (.recordTake part queue) s (s.takeAsk part queue)) ∧
    (s.ringEntry part queue = some none →
      ∃ t, Does (.recordTake part queue) s t ∧ t = { s with parts := t.parts, mail := anew } ∧ puts t { q with err := true }) ∧
    ∀ bs keys csig st, s.ringEntry part queue = some (some bs) →
      (q.dev = true ∧ keys = some (keysOf (bs.drop 256)) ∨
        q.dev = false ∧ ∃ ks, s.dispRead (s.keyMail part queue) 64 = some ks ∧ keys = ks.map keysOf) →
      let r := parseRecord (bs.take 256)
      let dom := p.dom queue
      s.csigMay part dom r keys = some csig → s.refusal part dom r keys csig = some st →
      let waits := r.waits.any fun w => w.1 != 0
      ∃ t, Does (.recordTake part queue) s t ∧ puts t { q with rp := (q.rp + 1) % n, head := some s.nextId } ∧
        t.grids = s.grids.put s.nextId { part := part, queue := queue, dom := dom, keys := keys.getD [], lrec := r
                                         keysOk := keys.isSome, csigOk := csig, next := 0, away := [], slots := [], ended := 0, hmax := 0
                                         status := st, ready := if waits then none else some 0, blocked := none, blocks := false
                                         stalled := none, killed := false, told := false } ∧
        t = { s with parts := t.parts, grids := t.grids, nextId := s.nextId + 1, mail := anew, agenda := s.agenda ++
          if st.isSome then [.gridComplete s.nextId] else if waits then [.waitConditionPoll part queue] else [] }) ∧
  (∀ k g, queue ∈ s.waitingQueues part → q.head = some k → s.grids.find? k = some g →
    ((∃ w ∈ g.lrec.waits, s.condRead g w = none) →
      Does (.waitConditionPoll part queue) s ((s.condAsk g).pollAt part queue (s.clock + 64))) ∧
    ∀ (rs : List (Bool × Nat)), g.lrec.waits.map (s.condRead g) = rs.map some → ∃ mail,
      ((∀ c ∈ rs, c.1 = true) → Does (.waitConditionPoll part queue) s { s with
        mail := mail, grids := s.grids.put k { g with ready := some ((rs.map fun c => c.2).foldl max 0 + 64) } }) ∧
      ((∃ c ∈ rs, c.1 = false) → (∀ d ∈ s.due, d.2 ≠ .waitConditionPoll part queue) → Does (.waitConditionPoll part queue) s { s with
        mail := mail, due := s.due ++ [(s.clock + 6144, .waitConditionPoll part queue)] })) ∧
  ∀ k g, s.grids.find? k = some g → g.part = part → g.queue = queue →
    let ended := g.status ≠ none ∨ g.lrec.nteam ≤ g.ended
    let now := s.nowOn (s.seat part)
    let completes := fun (s' : State) => ∃ t mail, Does (.gridComplete k) s t ∧ t = { s' with
        mail := mail, parts := t.parts, grids := s'.grids.del k
        outs := s'.outs ++ if g.lrec.msien then [.msix (part + 1) g.lrec.msiv] else [] } ∧
      let q' := (s'.part part).queue queue
      t.part part = { s'.part part with queues := (s'.part part).queues.put queue (if q'.head = some k then { q' with head := none } else q') } ∧
      ∀ j, j ≠ part → t.part j = s'.part j
    let va := vaOf (relocate (BitVec.ofNat 13 (s.aptAt (s.seat part) g.dom.toNat).toNat) g.lrec.csig)
    let st := g.status.getD 0
    let stBytes := toBytes 8 (dw st).toNat
    let cvalBytes := toBytes 8 g.lrec.cval.toNat
    (¬ended → Idle (.gridComplete k) s) ∧
    (ended → now < g.hmax + 64 →
      Does (.gridComplete k) s { s with due := s.due ++ [(max (3 * (g.hmax + 64)) (s.clock + 2), .gridComplete k)] }) ∧
    (ended → g.hmax + 64 ≤ now → g.csigOk = false → completes s) ∧
    (ended → g.hmax + 64 ≤ now → g.csigOk = true →
      (∀ s2, s.signal k g = .error s2 → Does (.gridComplete k) s { s2 with due := s2.due ++ [(s2.clock + 64, .gridComplete k)] }) ∧
      (∀ o1 s1 o2 s2, g.told = false → s.podRmw part (va + 8) g.hmax .store stBytes (fun _ => st) = some (o1, s1) →
        (s1.modGrid k fun g => { g with told := true }).podRmw part va g.hmax (.atomic 11) cvalBytes
          (fun old => (old + g.lrec.cval.toNat) % 2 ^ 64) = some (o2, s2) → completes s2) ∧
      ∀ o2 s2, g.told = true → s.podRmw part va g.hmax (.atomic 11) cvalBytes (fun old => (old + g.lrec.cval.toNat) % 2 ^ 64) = some (o2, s2) →
        completes s2)

/-- R76, R137, R159, R164, R166, R173, R177, R178: a grid whose turn it is has its next team, or its next cluster set, put on the cores
found for it, once its images can be zeroed or read: new teams with new contexts, an image slot each, zeroed banks in their first slots, and
every thread ready at the entry. R11, R329, R377: a saved team resumes with the aperture index of the table; an image whose array part is of
an unknown layout ends the grid with status 7.
R76, R164, R175, R176, R181, R183, R376: a grid that has waited for room for 1 ms stops those of lower priority; a team that has ended
leaves its core, its banks go to the pool, and its grid counts it; a grid stall halts the teams of a grid that promises progress, and
makes the waiting threads of another take the grid-stall fault; a departing team writes its image, its header last, and a departed one stands
with its grid.
The places and context numbers are the model's reading (log entry 37). -/
def Obligations.TeamDispatchEndResult : Prop :=
  (∀ (s : State) (grid : Nat) (g : Grid) (ps : List Spot),
  s.grids.find? grid = some g → s.turn g.part = some (grid, ps) →
  let r := g.lrec
  let event := if r.cset then Instr.clusterSetDispatch grid else .teamDispatch grid
  let size := imageSize r.roles r.width
  let thread : Thread := { pc := r.entry, st := .ready, since := s.cycle }
  let made := fun (t : State) (p : Spot) (ctx leader slot : Nat) => ∃ x, t.team? ctx = some x ∧ x.grid = grid ∧ x.teamid = p.who.teamid ∧
    x.part = g.part ∧ x.queue = g.queue ∧ x.dom = g.dom ∧ x.width = r.width ∧ x.roles = r.roles ∧ x.entry = r.entry ∧ x.tvec = r.handler ∧
    x.core = p.core ∧ x.leader = leader ∧ x.apx = BitVec.ofNat 13 (s.aptAt (p.core / 96) g.dom.toNat).toNat ∧ x.keys = g.keys ∧ x.leaving = .no ∧ x.hs = 0 ∧ x.hw = 0 ∧
    x.image = s.poolBase g.part g.dom r + slot * size ∧
    (∀ k, (x.slot k).mode = if k < r.banks then (if r.pspan then .pair else .priv) else .empty) ∧
    ∀ i b, i < groupCount r.roles → p.bases.find? i = some b → x.groups.find? i = some
      { role := roleOf r.roles i, core := b.1, base := b.2, jo := r.jo, threads := (List.range r.width).map fun j => (j, thread) }
  let frame := fun (t : State) => t = { s with
    teams := t.teams, cores := t.cores, pairs := t.pairs, clusters := t.clusters, slices := t.slices, homes := t.homes, hbm := t.hbm
    host := t.host, banks := t.banks, grids := t.grids, parts := t.parts, dev := t.dev, agenda := t.agenda, outs := t.outs, mail := t.mail
    fresh := t.fresh, nextId := t.nextId }
  (s.spotsHeld g ps = false → Does event s (s.imagesAsk g (ps.map fun p => p.who))) ∧
  (s.spotsHeld g ps = true → s.spotsUnknown ps = true → ∃ t y, Does event s t ∧ t.grids.find? grid = some y ∧ y.status = some 7 ∧
    y.killed = true ∧ .gridComplete grid ∈ t.agenda) ∧
  (s.spotsHeld g ps = true → s.spotsUnknown ps = false →
    (∀ p, ps = [p] → p.who.away = none → r.cset = false →
      let slot := (g.freeSlots 1).headD 0
      ∃ t, Does event s t ∧ made t p s.nextId s.nextId slot ∧ frame t ∧
        t.grids = s.grids.put grid { g with next := g.next + 1, slots := g.slots.put slot s.nextId, blocked := none, blocks := false } ∧
        (t.part g.part).lastCore = some p.core ∧ t.fresh = s.fresh + r.banks ∧ s.nextId < t.nextId) ∧
    (∀ p a, ps = [p] → p.who.away = some a → r.cset = false →
      ∃ t x y, Does event s t ∧ frame t ∧ t.team? a.ctx = some x ∧ x.core = p.core ∧ x.leader = a.saved.leader ∧ x.leaving = .no ∧
        x.apx = BitVec.ofNat 13 (s.aptAt (p.core / 96) a.saved.dom.toNat).toNat ∧ x.image = a.saved.image ∧
        t.grids.find? grid = some y ∧ y = { g with away := g.away.filter fun b => b.teamid != a.teamid, blocked := none, blocks := false }) ∧
    (r.cset = true → (∀ p ∈ ps, p.who.away = none) →
      ∃ t, Does event s t ∧ frame t ∧
        (∀ p ∈ ps, ∃ ctx slot, s.nextId < ctx ∧ made t p ctx s.nextId slot) ∧
        (∃ y, t.grids.find? grid = some y ∧ y.next = g.next + ps.length ∧ y.blocked = none ∧ y.blocks = false) ∧
        (t.part g.part).lastCluster = (ps.head?.map fun p => p.core / 4) ∧ s.nextId + ps.length < t.nextId))) ∧
  (∀ (s : State) (grid ctx : Nat) (g : Grid),
  s.grids.find? grid = some g →
  (∀ t0, g.blocked = some t0 → t0 + 1000000 ≤ s.nowOn (s.seat g.part) →
    Does (.dispatchPriorityBlock grid) s { s with grids := s.grids.put grid { g with blocks := true } }) ∧
  (∀ (tm : Team), s.teamOver ctx = true → s.team? ctx = some tm → tm.grid = grid → (∀ q ∈ tm.window, q.2.stash = none) →
    let hz := (tm.groups.flatMap fun q => q.2.threads.map fun x => x.2.hzg).foldl max g.hmax
    let cl := tm.core / 4
    ∃ t, Does (.teamEnd ctx) s t ∧ t.team? ctx = none ∧ (∀ c, c ≠ ctx → t.team? c = s.team? c) ∧
      t.grids = s.grids.put grid { g with ended := g.ended + 1, hmax := hz, slots := List.filter (fun p => p.2 != ctx) g.slots } ∧
      (∀ q ∈ tm.window, q.2.mode ≠ .empty → (t.cluster cl).banks.find? q.2.bank = some ⟨none, true⟩ ∧ .bankZeroDone cl q.2.bank ∈ t.agenda) ∧
      (g.lrec.nteam ≤ g.ended + 1 → .gridComplete grid ∈ t.agenda) ∧
      t = { s with teams := t.teams, cores := t.cores, pairs := t.pairs, clusters := t.clusters, grids := t.grids, agenda := t.agenda
                   due := t.due, mail := t.mail }) ∧
  (s.stallDue g = true → g.lrec.prog = true → ∃ t, Does (.gridStallEvict grid) s t ∧
    t.grids = s.grids.put grid { g with stalled := none } ∧
    (∀ c x, s.team? c = some x → x.grid = grid → x.leaving = .no → ∃ y, t.team? c = some y ∧ y.leaving = .evicted) ∧
    (∀ j, t.part j = { s.part j with counts := (t.part j).counts }) ∧
    t = { s with teams := t.teams, clusters := t.clusters, banks := t.banks, grids := t.grids, parts := t.parts, dev := t.dev
                 outs := t.outs }) ∧
  (∀ (q : ThreadRef) (tm : Team) (gr : Group) (x : Thread), s.stallDue g = true → g.lrec.prog = false → CanTrap s q tm gr x → tm.grid = grid →
    x.arr = none →
    let waiting := s.teams.flatMap fun t => if t.2.grid = grid then
        t.2.groups.flatMap fun k => k.2.threads.filterMap fun y =>
          if s.waitsLong k.2.core ⟨t.1, k.1, y.1⟩ y.2 then some ((⟨t.1, k.1, y.1⟩ : ThreadRef), k.2.core, y.2.pc) else none
      else []
    waiting = [(q, gr.core, x.pc)] → ∃ t, Does (.gridStallFault grid) s t ∧ t.grids = s.grids.put grid { g with stalled := none } ∧
      t.thread? q = some { x with
        fcause := BitVec.ofNat 64 (0x19 + x.top / 8 % 2 ^ 16 * 2 ^ 16), faddr := 0, fpc := x.pc, top := x.top + 8, handler := true
        pc := tm.tvec, st := .ready, since := s.cycle } ∧
      ((t.core gr.core).laneLine q (x.top / 64)).map (fun y => lineGet y.data (x.top % 64) 8) = some x.pc.toNat ∧
      (∀ k, k ≠ q → t.thread? k = s.thread? k) ∧ t = { s with teams := t.teams, cores := t.cores, grids := t.grids }) ∧
  ∀ (tm : Team) (p : Nat × Nat), s.team? ctx = some tm → tm.grid = grid → List.find? (fun (p : Nat × Nat) => p.2 == ctx) g.slots = some p →
    let goes := fun (t : State) => Does (.teamDeparted ctx) s t ∧ (∀ k, k ≠ grid → t.grids.find? k = s.grids.find? k) ∧ t = { s with
      teams := t.teams, cores := t.cores, pairs := t.pairs, clusters := t.clusters, slices := t.slices, homes := t.homes
      hbm := t.hbm, host := t.host, banks := t.banks, grids := t.grids, parts := t.parts, dev := t.dev, agenda := t.agenda
      due := t.due, outs := t.outs, mail := t.mail, fresh := t.fresh, nextId := t.nextId }
    let gone := fun (t : State) (depart : Nat) => t.team? ctx = none ∧ ∃ y a, t.grids.find? grid = some y ∧ a ∈ y.away ∧
      y = { g with away := y.away } ∧ a.teamid = tm.teamid ∧ a.ctx = ctx ∧ a.slot = p.1 ∧ a.saved.depart = depart
    let saves := fun (t : State) (k depart : Nat) => ∃ y, t.team? ctx = some y ∧ y.saving = k ∧ y.depart = depart
    (tm.saving = 0 → s.departReady ctx = false → Idle (.teamDeparted ctx) s) ∧
    (tm.saving = 0 → s.departReady ctx = true →
      ∃ t, goes t ∧ (gone t (s.nowAt tm.core) ∨ saves t 1 (s.nowAt tm.core) ∨ saves t 2 (s.nowAt tm.core))) ∧
    (tm.saving = 1 → s.imageQuiet ctx tm = true → ∃ t, goes t ∧ (gone t tm.depart ∨ saves t 2 tm.depart)) ∧
    (tm.saving = 2 → s.imageQuiet ctx tm = true → ∃ t, goes t ∧ gone t tm.depart) ∧
    (tm.saving = 1 ∨ tm.saving = 2 → s.imageQuiet ctx tm = false →
      Does (.teamDeparted ctx) s (s.imageRetry tm.part tm.image (imageSize tm.roles tm.width))))

/-- R369, R370, R371: the pre-emption ladder. A request that is no stronger than the rung in progress is dropped. Soft stops the queues
and gives their teams GRACE; halt stops them, begins the halt of their resident teams and starts the kill timer; kill kills their grids
and ends the rung; resume starts queues. The timers climb.
RESUME during a rung is the model's reading (log entry 39). -/
def Obligations.LadderResult : Prop := ∀ (s : State) (part : Nat) (v : DWord),
  part < 64 →
  let p := s.part part
  let qs := if v.getLsbD 4 then List.range 16 else [v.toNat % 16]
  let quiet := s.due.filter fun d => d.2 != .graceExpiry part && d.2 != .killTimerExpiry part
  let rung := fun (t : State) (n : Nat) (qs : List Nat) => (∀ j, j ≠ part → t.part j = { s.part j with counts := (t.part j).counts }) ∧
    t.part part = { p with rung := n, targets := qs, queues := (t.part part).queues, counts := (t.part part).counts } ∧
    ∀ k, (t.part part).queue k = { p.queue k with stopped := (p.queue k).stopped || qs.contains k }
  let halts := fun (e : Instr) (qs : List Nat) => ∃ t, Does e s t ∧ rung t 2 qs ∧
    t = { s with teams := t.teams, clusters := t.clusters, banks := t.banks, parts := t.parts, dev := t.dev, outs := t.outs
                 due := quiet ++ [(s.clock + 300000 * max 1 (p.pcfg.toNat / 2 ^ 32 % 2 ^ 16), .killTimerExpiry part)] } ∧
    (∀ c x, s.team? c = some x → x.part = part → qs.contains x.queue = true → x.leaving = .no →
      ∃ y, t.team? c = some y ∧ y.leaving = .halted) ∧
    ∀ c, (∀ x, (c, x) ∈ s.teams → ¬(x.part = part ∧ qs.contains x.queue = true)) → t.team? c = s.team? c
  let kills := fun (e : Instr) (qs : List Nat) => ∃ t, Does e s t ∧ (∀ d ∈ t.due, d ∈ quiet) ∧ (t.part part).rung = 0 ∧ (t.part part).targets = [] ∧
    (∀ k g, s.grids.find? k = some g → g.part = part → qs.contains g.queue = true → g.status = none → g.ended < g.lrec.nteam →
      g.killed = false → (∃ y, t.grids.find? k = some y ∧ y.killed = true ∧ y.status = some 7 ∧ y.away = []) ∧ .gridComplete k ∈ t.agenda ∧
        ∀ c x, t.team? c = some x → x.grid ≠ k) ∧
    (∀ k, (∀ g, (k, g) ∈ s.grids → ¬(g.part = part ∧ qs.contains g.queue = true ∧ g.status = none ∧ g.ended < g.lrec.nteam)) →
      t.grids.find? k = s.grids.find? k) ∧
    t = { s with teams := t.teams, cores := t.cores, pairs := t.pairs, clusters := t.clusters, slices := t.slices, parts := t.parts
                 grids := t.grids, dev := t.dev, agenda := t.agenda, due := t.due, outs := t.outs, nextId := t.nextId }
  let grace := 3000 * (p.pcfg.toNat % 2 ^ 16)
  (1 ≤ p.rung → Idle (.softPreempt part v) s) ∧ (2 ≤ p.rung → Idle (.halt part v) s) ∧ (3 ≤ p.rung → Idle (.kill part v) s) ∧
  (p.rung ≠ 0 → Idle (.resume part v) s) ∧
  (p.rung = 0 → grace ≠ 0 → ∃ t, Does (.softPreempt part v) s t ∧ rung t 1 qs ∧
    t = { s with parts := t.parts, due := quiet ++ [(s.clock + grace, .graceExpiry part)] }) ∧
  (p.rung = 0 → grace = 0 → halts (.softPreempt part v) qs) ∧ (p.rung ≤ 1 → halts (.halt part v) qs) ∧ (p.rung ≤ 2 → kills (.kill part v) qs) ∧
  (p.rung = 0 → ∃ t, Does (.resume part v) s t ∧ t = { s with parts := t.parts } ∧ (∀ j, j ≠ part → t.part j = s.part j) ∧
    t.part part = { p with queues := (t.part part).queues } ∧
    ∀ k, (t.part part).queue k = { p.queue k with stopped := (p.queue k).stopped && !qs.contains k }) ∧
  (p.rung = 1 → halts (.graceExpiry part) p.targets) ∧ (p.rung ≠ 1 → Idle (.graceExpiry part) s) ∧
  (p.rung = 2 → kills (.killTimerExpiry part) p.targets) ∧ (p.rung ≠ 2 → Idle (.killTimerExpiry part) s)

/-! ## Partitions -/

/-- R384, R385, R386: a layout commit is refused as invalid or busy, or closes the queues of the partitions that change, flushes the
slices and zeroes the banks that change hands; when the flush has ended the journal takes PREP; then the validated sets go live in one
step; then the queues are released, but those of an aborted commit that is not covered. A restart of Bezel drops a commit prepared and not
yet flipped and completes one that was. R127, R380, R387, R388, R389: a partition's reset kills its work, frees its tokens, closes it and
flushes its slices; then power-cycles its clusters and drops what travels for it; then recalls its pages; and when every copy is home and no
lease runs, its frames are zeroed at every home and its registers return to reset. Budgets are refilled and charged.
What a restart and a purge leave is the model's reading (log entries 40, 72, 73). -/
def Obligations.LayoutResetResult : Prop :=
  (∀ (s : State) (a : List (Nat × Layout)) (b : List Nat),
  let d := s.dev
  let vary := fun (t : State) (p : Nat) => { s.part p with counts := (t.part p).counts }
  let released := fun (t : State) => let held := d.layHeld.filter fun g => !(g.all fun p => b.contains p)
    (∀ p, t.part p = if p ∈ b then { s.part p with closed := held.any fun g => g.contains p } else s.part p) ∧ t.dev.layHeld = held
  (d.layBusy = true → Idle .layoutCommit s) ∧
  (d.layBusy = false →
    (s.layoutBad = true → Does .layoutCommit s { s with dev := { d with layResult := 1, layBusy := false } }) ∧
    (s.layoutBad = false → (∃ p ∈ s.layoutA, s.partBusy p.1 = true) →
      Does .layoutCommit s { s with dev := { d with layResult := 2, layBusy := false } }) ∧
    (s.layoutBad = false → (∀ p ∈ s.layoutA, s.partBusy p.1 = false) → ∃ t, Does .layoutCommit s t ∧
      t.dev = { d with layBusy := true, layResult := 0, layA := s.layoutA, ports := t.dev.ports } ∧
      (∀ p, t.part p = if p ∈ s.layoutA.map Prod.fst then { vary t p with closed := true } else vary t p) ∧
      (∀ n ∈ s.movingSlices s.layoutA, (t.slice n).lines = []) ∧
      (∀ c ∈ s.movingClusters s.layoutA, ∀ k < 32, ∀ i < 131072, t.banks.get (bankAddr c k i) = 0#8) ∧
      t = { s with teams := t.teams, cores := t.cores, pairs := t.pairs, slices := t.slices, parts := t.parts, banks := t.banks
                   dev := t.dev, agenda := t.agenda, outs := t.outs })) ∧
  (d.journal = .idle → s.flushMore = true → Does .layoutFlip s (s.flushSlices (s.movingSlices d.layA))) ∧
  (d.journal = .idle → s.flushMore = false → s.flipReady = true → Does .layoutFlip s { s with dev := { d with journal := .prep d.layA } }) ∧
  (d.journal = .idle → s.flushMore = false → s.flipReady = false → Idle .layoutFlip s) ∧
  (d.journal = .prep a → (a.map Prod.fst).Nodup → ∃ t, Does .layoutFlip s t ∧
    (∀ p ∈ a, t.part p.1 = { s.part p.1 with live := p.2, lastCore := none, lastCluster := none } ∧
      ∀ k, k < 4 → t.sliceMask p.1 k = (p.2.sls k).toNat % 2 ^ 32) ∧
    (∀ p, p ∉ a.map Prod.fst → t.part p = s.part p) ∧
    t = { s with parts := t.parts, slicesets := t.slicesets, dev := { d with
      journal := .flip (a.map Prod.fst), layGen := if a = [] then d.layGen else d.layGen + 1 } }) ∧
  (d.journal = .flip b → ∃ t, Does .layoutFlip s t ∧ released t ∧
    t = { s with parts := t.parts, dev := { d with
      journal := .idle, layA := [], layHeld := t.dev.layHeld, layBusy := false, layResult := 0 } }) ∧
  let dogs := if d.watchdogs.any fun w => decide (s.now < w + 1000000000) then s.agenda ++ [.fatalError .watchdog] else s.agenda
  (d.journal = .idle → Does .bezelRestart s { s with dev := { d with watchdogs := [s.now] }, agenda := dogs }) ∧
  (d.journal = .prep a → ∃ t, Does .bezelRestart s t ∧
    (∀ p, t.part p = if p ∈ a.map Prod.fst then { s.part p with shadow := (s.part p).live } else s.part p) ∧
    t = { s with parts := t.parts, agenda := dogs, dev := { d with
      watchdogs := [s.now], journal := .idle, layA := [], layBusy := false, layResult := 3, layHeld := d.layHeld ++ [a.map Prod.fst] } }) ∧
  (d.journal = .flip b → ∃ t, Does .bezelRestart s t ∧ released t ∧
    t = { s with parts := t.parts, agenda := dogs, dev := { d with
      watchdogs := [s.now], journal := .idle, layA := [], layHeld := t.dev.layHeld, layBusy := false, layResult := 0 } })) ∧
  (∀ (s : State) (part : Nat),
  part < 64 →
  let p := s.part part
  let d := s.dev
  (d.layBusy = true → Idle (.partitionReset part) s) ∧
  (d.layBusy = false → ∃ t, Does (.partitionReset part) s t ∧
    (t.dev.layBusy = true ∧ t.dev.layResult = 0 ∧ t.dev.resetting = some part ∧ t.dev.cycled = false) ∧
    ((t.part part).closed = true ∧ (t.part part).fq.err = true) ∧
    (∀ k g, s.grids.find? k = some g → g.part = part → g.queue < 16 → g.status = none → g.ended < g.lrec.nteam → g.killed = false →
      ∃ y, t.grids.find? k = some y ∧ y.killed = true ∧ y.status = some 7) ∧
    (∀ h k x, (t.home h).tokens.find? k = some x → ¬(x.part = part ∧ x.dev = d.no)) ∧
    (∀ n ∈ p.live.slices, (t.slice n).lines = []) ∧
    t.hbm = s.hbm ∧ t.host = s.host ∧ t.clock = s.clock) ∧
  (d.resetting ≠ some part → Idle (.partitionResetDone part) s) ∧
  (d.resetting = some part → s.resetDue part = false → Idle (.partitionResetDone part) s) ∧
  (d.resetting = some part → s.resetDue part = true →
    (d.cycled = false → s.resetFlushes part = true → Does (.partitionResetDone part) s (s.flushSlices p.live.slices)) ∧
    (d.cycled = false → s.resetFlushes part = false →
      let u := s.cycleClusters p.clusters
      let v := u.purge part
      Does (.partitionResetDone part) s { v with dev := { v.dev with cycled := true } } ∧
      (∀ c ∈ p.clusters, u.cluster c = {} ∧ (∀ k, k / 4 = c → u.core k = {}) ∧ (∀ k, k / 2 = c → SMap.getD u.pairs k [] = []) ∧
        ∀ b < 32, ∀ i < 131072, u.banks.get (bankAddr c b i) = 0#8) ∧
      (∀ h, ∀ r ∈ (v.home h).heldReqs, ¬(r.part = part ∧ r.dev = d.no)) ∧ ∀ q ∈ v.dev.asked, ¬(q.2.2.part = part ∧ q.2.2.dev = d.no)) ∧
    (d.cycled = true → s.tagged part = true → Does (.partitionResetDone part) s (s.purge part)) ∧
    (d.cycled = true → s.tagged part = false → s.tenantDue part = false → Does (.partitionResetDone part) s (s.tenantRecall part)) ∧
    (d.cycled = true → s.tagged part = false → s.tenantDue part = true → (∀ h ∈ s.homes, h.2.heldReqs = []) →
      ∃ t, Does (.partitionResetDone part) s t ∧
        t.part part = { p with
          queues := [], fq := { waiting := p.fq.waiting.filter fun r => r.getLsbD 279 }, rung := 0, targets := [], pcfg := 0x00C8000000C8#64
          closed := d.layHeld.any fun g => g.contains part
          imported := false, lastCore := none, lastCluster := none, sharedBase := 0, sharedCount := 0 } ∧
        (∀ j, j ≠ part → t.part j = s.part j) ∧
        (∀ h < 192, ∀ f, p.frames.1 ≤ f → f < p.frames.1 + p.frames.2 → f < 65536 → ∀ i < 65536,
          t.hbm.get (chan h (f * 65536 + i)) = 0#8) ∧
        t = { s with teams := t.teams, cores := t.cores, pairs := t.pairs, slices := t.slices, homes := t.homes, hbm := t.hbm
                     host := t.host, parts := t.parts
                     dev := { d with qps := t.dev.qps, resetting := none, cycled := false, recalling := none, layResult := 0, layBusy := false } } ∧
        ∀ q ∈ t.dev.qps, q.1 / 64 ≠ part + 1)) ∧
  (∃ t, Does .budgetRefill s t ∧ t = { s with parts := t.parts } ∧ ∀ j,
    let k := s.part j
    t.part j = { k with
      tbal := (k.live.budg.toNat % 2 ^ 32 : Nat) + min k.tbal 0, ebal := (k.live.budg.toNat / 2 ^ 32 : Nat) + min k.ebal 0 }) ∧
  ∃ t, Does .energyCharge s t ∧ t = { s with parts := t.parts } ∧ ∀ j,
    let k := s.part j
    let pj := k.pj + (k.counts.map fun c => c.2 * (Config.energy c.1).toNat).sum
    t.part j = { k with tbal := k.tbal - (k.busy.length : Nat), busy := [], counts := [], ebal := k.ebal - (pj / 1000000 : Nat), pj := pj % 1000000 })

/-- R391: migration. An export of a halted partition whose session's key is at hand has the homes recall its pages, then seals its frame
window, its other pages, its windows, queues and grids in a blob and leaves the source as it is; a release scrubs the source and destroys
its key; an import rebuilds the blob in an idle partition of equal windows, which stays halted until it is confirmed; an import of another
session's blob, or without its key, scrubs the destination.
MSTAT's values, and the blob kept as its contents, are the model's (log entries 41, 42, 74). -/
def Obligations.MigrationResult : Prop := ∀ (s : State) (part : Nat) (session : DWord),
  part < 64 →
  let p := s.part part
  let d := s.dev
  let fails := fun (e : Instr) => Does e s { s with dev := { d with mstat := 1 } }
  let waits := fun (e : Instr) (v : Event) => (∀ q, d.recalling = some q → q ≠ part → Does e s { s with due := s.due ++ [(s.clock + 64, v)] }) ∧
    (d.recalling = none ∨ d.recalling = some part → s.tenantDue part = false →
      let u := s.tenantRecall part
      Does e s { u with due := u.due ++ [(s.clock + 64, v)] })
  let home := s.tenantDue part = true ∧ ∀ h ∈ s.homes, h.2.heldReqs = []
  let zeroed := fun (t : State) => ∀ h < 192, ∀ f, p.frames.1 ≤ f → f < p.frames.1 + p.frames.2 → f < 65536 → ∀ i < 65536,
    t.hbm.get (chan h (f * 65536 + i)) = 0#8
  let others := fun (t : State) => ∀ j, j ≠ part → t.part j = s.part j
  (s.halted part = false ∨ d.hasKey session = false → fails (.exportBlob part session)) ∧
  (s.halted part = true → d.hasKey session = true → waits (.exportBlob part session) (.exportBlob part session) ∧
    (home → ∃ t b, Does (.exportBlob part session) s t ∧ b ∈ t.dev.blobs ∧
      (b.addr = d.mblob ∧ b.session = session ∧ (b.fbase, b.fcount) = p.frames ∧ (b.dbase, b.dcount) = p.doms ∧ b.live = p.live ∧
        b.queues = p.queues ∧ b.grids = s.grids.filter (fun g => g.2.part == part)) ∧
      b.frames = (homeNos.map fun h => (h, t.sealedFrames part h)) ∧ b.pages = (homeNos.flatMap fun h => t.sealedPages part h) ∧
      t = { s with teams := t.teams, cores := t.cores, pairs := t.pairs, slices := t.slices, homes := t.homes, hbm := t.hbm, host := t.host
                   dev := { d with blobs := t.dev.blobs, transport := t.dev.transport, mstat := 0, recalling := none } })) ∧
  (s.halted part = false → fails (.migrationRelease part)) ∧
  (s.halted part = true → waits (.migrationRelease part) (.migrationRelease part) ∧
    (home → ∃ t, Does (.migrationRelease part) s t ∧ t.dev.mstat = 0 ∧ (∀ k ∈ t.dev.transport, k ≠ d.msess) ∧ d.msess ∈ t.dev.destroyed ∧
      (t.part part).queues = [] ∧ (t.part part).fq = { waiting := p.fq.waiting.filter fun r => r.getLsbD 279 } ∧
      (t.part part).live = p.live ∧ (∀ g ∈ t.grids, g.2.part ≠ part) ∧ zeroed t ∧ others t)) ∧
  (s.partBusy part = true ∨ (∃ g ∈ s.grids, g.2.part = part) → fails (.importBlob part session)) ∧
  (s.partBusy part = false → (∀ g ∈ s.grids, g.2.part ≠ part) →
    let scrubs := fun (code : Nat) => waits (.importBlob part session) (.importBlob part session) ∧ (home → ∃ t, Does (.importBlob part session) s t ∧
      t.dev.mstat = dw code ∧ zeroed t ∧ others t ∧ t.part part = p)
    (d.blobs.find? (fun b => b.addr == d.mblob) = none → scrubs 1) ∧
    ∀ b, d.blobs.find? (fun b => b.addr == d.mblob) = some b →
      ((b.fcount ≠ p.frames.2 ∨ b.dcount ≠ p.doms.2) → fails (.importBlob part session)) ∧
      (b.fcount = p.frames.2 → b.dcount = p.doms.2 →
        (b.session ≠ session → scrubs 1) ∧ (b.session = session → d.hasKey session = false → scrubs 2) ∧
        (b.session = session → d.hasKey session = true →
          let pages := (b.pages.filter fun x => pTier x.2.1 == 0) ++ b.pages.filter fun x => pTier x.2.1 != 0
          ((s.importFrames b p).importPages b p pages = none → scrubs 1) ∧
          ∀ s', (s.importFrames b p).importPages b p pages = some s' →
            ∃ t, Does (.importBlob part session) s t ∧ t.dev.mstat = 0 ∧ (t.part part).imported = true ∧
              (∀ k q, b.queues.find? k = some q → ((t.part part).queue k).stopped = true) ∧ (t.part part).live = p.live ∧ others t))) ∧
  (p.imported = false → fails (.confirm part)) ∧
  (p.imported = true → ∃ t, Does (.confirm part) s t ∧ t.part part = { p with imported := false } ∧ others t ∧ d.msess ∈ t.dev.destroyed ∧
    t = { s with parts := t.parts, dev := { d with
      transport := d.transport.filter fun k => k != d.msess, destroyed := t.dev.destroyed, mstat := 0 } })

/-! ## Links and the network -/

/-- R133, R388, R392, R394, R395, R396, R397, R398: a flit is checked for its CRC, its tag and its sequence, and what is in order is
acknowledged and delivered; a NAK makes the sender replay, the eighth makes the port retrain; a port that goes down sends its requests
over another. Pod time follows the reference device; bridges count flits; the host link trains. R399, R400: a queue pair. A posted send or
receive whose key allows its buffer is queued, and the send's buffer is read line after line; an arrived send meets the oldest receive, is
answered not ready without one, and ends the queue pair where it does not fit; one-sided requests are refused; answers complete, repeat or
end sends.
The codes of NAKs, the fate of work whose check fails and the interval of retries are the model's (log entries 21, 30, 43, 45). -/
def Obligations.FabricNetworkResult : Prop :=
  (∀ (s : State) (port : Nat),
  port < 32 →
  let d := s.dev
  let q := s.port port
  let ports := fun (k : Port) => d.ports.put port k
  let tells := fun (o : Out) => { s with outs := s.outs ++ [o] }
  (∀ f : FabricFlit,
    let ahead := (f.seq - q.ack).toNat
    (q.up = false → Idle (.fabricFlitReceive port f) s) ∧
    (q.up = true →
      (f.crcOk = false → Does (.fabricFlitReceive port f) s (tells (.fabricNak port q.ack))) ∧
      (f.crcOk = true → f.tagOk = false → Does (.fabricFlitReceive port f) s { s with
        dev := { d with ports := ports { q with up := false } }, outs := s.outs ++ [.log 1], agenda := s.agenda ++ [.portDown port] }) ∧
      (∀ k, f.crcOk = true → f.tagOk = true → (q.replay.take q.out).findIdx? (fun x => x.flit.seq == f.ack) = some k → ahead = 0 →
        q.replay.length ≤ q.out → Does (.fabricFlitReceive port f) s { s with dev := { d with ports := ports { q with
          replay := q.replay.drop (k + 1), out := q.out - (k + 1), replays := 0, epoch := (epochOf (q.replay.take (k + 1))).getD q.epoch } } }) ∧
      (f.crcOk = true → f.tagOk = true → (∀ x ∈ q.replay.take q.out, x.flit.seq ≠ f.ack) →
        (ahead = 0 ∨ 2 ^ 15 ≤ ahead → Idle (.fabricFlitReceive port f) s) ∧
        (1 < ahead → ahead < 2 ^ 15 → Does (.fabricFlitReceive port f) s (tells (.fabricNak port q.ack))) ∧
        (ahead = 1 →
          let s' := { s with dev := { d with ports := ports { q with ack := f.seq, received := q.received + 1 } } }
          let fits := (f.msgs.map msgFlits).sum = f.count.toNat ∧
            ∀ m ∈ f.msgs, msgVc m = f.vc ∧ (f.vc = 3 ∨ msgPart m % 64 = f.ptag.toNat)
          (¬fits → Does (.fabricFlitReceive port f) s { s' with outs := s.outs ++ [.log 1] }) ∧
          (fits → f.vc ≠ 3 → f.dest.toNat ≠ d.no → Does (.fabricFlitReceive port f) s s') ∧
          (fits → f.vc = 3 ∨ f.dest.toNat = d.no →
            Does (.fabricFlitReceive port f) s (f.msgs.foldl (fun s m => s.receive port f.src.toNat m) s')))))) ∧
  (∀ (src home : Nat) (r : Req), home < 192 → (r.dev, r.id) ∉ d.served → s.receive port src (.request home r) =
    { s with dev := { d with served := d.served ++ [(r.dev, r.id)] }, agenda := s.agenda ++ [.homeRequest home r] }) ∧
  (∀ src e, s.receive port src (.keyUpdate e) = { s with dev := { d with ports := ports { q with rxEpoch := e } } }) ∧
  (∀ (src : Nat) (r : Req) (g : Grant) (lend w : Nat) (tag : DWord), (∀ a ∈ d.asked, a.2.2.id ≠ r.id) →
    s.receive port src (.lease r g lend) = s ∧ s.receive port src (.accepted r w tag) = s ∧ s.receive port src (.grant r g) = s) ∧
  (q.up = true → q.retraining = false → q.out ≠ 0 →
    (8 ≤ q.replays → Does (.fabricNak port) s { s with dev := { d with ports := ports { q with retraining := true } } }) ∧
    (q.replays < 8 → Does (.fabricNak port) s { s with
      dev := { d with ports := ports { q with replays := q.replays + 1 } }
      outs := s.outs ++ (q.replay.take q.out).map fun f => .fabric port f.flit f.epoch f.n })) ∧
  (let down := fun (asked : List (Nat × Nat × Req)) =>
      { s with dev := { d with ports := ports { q with up := false, retraining := false, replay := [], out := 0, replays := 0 }, asked := asked } }
   (q.replay = [] → (∀ x ∈ d.asked, x.2.1 ≠ port) → Does (.portDown port) s (down d.asked)) ∧
    (∀ k r, q.replay = [] → (d.asked.filter fun x => x.2.1 == port) = [(k, port, r)] →
      Does (.portDown port) s ((down (d.asked.filter fun x => x.2.1 != port)).askDevice k (s.homeOf r.die r.va.toNat).2 r)) ∧
    ∀ f m, q.replay = [f] → f.flit.msgs = [m] → staysBehind m = false → (∀ x ∈ d.asked, x.2.1 ≠ port) →
      Does (.portDown port) s ((down d.asked).toDevice f.flit.dest.toNat (msgVa m) m)) ∧
  (q.up = false ∨ q.sent < (q.epoch.toNat + 1) * 2 ^ 40 ∨ epochOf q.replay ≠ none → Idle (.fabricKeyUpdate port) s) ∧
  (q.up = true → q.retraining = false → (q.epoch.toNat + 1) * 2 ^ 40 ≤ q.sent → q.replay = [] → q.out = 0 →
    let f : FabricFlit := { crcOk := true, tagOk := true, seq := q.seq, ack := q.ack, ptag := 0, vc := 3, count := 0, src := BitVec.ofNat 8 d.no
                            dest := BitVec.ofNat 8 d.no, msgs := [.keyUpdate (q.epoch + 1)] }
    Does (.fabricKeyUpdate port) s { s with
      dev := { d with ports := ports { q with replay := [⟨f, q.epoch, q.sent⟩], out := 1, seq := q.seq + 1, sent := q.sent + 1 } }
      outs := s.outs ++ [.fabric port f q.epoch q.sent] }) ∧
  (q.replay.length ≤ q.out → Does (.portRetrainDone port true) s { s with
    dev := { d with ports := ports { q with up := true, retraining := false, replays := 0 } }
    outs := s.outs ++ (q.replay.take q.out).map fun f => .fabric port f.flit f.epoch f.n }) ∧
  Does (.portRetrainDone port false) s { s with agenda := s.agenda ++ [.portDown port] } ∧
  (∀ t, (s.now + 8 < t → Does (.podTimeFlit t) s { s with clock := 3 * t, dev := { d with podRef := t } }) ∧
    (t ≤ s.now + 8 → s.now ≤ t + 8 → Does (.podTimeFlit t) s { s with dev := { d with podRef := s.now } }) ∧
    (t + 8 < s.now → Idle (.podTimeFlit t) s)) ∧
  (d.podRef + 1000000 ≤ s.now → Does .podTimeLoss s { s with agenda := s.agenda ++ [.fatalError .podTime] }) ∧
  (s.now < d.podRef + 1000000 → Idle .podTimeLoss s) ∧
  (∀ b < 8, ∀ f : BridgeFlit, f.count ≤ 7 →
    let k := d.bridges.getD b {}
    let what := (f.vc, f.count)
    let puts := fun (k : Bridge) => { d with bridges := d.bridges.put b k }
    (f.crcOk = true → k.again = none ∨ k.again = some what → Does (.ucieFlitReceive b f) s { s with dev := puts { k with
      received := k.received + 1, mesh := k.mesh.store 0 f.vc.toNat (k.mesh.getD f.vc.toNat 0 + f.count), again := none } }) ∧
    (f.crcOk = true → k.again ≠ none → k.again ≠ some what → Idle (.ucieFlitReceive b f) s) ∧
    (f.crcOk = false → Does (.ucieFlitReceive b f) s { s with
      dev := puts { k with naks := k.naks + 1, again := some (k.again.getD what) }, outs := s.outs ++ [.bridgeNak b] })) ∧
  ∀ rate width,
    let ok := rate ∈ [25, 50, 80, 160, 320, 640] ∧ width ∈ [1, 2, 4, 8, 16]
    (ok → Does (.hostLinkTraining rate width) s { s with dev := { d with linkRate := rate, linkWidth := width } }) ∧
    (¬ok → Idle (.hostLinkTraining rate width) s)) ∧
  (∀ (s : State) (fn qp : Nat),
  1 ≤ fn → fn ≤ 64 → qp < 64 →
  let d := s.dev
  let q := s.qp fn qp
  let qps := fun (k : QueuePair) (os : List Out) => { s with dev := { d with qps := d.qps.put (fn * 64 + qp) k }, outs := s.outs ++ os }
  let tells := fun (os : List Out) => { s with outs := s.outs ++ os }
  (q.error = true → (∀ ptr len imm, Idle (.postSend fn qp ptr len imm) s) ∧ ∀ ptr len, Idle (.postReceive fn qp ptr len) s) ∧
  (q.error = false → q.posts = [] → s.podFails (netAgent fn) 2 (vaOf q.kset) 64 = false →
    let apx := BitVec.ofNat 13 (s.aptAt (s.seat (384 + fn)) q.dom.toNat).toNat
    let work := fun (ptr : DWord) (len : Nat) (imm : Option Word) (keys : List Word) (psn : Nat) =>
      ({ ptr := relocate apx ptr, host := hostForm ptr, len := len, gkid := locketGkid keys (relocate apx ptr), dom := q.dom, imm := imm
         psn := psn, got := [], pos := 0, asked := none, sent := false, tries := 0 } : NetWork)
    (s.podRead (netAgent fn) 2 (vaOf q.kset) 64 = none →
      (∀ ptr len imm, Does (.postSend fn qp ptr len imm) s
        ((qps { q with posts := [⟨false, ptr, len, imm⟩] } []).podAsk (fn - 1) (netAgent fn) 2 (vaOf q.kset) 64)) ∧
      ∀ ptr len, Does (.postReceive fn qp ptr len) s
        ((qps { q with posts := [⟨true, ptr, len, none⟩] } []).podAsk (fn - 1) (netAgent fn) 2 (vaOf q.kset) 64)) ∧
    ∀ ks, s.podRead (netAgent fn) 2 (vaOf q.kset) 64 = some ks → ∃ mail,
      let keys := (List.range 16).map fun k => wd (ofBytes ((ks.drop (4 * k)).take 4))
      let taken := fun (k : QueuePair) (os : List Out) => { qps k os with mail := mail }
      (∀ ptr len imm, locketOk keys (relocate apx ptr) 0 = false → Does (.postSend fn qp ptr len imm) s (taken q [])) ∧
      (∀ ptr len, locketOk keys (relocate apx ptr) 1 = false → Does (.postReceive fn qp ptr len) s (taken q [])) ∧
      (∀ ptr len imm, locketOk keys (relocate apx ptr) 0 = true →
        let w := work ptr len imm keys q.psn
        let psn := (q.psn + max 1 ((len + 4095) / 4096)) % 2 ^ 24
        (∀ x, q.sends.find? (fun x => !x.sent) = some x → x.asked ≠ none →
          Does (.postSend fn qp ptr len imm) s (taken { q with sends := q.sends ++ [w], psn := psn } [])) ∧
        (q.sends = [] → 0 < len → ∃ r, Does (.postSend fn qp ptr len imm) s (State.toHome
            { taken { q with sends := [{ w with asked := some s.nextId }], psn := psn } [] with nextId := s.nextId + 1 } r) ∧
          r.id = s.nextId ∧ r.client = .net fn qp ∧ r.acc = .load ∧ r.va = BitVec.ofNat 60 (vaOf w.ptr) ∧ r.gkid = w.gkid ∧ r.dom = q.dom ∧
          r.size = min len (64 - vaOf w.ptr % 64)) ∧
        (q.sends = [] → len = 0 → Does (.postSend fn qp ptr len imm) s
          (taken { q with sends := [{ w with sent := true }], psn := psn } [.netSend fn qp q.psn 0 [] imm]))) ∧
      ∀ ptr len, locketOk keys (relocate apx ptr) 1 = true →
        Does (.postReceive fn qp ptr len) s (taken { q with recvs := q.recvs ++ [work ptr len none keys 0] } [])) ∧
  (∀ psn data imm,
    (q.error = true → Does (.rdmaSendArrival fn qp psn data imm) s (tells [.netNak fn qp psn 2])) ∧
    (q.error = false → q.recvs = [] → Does (.rdmaSendArrival fn qp psn data imm) s (tells [.netNak fn qp psn 0])) ∧
    ∀ w rest, q.error = false → q.recvs = w :: rest →
      (w.len < data.length → Does (.rdmaSendArrival fn qp psn data imm) s
        (qps { q with recvs := rest, error := true } [.netDone fn qp .remoteAccessViolation, .netNak fn qp psn 2])) ∧
      (data = [] → q.pending = [] → w.asked = none → w.pos = 0 → Does (.rdmaSendArrival fn qp psn data imm) s
        (qps { q with recvs := rest } [.netDone fn qp (.received 0 imm), .netAck fn qp psn])) ∧
      (data ≠ [] → data.length ≤ w.len → q.pending = [] → w.asked = none → w.pos = 0 →
        let k := min data.length (min w.len (64 - vaOf w.ptr % 64))
        ∃ r, Does (.rdmaSendArrival fn qp psn data imm) s (State.toHome { qps { q with
            recvs := rest, pending := [{ w with got := data, imm := imm, psn := psn, asked := some s.nextId }] } [] with nextId := s.nextId + 1 } r) ∧
          r.id = s.nextId ∧ r.client = .net fn qp ∧ r.acc = .store ∧ r.va = BitVec.ofNat 60 (vaOf w.ptr) ∧ r.size = k ∧
          r.data = BitVec.ofNat 512 (ofBytes (data.take k)))) ∧
  (∀ psn, Does (.rdmaRequestArrival fn qp psn) s (tells [.netNak fn qp psn 1])) ∧
  ∀ psn,
    let others := q.sends.filter fun x => x.psn != psn
    (q.sends.find? (fun w => w.sent && w.psn == psn) = none →
      Idle (.rnrNak fn qp psn) s ∧ ∀ ok, Idle (.transportAckArrival fn qp psn ok) s) ∧
    ∀ w, q.sends.find? (fun w => w.sent && w.psn == psn) = some w →
      (w.tries < q.rnr → Does (.rnrNak fn qp psn) s
        (qps { q with sends := q.sends.map fun x => if x.psn = psn then { x with tries := x.tries + 1 } else x }
          [.netSend fn qp w.psn w.len w.got w.imm])) ∧
      (q.rnr ≤ w.tries → Does (.rnrNak fn qp psn) s (qps { q with sends := others } [.netDone fn qp .rnrError])) ∧
      Does (.transportAckArrival fn qp psn true) s (qps { q with sends := others } [.netDone fn qp .sent]) ∧
      Does (.transportAckArrival fn qp psn false) s (qps { q with sends := others, error := true } [.netDone fn qp .remoteAccessError]))

/-! ## Bezel -/

/-- R394, R401, R402, R403, R404, R407, R408, R409: boot verifies and measures firmware, loads the route table, and recovers where it may not; a full reset leaves what
lies outside the part and Bezel's retained memory; the life cycle moves by provisioning and by a signed token; confidential mode waits for
the next reset; a shared range lies in its partition's window; a scrub poisons what it cannot correct; a fatal error stops all work. R405,
R406: SPDM. A request out of its place in the exchange is answered with an error; one in its place changes its function's responder as the
exchange goes on, and the answer to GET_MEASUREMENTS carries the six registers and, for a virtual function, the block of its partition.
R392: the physical function's session sets the keys of the IDE streams as its handshake finishes (log entry 75), and they go with it.
The order of SPDM requests, their codes and the codes of the life cycle are the model's (log entries 46, 47); free values stand for signatures (log entry 4)
and for the routes (log entry 43). -/
def Obligations.TrustResult : Prop :=
  (∀ (s : State),
  let d := s.dev
  let sets := fun (d : Device) => { s with dev := d }
  let fresh := fun (life : LifeCycle) (conf identity : Bool) => { State.reset with
    clock := s.clock, skew := s.skew, inputs := s.inputs, oracle := s.oracle, fresh := s.fresh, nextId := s.nextId, host := s.host
    outs := s.outs
    dev := { no := d.no, life := life, conf := conf, confPending := conf, identity := identity, fused := d.fused, seats := d.seats, journal := d.journal
             watchdogs := d.watchdogs, summary := d.summary, podRef := s.clock / 3 } }
  let extended := fun (m : SMap (BitVec 512)) (k : Nat) (x : BitVec 512) => m.store 0 k (lineOf (sha512 (lineBytes (m.getD k 0) ++ lineBytes x)))
  (d.life ≠ .blank →
    (∀ n k, k < 256 → (routeTable n).getD k 0 = BitVec.ofNat 32 (Config.freeBits (n + k)).toNat) ∧
    Does (.bezelBoot []) s { s with
      fresh := s.fresh + 257
      dev := { d with recovery := false, meas := extended d.meas 5 (Config.freeBits s.fresh), routes := routeTable (s.fresh + 1) } } ∧
    ∀ i, (i.sigOk = true → d.fused.getD i.reg 0 ≤ i.version → Does (.bezelBoot [i]) s { s with
        fresh := s.fresh + 257
        dev := { d with recovery := false, meas := extended (extended d.meas i.reg i.digest) 5 (Config.freeBits s.fresh)
                        routes := routeTable (s.fresh + 1) } }) ∧
      (i.sigOk = false ∨ i.version < d.fused.getD i.reg 0 → ∀ is, Does (.bezelBoot (i :: is)) s { s with
        fresh := s.fresh + 1, dev := { d with recovery := true } })) ∧
  (d.life = .blank → ∀ is, ∃ t, Does (.bezelBoot is) s t ∧ t.dev.recovery = true ∧
    t = { s with fresh := s.fresh + 1, dev := { d with recovery := true, meas := t.dev.meas } }) ∧
  Does .fullReset s (fresh d.life d.confPending d.identity) ∧
  (d.life = .blank → Does .provision s (fresh .provisioned d.confPending true)) ∧ (d.life ≠ .blank → Idle .provision s) ∧
  (d.life = .deployed → Does (.serviceToken true) s (fresh .service false d.identity)) ∧
  (∀ ok, d.life ≠ .deployed ∨ ok = false → Idle (.serviceToken ok) s) ∧
  (∀ on, (d.life = .service → Idle (.confidentialModeRequest on) s) ∧
    (d.life ≠ .service → Does (.confidentialModeRequest on) s (sets { d with confPending := on }))) ∧
  (∀ part base count, part < 64 →
    let w := (s.part part).frames
    let ok := (∃ x ∈ (d.spdm.getD (part + 1) {}).sessions, x.2.1 = true) ∧ w.1 ≤ base ∧ base + count ≤ w.1 + w.2
    (ok → ∃ t, Does (.setSharedRange part base count) s t ∧ t = { s with parts := t.parts } ∧
      t.part part = { s.part part with sharedBase := base, sharedCount := count } ∧ ∀ j, j ≠ part → t.part j = s.part j) ∧
    (¬ok → Idle (.setSharedRange part base count) s)) ∧
  (∀ n, Idle (.patrolScrub (.sram n)) s) ∧
  (∀ dpa, ((Config.freeBits s.fresh).getLsbD 0 = false ∨ s.dpaLine dpa = none →
      Does (.patrolScrub (.hbm dpa)) s { s with fresh := s.fresh + 1 }) ∧
    ∀ h line off, (Config.freeBits s.fresh).getLsbD 0 = true → s.dpaLine dpa = some (h, line, off) →
      ∃ t, Does (.patrolScrub (.hbm dpa)) s t ∧ t = { s with homes := t.homes, fresh := s.fresh + 1 } ∧ line ∈ (t.home h).poison ∧
        t.home h = { s.home h with poison := (t.home h).poison } ∧ ∀ k, k ≠ h → t.home k = s.home k) ∧
  ∀ c, (d.dumpbase = 0 → Does (.fatalError c) s { s with dev := { d with fatal := true, summary := some c }, outs := s.outs ++ [.aer] }) ∧
    (d.dumpbase ≠ 0 → Does (.fatalError c) s { s with dev := { d with fatal := true }, outs := s.outs ++ [.dump d.dumpbase, .aer] })) ∧
  (∀ (s : State) (fn : Nat) (session : DWord) (nonce : BitVec 256) (point : BitVec 768),
  fn < 65 →
  let d := s.dev
  let q := d.spdm.getD fn {}
  let errs := fun (e : Instr) (code : Nat) => Does e s { s with outs := s.outs ++ [.spdmError fn code] }
  let answers := fun (e : Instr) (code : Nat) (fields : List (BitVec 512)) (k : Spdm) => Does e s { s with
    fresh := s.fresh + 1, dev := { d with spdm := d.spdm.put fn k }, outs := s.outs ++ [.spdm fn code fields s.fresh] }
  let ready := q.algs = true ∧ d.identity = true
  let has := fun (done : Bool) => ∃ x ∈ q.sessions, x.1 = session ∧ x.2.1 = done
  let wide := session.zeroExtend 512
  let p := s.part (fn - 1)
  let block := [p.live.clm0, p.live.clm1, p.live.sls0, p.live.sls1, p.live.sls2, p.live.sls3, p.live.memw, BitVec.ofNat 64 p.sharedBase,
    BitVec.ofNat 64 p.sharedCount, if d.conf then 1 else 0, BitVec.ofNat 64 d.life.code, BitVec.ofNat 64 d.layGen].map fun w => w.zeroExtend 512
  answers (.getVersion fn) 1 [0x13] { q with version := true, caps := false, algs := false } ∧
  (q.version = true → answers (.getCapabilities fn) 2 [] { q with caps := true }) ∧ (q.version = false → errs (.getCapabilities fn) 2) ∧
  (q.caps = true → answers (.negotiateAlgorithms fn) 3 [] { q with algs := true }) ∧ (q.caps = false → errs (.negotiateAlgorithms fn) 3) ∧
  (ready → answers (.getDigests fn) 4 [] q ∧ answers (.getCertificate fn) 5 [] q ∧
    answers (.challenge fn nonce) 6 [nonce.zeroExtend 512] q ∧
    answers (.getMeasurements fn nonce) 7 (nonce.zeroExtend 512 :: ((List.range 6).map fun k => d.meas.getD k 0) ++
      if fn = 0 then [] else block) q ∧
    (point ≠ 0 → answers (.keyExchange fn session point) 8 [wide]
      { q with sessions := (q.sessions.filter fun x => x.1 != session) ++ [(session, false, 0)] })) ∧
  (¬ready → errs (.getDigests fn) 4 ∧ errs (.getCertificate fn) 5 ∧ errs (.challenge fn nonce) 6 ∧ errs (.getMeasurements fn nonce) 7) ∧
  (¬ready ∨ point = 0 → errs (.keyExchange fn session point) 8) ∧
  (has false →
    let k := { q with sessions := q.sessions.map fun x => if x.1 = session then (x.1, true, x.2.2) else x }
    (fn ≠ 0 → answers (.finish fn session true) 9 [wide] k) ∧
    (fn = 0 → Does (.finish fn session true) s { s with
      fresh := s.fresh + 1, outs := s.outs ++ [.spdm fn 9 [wide] s.fresh]
      dev := { d with spdm := d.spdm.put fn k, ide := some session, destroyed := d.destroyed.filter fun x => x != session } })) ∧
  (∀ ok, ¬has false ∨ ok = false → errs (.finish fn session ok) 9) ∧
  (has true → answers (.keyUpdate fn session) 10 [wide]
    { q with sessions := q.sessions.map fun x => if x.1 = session then (x.1, x.2.1, x.2.2 + 1) else x }) ∧
  (¬has true → errs (.keyUpdate fn session) 10) ∧
  ((∃ x ∈ q.sessions, x.1 = session) →
    let k := { q with sessions := q.sessions.filter fun x => x.1 != session }
    (fn ≠ 0 ∨ d.ide ≠ some session → answers (.endSession fn session) 11 [wide] k) ∧
    (fn = 0 → d.ide = some session → Does (.endSession fn session) s { s with
      fresh := s.fresh + 1, outs := s.outs ++ [.spdm fn 11 [wide] s.fresh], dev := { d with spdm := d.spdm.put fn k, ide := none } })) ∧
  ((∀ x ∈ q.sessions, x.1 ≠ session) → errs (.endSession fn session) 11))

/-- R380: a core, a cluster or a slice that holds no resident work is gated, what it stored zeroed, a core with its pair cache, a cluster with its
cores, banks and barrier registers, a slice's lines given up first; a unit
is woken with nothing stored; one in use stays as it is.
Which units hold resident work is the model's reading (log entry 49). -/
def Obligations.PowerResult : Prop := ∀ (s : State) (n : Nat),
  let used := fun (on : Nat → Prop) => ∃ t ∈ s.teams, ∃ g ∈ t.2.groups, on g.2.core
  let empty := fun (k : Core) => { k with icache := [], once := [], lanes := [], rc := [], rcAsked := [], refused := [] }
  let clean := fun (on : Nat → Prop) (t : State) => (∀ k, on k → t.pair (k / 2) = []) ∧ ∀ p, (∀ k, on k → k / 2 ≠ p) → t.pair p = s.pair p
  let core := fun (e : Instr) (gated : Bool) => ∃ t, Does e s t ∧ t.core n = { empty (s.core n) with gated := gated } ∧
    (∀ k, k ≠ n → t.core k = s.core k) ∧ clean (fun k => k = n) t ∧ t = { s with cores := t.cores, pairs := t.pairs }
  let cluster := fun (e : Instr) (gated : Bool) => ∃ t, Does e s t ∧ t.cluster n = { s.cluster n with gated := gated, bars := [] } ∧
    (∀ k, k ≠ n → t.cluster k = s.cluster k) ∧ (∀ b < 32, ∀ i < 131072, t.banks.get (bankAddr n b i) = 0#8) ∧
    (∀ k, t.core k = if k / 4 = n then empty (s.core k) else s.core k) ∧ clean (fun k => k / 4 = n) t ∧
    t = { s with clusters := t.clusters, banks := t.banks, cores := t.cores, pairs := t.pairs }
  (n < 384 →
    (used (fun c => c = n) → Idle (.unitPowerGate (.core n)) s) ∧ (¬used (fun c => c = n) → core (.unitPowerGate (.core n)) true) ∧
    ((s.core n).gated = true → core (.unitPowerWake (.core n)) false) ∧
    ((s.core n).gated = false → Idle (.unitPowerWake (.core n)) s)) ∧
  (n < 96 →
    (used (fun c => c / 4 = n) → Idle (.unitPowerGate (.cluster n)) s) ∧
    (¬used (fun c => c / 4 = n) → cluster (.unitPowerGate (.cluster n)) true) ∧
    ((s.cluster n).gated = true → cluster (.unitPowerWake (.cluster n)) false) ∧
    ((s.cluster n).gated = false → Idle (.unitPowerWake (.cluster n)) s)) ∧
  ∀ die, die < 4 → n < 32 →
    let k := die * 32 + n
    let owned := ∃ p ∈ s.parts, (p.2.live.sls die).getLsbD n = true
    (owned → Idle (.unitPowerGate (.slice die n)) s) ∧
    (¬owned → ∃ t, Does (.unitPowerGate (.slice die n)) s t ∧ (t.slice k).lines = [] ∧ (t.slice k).gated = true ∧
      t = { s with teams := t.teams, cores := t.cores, pairs := t.pairs, slices := t.slices, parts := t.parts, dev := t.dev
                   agenda := t.agenda, outs := t.outs }) ∧
    ((s.slice k).gated = true → ∃ t, Does (.unitPowerWake (.slice die n)) s t ∧ t = { s with slices := t.slices } ∧
      t.slice k = { s.slice k with lines := [], gated := false } ∧ ∀ j, j ≠ k → t.slice j = s.slice j) ∧
    ((s.slice k).gated = false → Idle (.unitPowerWake (.slice die n)) s)

/-- R15, R23, R32, R33, R39, R169, R369, R382, R384, R401, R410: a register write stores its value, or starts the command that the
register names; in recovery, and at a register that cannot be written, it is dropped. R391, R399: so are the migration block's and a queue pair's.
R392, R404: in confidential mode a write that no IDE stream with its keys brings is dropped and logged.
The offsets of queue pairs and of the migration block are the model's (log entries 30, 41, 50). -/
def Obligations.RegisterWriteResult : Prop := ∀ (s : State) (v : DWord),
  let n := v.toNat
  let w := fun (fn cap off : Nat) (t : State) => Does (.registerWrite fn cap off v) s t
  let starts := fun (fn cap off : Nat) (e : Event) => w fn cap off { s with agenda := s.agenda ++ [e] }
  let part := fun (fn cap off p : Nat) (k : Part) => w fn cap off { s with parts := s.parts.put p k }
  let home := fun (h off : Nat) (k : Home) => w 0 0x11 (0x1000 + 0x40 * h + off) { s with homes := s.homes.put h k }
  let dev := fun (cap off : Nat) (d : Device) => w 0 cap off { s with dev := d }
  let d := s.dev
  (d.recovery = true → ∀ fn < 65, ∀ cap off, w fn cap off s) ∧
  (d.recovery = false → d.conf = true → d.ide = none → ∀ fn < 65, ∀ cap off, w fn cap off { s with outs := s.outs ++ [.log 2] }) ∧
  (d.recovery = false → d.conf = false ∨ d.ide ≠ none →
    (n / 2 ^ 62 = 0 → starts 0 0x11 0 (.tableUpdateDistribution v)) ∧ (n / 2 ^ 62 = 1 → starts 0 0x11 0 (.tableUpdateSetList v)) ∧
    (n / 2 ^ 62 = 2 → starts 0 0x11 0 (.tableUpdateAperture v)) ∧ dev 0x11 8 { d with dtdata := v } ∧
    (∀ h < 192,
      let k := s.home h
      let vpn := BitVec.ofNat 44 n
      let cmd := fun (e : Event) => starts 0 0x11 (0x1000 + 0x40 * h) e
      (n / 2 ^ 60 = 1 → cmd (.install h vpn)) ∧ (n / 2 ^ 60 = 2 → cmd (.remove h vpn)) ∧ (n / 2 ^ 60 = 3 → cmd (.move h vpn)) ∧
      (n / 2 ^ 60 = 4 → cmd (.recallPage h vpn)) ∧ home h 8 { k with harg0 := v } ∧ home h 0x10 { k with harg1 := v } ∧
      home h 0x20 { k with hptb := v } ∧ home h 0x28 { k with hptc := v } ∧ home h 0x30 { k with hdsb := v } ∧ home h 0x38 { k with hcpl := v } ∧
      w 0 0x11 (0x1000 + 0x40 * h + 0x18) s) ∧
    (∀ p < 64, ∀ q < 16,
      let k := s.part p
      let e := k.prot.getD q (0, 0)
      part 0 0x13 (0x10 * (16 * p + q)) p { k with prot := k.prot.put q (e.1, v) } ∧
      part 0 0x13 (0x10 * (16 * p + q) + 8) p { k with prot := k.prot.put q (v, e.2) } ∧
      (let lq := k.queue q
       part (p + 1) 0x15 (0x20 * q) p { k with queues := k.queues.put q (if lq.en then lq else { lq with base := v }) }) ∧
      starts (p + 1) 0x15 (0x20 * q + 8) (.launchQueueEnable p q v) ∧ starts (p + 1) 0x15 (0x20 * q + 0x10) (.lqwpWrite p q v)) ∧
    (∀ p < 64,
      let k := s.part p
      let sh := fun (off : Nat) (l : Layout) => part 0 0x17 (0x40 * p + off) p { k with shadow := l }
      sh 0 { k.shadow with clm0 := v } ∧ sh 8 { k.shadow with clm1 := v } ∧ sh 0x10 { k.shadow with sls0 := v } ∧
      sh 0x18 { k.shadow with sls1 := v } ∧ sh 0x20 { k.shadow with sls2 := v } ∧ sh 0x28 { k.shadow with sls3 := v } ∧
      sh 0x30 { k.shadow with memw := v } ∧ sh 0x38 { k.shadow with budg := v } ∧
      starts (p + 1) 0x12 0 (.fqbaseWrite p v) ∧ part (p + 1) 0x12 8 p { k with fq := { k.fq with cfg := v } } ∧
      starts (p + 1) 0x12 0x10 (.fqheadWrite p v) ∧ w (p + 1) 0x12 0x18 s ∧
      (n / 2 ^ 62 = 1 → starts (p + 1) 0x12 0x20 (.replay p v)) ∧ (n / 2 ^ 62 = 2 → starts (p + 1) 0x12 0x20 (.cancel p v)) ∧
      (n / 2 ^ 61 = 1 → starts (p + 1) 0x16 0 (.softPreempt p v)) ∧ (n / 2 ^ 61 = 2 → starts (p + 1) 0x16 0 (.halt p v)) ∧
      (n / 2 ^ 61 = 3 → starts (p + 1) 0x16 0 (.kill p v)) ∧ (n / 2 ^ 61 = 4 → starts (p + 1) 0x16 0 (.resume p v)) ∧
      part (p + 1) 0x16 8 p { k with pcfg := BitVec.ofNat 64 (n / 2 ^ 32 % 2 ^ 16 * 2 ^ 32 + n % 2 ^ 16) }) ∧
    (n / 2 ^ 62 = 1 → starts 0 0x17 0x2000 .layoutCommit) ∧ (n / 2 ^ 62 = 2 → starts 0 0x17 0x2000 (.partitionReset (n % 64))) ∧
    (let moves := fun (e : Event) => w 0 0x19 0 { s with dev := { d with mcmd := v }, agenda := s.agenda ++ [e] }
     (n / 2 ^ 61 = 1 → moves (.exportBlob (n % 64) d.msess)) ∧ (n / 2 ^ 61 = 2 → moves (.migrationRelease (n % 64))) ∧
     (n / 2 ^ 61 = 3 → moves (.importBlob (n % 64) d.msess)) ∧ (n / 2 ^ 61 = 4 → moves (.confirm (n % 64)))) ∧
    (∀ p < 64, ∀ k < 64,
      let q := s.qp (p + 1) k
      let qp := fun (off : Nat) (q : QueuePair) => w (p + 1) 0x1A (0x10 * k + off) { s with dev := { d with qps := d.qps.put ((p + 1) * 64 + k) q } }
      qp 0 { q with dom := BitVec.ofNat 12 n, rnr := n / 2 ^ 16 % 2 ^ 8 } ∧ qp 8 { q with kset := v }) ∧
    dev 0x19 8 { d with mblob := v } ∧ dev 0x19 0x10 { d with msess := v } ∧
    dev 0x1B 0 { d with dumpbase := BitVec.ofNat 64 (n / 2 ^ 24 * 2 ^ 24) })

/-! ## Addresses -/

/-- R10: a pointer whose bits [63:47] are zero is relocated: the domain's aperture index enters bits [59:47] and the key index is 0, so
that it lands in the domain's region; every other pointer stands. An offset that carries a host-form pointer into bit 47 leaves it in
region 1 under key index 0, no longer in host form. A fetch checks the relocated address and no other. -/
def Obligations.HostFormPointer : Prop := ∀ (apx : BitVec 13) (p : DWord),
  (p.toNat < 2 ^ 47 → relocate apx p = p ||| (apx.zeroExtend 64 <<< 47) ∧ kidxOf (relocate apx p) = 0 ∧
    vaOf (relocate apx p) / 2 ^ 47 = apx.toNat ∧ vaOf (relocate apx p) % 2 ^ 47 = p.toNat) ∧
  (2 ^ 47 ≤ p.toNat → relocate apx p = p) ∧
  (∀ off : Nat, p.toNat < 2 ^ 47 → 2 ^ 47 ≤ p.toNat + off → p.toNat + off < 2 ^ 48 → hostForm (ptrAdd p off) = false ∧
    kidxOf (ptrAdd p off) = 0 ∧ vaOf (ptrAdd p off) / 2 ^ 47 = 1 ∧ relocate apx (ptrAdd p off) = ptrAdd p off) ∧
  ∀ (s : State) (a : RunAt) (ip : DWord), a.team.apx = apx → s.fetchWord a ip p = s.fetchWord a ip (relocate apx p)

/-- R14: the home of a page, by a die's copy of the tables, is the word of the set list that the hash of its number names in its region's set; when the set size is a
power of two, every aligned run of as many pages visits each home of the set exactly once. -/
def Obligations.HomeOfPage : Prop := ∀ (s : State) (die : Nat) (va : VAddr),
  let e := s.dist.getD (die * 8192 + va.toNat / 2 ^ 47) 0
  let size := e.toNat % 2 ^ 8 + 1
  let base := e.toNat / 2 ^ 32 % 2 ^ 14
  let hash := fun (x : BitVec 44) => x.extractLsb' 0 16 ^^^ x.extractLsb' 16 16 ^^^ (x.extractLsb' 32 12).zeroExtend 16
  let index := fun (x : BitVec 44) => (hash x).toNat % size
  let word := s.setlist.getD (die * 16384 + base + index (va.extractLsb' 16 44)) 0
  s.homeOf die va.toNat = (word.toNat / 2 ^ 8, word.toNat % 2 ^ 8) ∧
  ∀ k run : Nat, size = 2 ^ k → (run + 1) * size ≤ 2 ^ 44 →
    ∀ i, i < size → ∃ j, j < size ∧ index (BitVec.ofNat 44 (run * size + j)) = i ∧
      ∀ j', j' < size → index (BitVec.ofNat 44 (run * size + j')) = i → j' = j

/-- R335: each compare of two uniform registers writes 1 when its relation holds and 0 when it does not; words of uniform major 0x09 are
the six compares in the order of fn 0 to 5, and with fn 6 to 63 they are no instruction. -/
def Obligations.UniformCompareResult : Prop :=
  (∀ (e : Bool) (f : GR),
    let puts := fun (i : Instr) (rel : DWord → DWord → Bool) =>
      WritesG i [f.a.toNat, f.b.toNat] f.d fun g => if rel (g.gr f.a.toNat) (g.gr f.b.toNat) then 1 else 0
    puts (.gcmpeq e f) (fun a b => a == b) ∧ puts (.gcmpne e f) (fun a b => a != b) ∧ puts (.gcmplts e f) (fun a b => a.slt b) ∧
    puts (.gcmpltu e f) (fun a b => a.ult b) ∧ puts (.gcmples e f) (fun a b => a.sle b) ∧ puts (.gcmpleu e f) (fun a b => a.ule b)) ∧
  ∀ (w : Word) (more : List Word), w.extractLsb' 31 1 = 1 → w.extractLsb' 24 6 = 0x09 →
    let e := w.getLsbD 30
    let f : GR := ⟨w.extractLsb' 18 6, w.extractLsb' 12 6, w.extractLsb' 6 6⟩
    let fn := (w.extractLsb' 0 6).toNat
    (fn < 6 → decodeWords (w :: more) =
      .ok ([Instr.gcmpeq e f, .gcmpne e f, .gcmplts e f, .gcmpltu e f, .gcmples e f, .gcmpleu e f].getD fn (.gcmpeq e f), more)) ∧
    (6 ≤ fn → decodeWords (w :: more) = .error .subcode)

/-! ## Encodings -/

/-- R186, R188 to R195: decoding the words of a well-formed instruction gives the instruction back, whatever words follow, with every
operand at every value its field holds. -/
def Obligations.EncodingRoundTrip : Prop := ∀ (i : Instr) (more : List Word), i.wf = true → encode i ≠ [] →
  decodeWords (encode i ++ more) = .ok (i, more)

/-- R187, R192, R196: words that decode to an instruction are exactly that instruction's encoding, so that no two words are one
instruction and no bit of a word goes unread. -/
def Obligations.DecodingExact : Prop := ∀ (ws more : List Word) (i : Instr), decodeWords ws = .ok (i, more) →
  encode i ++ more = ws

/-! ## The whole machine -/

/-- R408, R409: after a fatal error the part stops all work: nothing but the passing of time happens, no memory changes and no output is
given, until a full reset, which takes place as soon as it is asked for, leaves no team and restores service. -/
def Obligations.FatalErrorHolds : Prop := ∀ (s : State), s.dev.fatal = true →
  (.fullReset ∉ s.inputs → ∃ t, step s = .next t ∧ t.dev = s.dev ∧ t.teams = s.teams ∧ t.cores = s.cores ∧ t.pairs = s.pairs ∧
    t.clusters = s.clusters ∧ t.slices = s.slices ∧ t.homes = s.homes ∧ t.hbm = s.hbm ∧ t.host = s.host ∧ t.banks = s.banks ∧
    t.dist = s.dist ∧ t.setlist = s.setlist ∧ t.apt = s.apt ∧ t.slicesets = s.slicesets ∧ t.outs = s.outs ∧ t.inputs = s.inputs) ∧
  (.fullReset ∈ s.inputs → ∃ t, step s = .next t ∧ t.dev.fatal = false ∧ t.teams = [] ∧ t.host = s.host ∧
    t.inputs = s.inputs.erase .fullReset)

/-- The three memories (HBM, R37; host memory, R20; banks, R70) keep their canonical form in every step: listed addresses rise strictly
and no listed byte is 0. The form is the model's own (log entry 6). -/
def Obligations.StepKeepsMemory : Prop := ∀ (s t : State), s.memOk → step s = .next t → t.memOk

/-- R13, R15, R18, R23, R40, R121, R164, R369, R403, R406: right after reset no region is active and no page is mapped, no team, run,
line, grid or home command is present, the part is not in confidential mode, each partition's GRACE and KILLT are 200 µs, its PSTAT is 0
and every measurement is 0. The clock's start at 0, memory's bytes and the life cycle are the model's choices (log entries 3, 5, 6). -/
def Obligations.ResetState : Prop :=
  let s := State.reset
  (∀ die va, s.regionSt die va = 0) ∧ (∀ h, (s.home h).mapped = false ∧ (s.home h).cmd = none) ∧ s.teams = [] ∧ s.grids = [] ∧
  (∀ c, (s.core c).runs = [] ∧ (s.core c).icache = [] ∧ (s.core c).lanes = []) ∧ (∀ n, s.pair n = []) ∧ (∀ n, (s.slice n).lines = []) ∧
  (∀ p, (s.part p).pcfg = 0x00C8000000C8 ∧ (s.part p).rung = 0) ∧ s.dev.conf = false ∧ s.dev.fatal = false ∧
  s.dev.meas = [] ∧ s.memOk ∧ s.clock = 0

/-- R141, R142, R186: when the step that is next is the issue of a run whose words open with an instruction, the step is `exec` of that
instruction in the state that issues: the same state but for the run in issue and the activity counters of its partition.
Which of the possible steps is next is the model's own data (log entries 1, 2). -/
def Obligations.StepRunsDecoded : Prop :=
  (∀ (s : State) (core rid : Nat) (r : Run), s.tick.observe.choose.1 = .issue core rid →
    let s' := s.tick.observe.choose.2
    (s'.core core).runs.find? (fun r => r.rid == rid) = some r →
    (∀ i more, decodeWords r.code = .ok (i, more) → step s = exec i (s'.issuing core r)) ∧
    s'.issuing core r = { s' with cur := some (core, rid), parts := (s'.issuing core r).parts }) ∧
  (∀ (s : State) (a : RunAt) (ip p : DWord) (x : CLine),
    let ea := relocate a.team.apx p
    let key := locketGkid a.team.keys ea
    let byte := fun (k : Nat) => x.data.extractLsb' (8 * (vaOf ea % 64 + k)) 8
    let leased := (s.core a.core).icache.find? fun x => x.line == vaOf ea / 64 && x.gkid == key && decide (s.nowAt a.core < x.lend)
    let fetched := (s.core a.core).once.find? fun o => o.1 == a.ctx && o.2.1 == a.start && o.2.2.line == vaOf ea / 64 && o.2.2.gkid == key
    locketOk a.team.keys ea 3 = true → p.toNat % 4 = 0 → (leased = some x ∨ leased = none ∧ ∃ c b, fetched = some (c, b, x)) →
    s.fetchWord a ip p = .word (wordOfBytes (byte 0) (byte 1) (byte 2) (byte 3))) ∧
  (∀ (s : State) (a : RunAt) (n : Nat) (p : DWord) (acc : List Word) (w v : Word) (i : Instr), s.fetchWord a p p = .word w →
    (decodePair w none = .ok i →
      s.fetchRun a (n + 1) p acc = if endsRun i then .words (acc ++ [w]) else s.fetchRun a n (ptrAdd p 4) (acc ++ [w])) ∧
    (isPrefix w = true → s.fetchWord a p (ptrAdd p 4) = .word v → decodePair w (some v) = .ok i →
      s.fetchRun a (n + 1) p acc = if endsRun i then .words (acc ++ [w, v]) else s.fetchRun a n (ptrAdd p 8) (acc ++ [w, v]))) ∧
  ∀ (s : State) (c : Nat) (r : Run) (i : Instr) (keep : List ThreadRef), s.run? = some (c, r) →
    let t := s.finish i keep false
    (endsRun i = false → r.count + 1 < 24 → r.code.drop i.words ≠ [] → keep ≠ [] → t.run? = some (c, { r with
      pc := ptrAdd r.pc (4 * i.words), code := r.code.drop i.words, set := keep, count := r.count + 1, stall := none })) ∧
    (endsRun i = true ∨ 24 ≤ r.count + 1 ∨ r.code.drop i.words = [] ∨ keep = [] →
      (t.core c).runs = (s.core c).runs.filter fun q => q.rid != r.rid)

/-- R186 to R195, by the spec's worked encodings: each of these words decodes to the instruction that the spec writes beside it. -/
def Obligations.DecodedWords : Prop :=
  let is := fun (ws : List Word) (i : Instr) => decodeWords ws = .ok (i, [])
  is [0x01450B18] (.fadd ⟨false, none⟩ ⟨1, 10, 11, 12, false⟩) ∧
  is [0x0A02861F] (.fsubG ⟨false, none⟩ ⟨0, 5, 6, 7⟩) ∧
  is [0x3F0A9160, 0x04040914] (.fma ⟨false, some ⟨5, false, true, 1, 11, 0⟩⟩ ⟨0, 8, 9, 10, false⟩) ∧
  is [0x3FFE032B, 0x600A1850] (.ld ⟨true, some ⟨127, false, false, 0, 25, 0xB⟩⟩ ⟨0, 5, 6, 5, 0⟩) ∧
  is [0x3FFE000B, 0x62A08280] (.atom ⟨true, some ⟨127, false, false, 0, 0, 0xB⟩⟩ ⟨10, 4, 5⟩) ∧
  is [0x3FFE0014, 0x1002050C] (.iadd ⟨false, some ⟨127, false, false, 0, 0, 0x14⟩⟩ ⟨4, 5, 6, false⟩) ∧
  is [0x190EFFFE] (.movi ⟨false, none⟩ ⟨7, 0xFFFE⟩) ∧ is [0x6803FFFB] (.br true 3 0xFFFB) ∧
  is [0x6C008146] (.redaddF32 true ⟨4, 5, 6⟩) ∧ is [0x2F020605] (.accrd ⟨false, none⟩ ⟨8, 12, 5⟩) ∧
  is [0x2D0C2860] (.fdiv ⟨false, none⟩ 5 6) ∧ is [0x820C3FFF] (.gaddi false ⟨3, 3, 0xFFF⟩) ∧
  is [0x810420C0] (.gadd false ⟨1, 2, 3⟩) ∧ is [0x88061234] (.gmovz false ⟨1, 2, 0x1234⟩) ∧
  is [0xCA2C4182] (.gld true ⟨2, 3, 4, 6, 2⟩) ∧ is [0xCC0C826F] (.gatom true ⟨3, 8, 9, 11, 3⟩) ∧
  is [0x9540C000] (.waitn false 1 3) ∧ is [0xD10FFFFC] (.gbrnz true ⟨3, 0x3FFFC⟩) ∧
  is [0x98208241] (.qpush false ⟨2, 8, 9, true⟩) ∧ is [0x9C08C340] (.syncwInit false ⟨2, 12, 13⟩)

/-- R141, R169, R30: when the step that is next is an event (its time has come, it is on the agenda, the outside asks for it, or its
condition has come about), the step is what `exec` does for that event in the same state with the event taken off what is to happen; when
nothing can happen, only the clock passes.
Which of the possible steps is next is the model's own data (log entry 2). -/
def Obligations.StepRunsEvents : Prop :=
  (∀ (s : State) (m : Move) (e : Event),
    let c := s.tick.observe.choose
    (c.1 = m → m = .agenda e ∨ m = .input e ∨ m = .ripe e ∨ (∃ t, m = .due t e) → step s = happen e (c.2.taking m)) ∧
    (c.1 = .idle → step s = .next { c.2 with cur := none }) ∧
    ((c.2.taking (.agenda e)).agenda = c.2.agenda.erase e) ∧ ((c.2.taking (.input e)).inputs = c.2.inputs.erase e) ∧
    (∀ t, (c.2.taking (.due t e)).due = c.2.due.erase (t, e)) ∧
    (c.2.taking m) = { c.2 with
      cur := none, agenda := (c.2.taking m).agenda, inputs := (c.2.taking m).inputs, due := (c.2.taking m).due
      parts := (c.2.taking m).parts }) ∧
  ∀ s : State,
  (∀ a, happen (.runStart a) s = exec (.runStart a) s) ∧ (∀ a b, happen (.icacheFill a b) s = exec (.icacheFill a b) s) ∧
  (∀ a b, happen (.boundStallExpiry a b) s = exec (.boundStallExpiry a b) s) ∧
  (∀ a b, happen (.registerCacheFill a b) s = exec (.registerCacheFill a b) s) ∧
  (∀ a b, happen (.laneStoreFill a b) s = exec (.laneStoreFill a b) s) ∧
  (∀ a b, happen (.verdictArrival a b) s = exec (.verdictArrival a b) s) ∧
  (∀ a b c d, happen (.loadDataArrival a b c d) s = exec (.loadDataArrival a b c d) s) ∧
  (∀ a b, happen (.storeReply a b) s = exec (.storeReply a b) s) ∧
  (∀ a b c d, happen (.atomicResultArrival a b c d) s = exec (.atomicResultArrival a b c d) s) ∧
  (∀ a, happen (.releaseConditionsMet a) s = exec (.releaseConditionsMet a) s) ∧
  (∀ a, happen (.acquireWaitEnd a) s = exec (.acquireWaitEnd a) s) ∧ (∀ a, happen (.retryReissue a) s = exec (.retryReissue a) s) ∧
  (∀ a, happen (.sliceRequest a) s = exec (.sliceRequest a) s) ∧ (∀ a b, happen (.sliceRenewal a b) s = exec (.sliceRenewal a b) s) ∧
  (∀ a b, happen (.homeRequest a b) s = exec (.homeRequest a b) s) ∧
  (∀ a b, happen (.homeReadShared a b) s = exec (.homeReadShared a b) s) ∧
  (∀ a b, happen (.homeReadExclusive a b) s = exec (.homeReadExclusive a b) s) ∧
  (∀ a b, happen (.homeUpgrade a b) s = exec (.homeUpgrade a b) s) ∧
  (∀ a b, happen (.homeDirectRequest a b) s = exec (.homeDirectRequest a b) s) ∧
  (∀ a b c, happen (.invalidation a b c) s = exec (.invalidation a b c) s) ∧
  (∀ a b c d, happen (.invalidationAck a b c d) s = exec (.invalidationAck a b c d) s) ∧
  (∀ a b c d, happen (.forwardedSnoop a b c d) s = exec (.forwardedSnoop a b c d) s) ∧
  (∀ a b c d, happen (.snoopResponse a b c d) s = exec (.snoopResponse a b c d) s) ∧
  (∀ a b c d, happen (.writeBack a b c d) s = exec (.writeBack a b c d) s) ∧
  (∀ a b, happen (.writeBackAck a b) s = exec (.writeBackAck a b) s) ∧
  (∀ a b c d, happen (.cleanDropNotice a b c d) s = exec (.cleanDropNotice a b c d) s) ∧
  (∀ a b, happen (.ownershipGrant a b) s = exec (.ownershipGrant a b) s) ∧
  (∀ a b, happen (.remoteLeaseGrant a b) s = exec (.remoteLeaseGrant a b) s) ∧
  (∀ a b, happen (.recallDrop a b) s = exec (.recallDrop a b) s) ∧ (∀ a b, happen (.stashFill a b) s = exec (.stashFill a b) s) ∧
  (∀ a b, happen (.stashUpgradeGrant a b) s = exec (.stashUpgradeGrant a b) s) ∧
  (∀ a b c d f, happen (.stashSnoop a b c d f) s = exec (.stashSnoop a b c d f) s) ∧
  (∀ a, happen (.bankWriteRetire a) s = exec (.bankWriteRetire a) s) ∧
  (∀ a b, happen (.bankZeroDone a b) s = exec (.bankZeroDone a b) s) ∧
  (∀ a b, happen (.giveDrainDone a b) s = exec (.giveDrainDone a b) s) ∧ (∀ a, happen (.sleepExpiry a) s = exec (.sleepExpiry a) s) ∧
  (∀ a b c, happen (.sfxResultArrival a b c) s = exec (.sfxResultArrival a b c) s) ∧
  (∀ a b c, happen (.mmaOctetDone a b c) s = exec (.mmaOctetDone a b c) s) ∧
  (∀ a b, happen (.mmaComplete a b) s = exec (.mmaComplete a b) s) ∧
  (∀ a b c d, happen (.qmxArmMark a b c d) s = exec (.qmxArmMark a b c d) s) ∧
  (∀ a b, happen (.qmxReportFlags a b) s = exec (.qmxReportFlags a b) s) ∧
  (∀ a b c, happen (.markPost a b c) s = exec (.markPost a b c) s) ∧ (∀ a, happen (.copyPlain a) s = exec (.copyPlain a) s) ∧
  (∀ a, happen (.copyStrided a) s = exec (.copyStrided a) s) ∧ (∀ a, happen (.copyTaggedPack a) s = exec (.copyTaggedPack a) s) ∧
  (∀ a, happen (.copyTaggedUnpack a) s = exec (.copyTaggedUnpack a) s) ∧
  (∀ a, happen (.copyStripDrain a) s = exec (.copyStripDrain a) s) ∧ (∀ a, happen (.gather a) s = exec (.gather a) s) ∧
  (∀ a, happen (.reduceScatter a) s = exec (.reduceScatter a) s) ∧ (∀ a, happen (.allGather a) s = exec (.allGather a) s) ∧
  (∀ a, happen (.allReduce a) s = exec (.allReduce a) s) ∧
  (∀ a b c, happen (.collectiveMatch a b c) s = exec (.collectiveMatch a b c) s) ∧
  (∀ a, happen (.copyWriteRetire a) s = exec (.copyWriteRetire a) s) ∧
  (∀ a, happen (.engineCommandComplete a) s = exec (.engineCommandComplete a) s) ∧
  (∀ a, happen (.tableUpdateDistribution a) s = exec (.tableUpdateDistribution a) s) ∧
  (∀ a, happen (.tableUpdateSetList a) s = exec (.tableUpdateSetList a) s) ∧
  (∀ a, happen (.tableUpdateAperture a) s = exec (.tableUpdateAperture a) s) ∧ happen .tableUpdateDone s = exec .tableUpdateDone s ∧
  (∀ a, happen (.regionCloseRecallDone a) s = exec (.regionCloseRecallDone a) s) ∧
  (∀ a b, happen (.install a b) s = exec (.install a b) s) ∧ (∀ a b, happen (.remove a b) s = exec (.remove a b) s) ∧
  (∀ a b, happen (.move a b) s = exec (.move a b) s) ∧ (∀ a b, happen (.recallPage a b) s = exec (.recallPage a b) s) ∧
  (∀ a, happen (.homeRecallDone a) s = exec (.homeRecallDone a) s) ∧ (∀ a, happen (.moveDrainDone a) s = exec (.moveDrainDone a) s) ∧
  (∀ a, happen (.moveCopyDone a) s = exec (.moveCopyDone a) s) ∧ (∀ a, happen (.faultRecordWrite a) s = exec (.faultRecordWrite a) s) ∧
  (∀ a, happen (.faultQueueCoalesce a) s = exec (.faultQueueCoalesce a) s) ∧
  (∀ a b, happen (.fqbaseWrite a b) s = exec (.fqbaseWrite a b) s) ∧ (∀ a b, happen (.fqheadWrite a b) s = exec (.fqheadWrite a b) s) ∧
  (∀ a b, happen (.replay a b) s = exec (.replay a b) s) ∧ (∀ a b, happen (.cancel a b) s = exec (.cancel a b) s) ∧
  (∀ a b c, happen (.hostCxlMemRead a b c) s = exec (.hostCxlMemRead a b c) s) ∧
  (∀ a b c d, happen (.hostCxlMemWrite a b c d) s = exec (.hostCxlMemWrite a b c d) s) ∧
  (∀ a b, happen (.hostStoreCompletion a b) s = exec (.hostStoreCompletion a b) s) ∧
  (∀ a b, happen (.hostOwnershipRequest a b) s = exec (.hostOwnershipRequest a b) s) ∧
  (∀ a b, happen (.hostOwnershipGrant a b) s = exec (.hostOwnershipGrant a b) s) ∧
  (∀ a b, happen (.hostSnoop a b) s = exec (.hostSnoop a b) s) ∧
  (∀ a b c, happen (.hostBiResponse a b c) s = exec (.hostBiResponse a b c) s) ∧
  (∀ a b c, happen (.launchQueueEnable a b c) s = exec (.launchQueueEnable a b c) s) ∧
  (∀ a b c, happen (.lqwpWrite a b c) s = exec (.lqwpWrite a b c) s) ∧ (∀ a b, happen (.recordTake a b) s = exec (.recordTake a b) s) ∧
  (∀ a b, happen (.waitConditionPoll a b) s = exec (.waitConditionPoll a b) s) ∧
  (∀ a, happen (.teamDispatch a) s = exec (.teamDispatch a) s) ∧
  (∀ a, happen (.clusterSetDispatch a) s = exec (.clusterSetDispatch a) s) ∧
  (∀ a, happen (.dispatchPriorityBlock a) s = exec (.dispatchPriorityBlock a) s) ∧ (∀ a, happen (.teamEnd a) s = exec (.teamEnd a) s) ∧
  (∀ a, happen (.gridComplete a) s = exec (.gridComplete a) s) ∧ (∀ a, happen (.gridStallEvict a) s = exec (.gridStallEvict a) s) ∧
  (∀ a, happen (.gridStallFault a) s = exec (.gridStallFault a) s) ∧ (∀ a b, happen (.softPreempt a b) s = exec (.softPreempt a b) s) ∧
  (∀ a b, happen (.halt a b) s = exec (.halt a b) s) ∧ (∀ a b, happen (.kill a b) s = exec (.kill a b) s) ∧
  (∀ a b, happen (.resume a b) s = exec (.resume a b) s) ∧ (∀ a, happen (.graceExpiry a) s = exec (.graceExpiry a) s) ∧
  (∀ a, happen (.killTimerExpiry a) s = exec (.killTimerExpiry a) s) ∧ (∀ a, happen (.teamDeparted a) s = exec (.teamDeparted a) s) ∧
  happen .layoutCommit s = exec .layoutCommit s ∧ happen .layoutFlip s = exec .layoutFlip s ∧
  (∀ a, happen (.partitionReset a) s = exec (.partitionReset a) s) ∧
  (∀ a, happen (.partitionResetDone a) s = exec (.partitionResetDone a) s) ∧ happen .bezelRestart s = exec .bezelRestart s ∧
  happen .budgetRefill s = exec .budgetRefill s ∧ happen .energyCharge s = exec .energyCharge s ∧
  (∀ a b, happen (.exportBlob a b) s = exec (.exportBlob a b) s) ∧ (∀ a, happen (.migrationRelease a) s = exec (.migrationRelease a) s) ∧
  (∀ a b, happen (.importBlob a b) s = exec (.importBlob a b) s) ∧ (∀ a, happen (.confirm a) s = exec (.confirm a) s) ∧
  (∀ a b, happen (.fabricFlitReceive a b) s = exec (.fabricFlitReceive a b) s) ∧ (∀ a, happen (.fabricNak a) s = exec (.fabricNak a) s) ∧
  (∀ a, happen (.portDown a) s = exec (.portDown a) s) ∧ (∀ a, happen (.fabricKeyUpdate a) s = exec (.fabricKeyUpdate a) s) ∧
  (∀ a, happen (.podTimeFlit a) s = exec (.podTimeFlit a) s) ∧ happen .podTimeLoss s = exec .podTimeLoss s ∧
  (∀ a b c d f, happen (.postSend a b c d f) s = exec (.postSend a b c d f) s) ∧
  (∀ a b c d, happen (.postReceive a b c d) s = exec (.postReceive a b c d) s) ∧
  (∀ a b c d f, happen (.rdmaSendArrival a b c d f) s = exec (.rdmaSendArrival a b c d f) s) ∧
  (∀ a b c, happen (.rdmaRequestArrival a b c) s = exec (.rdmaRequestArrival a b c) s) ∧
  (∀ a b c, happen (.rnrNak a b c) s = exec (.rnrNak a b c) s) ∧ (∀ a, happen (.bezelBoot a) s = exec (.bezelBoot a) s) ∧
  happen .fullReset s = exec .fullReset s ∧ happen .provision s = exec .provision s ∧
  (∀ a, happen (.serviceToken a) s = exec (.serviceToken a) s) ∧
  (∀ a, happen (.confidentialModeRequest a) s = exec (.confidentialModeRequest a) s) ∧
  (∀ a b c, happen (.setSharedRange a b c) s = exec (.setSharedRange a b c) s) ∧
  (∀ a, happen (.getVersion a) s = exec (.getVersion a) s) ∧ (∀ a, happen (.getCapabilities a) s = exec (.getCapabilities a) s) ∧
  (∀ a, happen (.negotiateAlgorithms a) s = exec (.negotiateAlgorithms a) s) ∧ (∀ a, happen (.getDigests a) s = exec (.getDigests a) s) ∧
  (∀ a, happen (.getCertificate a) s = exec (.getCertificate a) s) ∧ (∀ a b, happen (.challenge a b) s = exec (.challenge a b) s) ∧
  (∀ a b, happen (.getMeasurements a b) s = exec (.getMeasurements a b) s) ∧
  (∀ a b c, happen (.keyExchange a b c) s = exec (.keyExchange a b c) s) ∧ (∀ a b c, happen (.finish a b c) s = exec (.finish a b c) s) ∧
  (∀ a b, happen (.keyUpdate a b) s = exec (.keyUpdate a b) s) ∧ (∀ a b, happen (.endSession a b) s = exec (.endSession a b) s) ∧
  (∀ a, happen (.patrolScrub a) s = exec (.patrolScrub a) s) ∧ (∀ a, happen (.poisonConsumed a) s = exec (.poisonConsumed a) s) ∧
  (∀ a, happen (.fatalError a) s = exec (.fatalError a) s) ∧
  (∀ a b c d, happen (.registerWrite a b c d) s = exec (.registerWrite a b c d) s) ∧
  (∀ a b, happen (.illegalWord a b) s = exec (.illegalWord a b) s) ∧ (∀ a, happen (.unitPowerGate a) s = exec (.unitPowerGate a) s) ∧
  (∀ a, happen (.unitPowerWake a) s = exec (.unitPowerWake a) s) ∧
  (∀ a b, happen (.portRetrainDone a b) s = exec (.portRetrainDone a b) s) ∧
  (∀ a b, happen (.ucieFlitReceive a b) s = exec (.ucieFlitReceive a b) s) ∧
  (∀ a b c d, happen (.transportAckArrival a b c d) s = exec (.transportAckArrival a b c d) s) ∧
  (∀ a b, happen (.hostLinkTraining a b) s = exec (.hostLinkTraining a b) s)
end

