-- ==== Sys2Proof/Laws/Maps.lean ====
section
/-! SUPPORT. What the sparse maps answer after an update: no order of the keys is assumed. -/

namespace Sys2Proof.SMap

@[simp] theorem find?_nil {α : Type} (k : Nat) : find? ([] : SMap α) k = none := rfl

@[simp] theorem find?_put_self {α : Type} (m : SMap α) (k : Nat) (v : α) : find? (put m k v) k = some v := by
  induction m with
  | nil => simp [put, find?]
  | cons c t ih =>
    obtain ⟨k', v'⟩ := c
    by_cases h : k < k'
    · simp [put, h, find?]
    · by_cases e : k = k'
      · simp [put, e, find?]
      · simp [put, h, e, find?, Ne.symm e, ih]

theorem find?_put_ne {α : Type} (m : SMap α) {k j : Nat} (v : α) (h : k ≠ j) : find? (put m k v) j = find? m j := by
  induction m with
  | nil => simp [put, find?, h]
  | cons c t ih =>
    obtain ⟨k', v'⟩ := c
    by_cases l : k < k'
    · simp [put, l, find?, h]
    · by_cases e : k = k'
      · subst e; simp [put, find?, h]
      · simp [put, l, e, find?, ih]

theorem find?_put {α : Type} (m : SMap α) (k j : Nat) (v : α) : find? (put m k v) j = if k = j then some v else find? m j := by
  by_cases h : k = j
  · subst h; simp
  · simp [find?_put_ne m v h, h]

@[simp] theorem find?_del_self {α : Type} (m : SMap α) (k : Nat) : find? (del m k) k = none := by
  induction m with
  | nil => rfl
  | cons c t ih =>
    obtain ⟨k', v'⟩ := c
    by_cases e : k' = k
    · simp [del, e] at *; exact ih
    · simp [del, e, find?] at *; exact ih

theorem find?_del_ne {α : Type} (m : SMap α) {k j : Nat} (h : k ≠ j) : find? (del m k) j = find? m j := by
  induction m with
  | nil => rfl
  | cons c t ih =>
    obtain ⟨k', v'⟩ := c
    by_cases e : k' = k
    · subst e; simp [del, find?, h] at *; exact ih
    · by_cases i : k' = j
      · subst i; simp [del, e, find?]
      · simp [del, e, find?, i] at *; exact ih

@[simp] theorem find?_mapVals {α : Type} (m : SMap α) (f : Nat → α → α) (k : Nat) :
    find? (mapVals m f) k = (find? m k).map (f k) := by
  induction m with
  | nil => rfl
  | cons c t ih =>
    obtain ⟨k', v'⟩ := c
    by_cases e : k' = k
    · subst e; simp [mapVals, find?]
    · simp [mapVals, find?, e] at *; exact ih

@[simp] theorem getD_put_self {α : Type} (m : SMap α) (k : Nat) (v d : α) : getD (put m k v) k d = v := by simp [getD]

theorem getD_put_ne {α : Type} (m : SMap α) {k j : Nat} (v d : α) (h : k ≠ j) : getD (put m k v) j d = getD m j d := by
  simp [getD, find?_put_ne m v h]

theorem getD_put {α : Type} (m : SMap α) (k j : Nat) (v d : α) : getD (put m k v) j d = if k = j then v else getD m j d := by
  by_cases h : k = j
  · subst h; simp
  · simp [getD_put_ne m v d h, h]

@[simp] theorem getD_store_self {α : Type} [DecidableEq α] (m : SMap α) (d : α) (k : Nat) (v : α) : getD (store m d k v) k d = v := by
  by_cases h : v = d
  · simp [store, h, getD]
  · simp [store, h]

theorem getD_store_ne {α : Type} [DecidableEq α] (m : SMap α) (d : α) {k j : Nat} (v : α) (h : k ≠ j) :
    getD (store m d k v) j d = getD m j d := by
  by_cases e : v = d
  · simp [store, e, getD, find?_del_ne m h]
  · simp [store, e, getD_put_ne m v d h]

theorem getD_store {α : Type} [DecidableEq α] (m : SMap α) (d : α) (k j : Nat) (v : α) :
    getD (store m d k v) j d = if k = j then v else getD m j d := by
  by_cases h : k = j
  · subst h; simp
  · simp [getD_store_ne m d v h, h]

@[simp] theorem getD_nil {α : Type} (k : Nat) (d : α) : getD ([] : SMap α) k d = d := rfl

end Sys2Proof.SMap
end

