-- ==== Sys2Proof/Laws/State.lean ====
section
/-! SUPPORT. What each update of the state leaves in each field: one lemma for each update and field. -/

namespace Sys2Proof.Machine

/-! ### post -/

@[simp] theorem State.post_clock (s : State) (i : Event) : (s.post i).clock = s.clock := rfl
@[simp] theorem State.post_skew (s : State) (i : Event) : (s.post i).skew = s.skew := rfl
@[simp] theorem State.post_agenda (s : State) (i : Event) : (s.post i).agenda = s.agenda ++ [i] := rfl
@[simp] theorem State.post_inputs (s : State) (i : Event) : (s.post i).inputs = s.inputs := rfl
@[simp] theorem State.post_due (s : State) (i : Event) : (s.post i).due = s.due := rfl
@[simp] theorem State.post_oracle (s : State) (i : Event) : (s.post i).oracle = s.oracle := rfl
@[simp] theorem State.post_fresh (s : State) (i : Event) : (s.post i).fresh = s.fresh := rfl
@[simp] theorem State.post_nextId (s : State) (i : Event) : (s.post i).nextId = s.nextId := rfl
@[simp] theorem State.post_cur (s : State) (i : Event) : (s.post i).cur = s.cur := rfl
@[simp] theorem State.post_teams (s : State) (i : Event) : (s.post i).teams = s.teams := rfl
@[simp] theorem State.post_cores (s : State) (i : Event) : (s.post i).cores = s.cores := rfl
@[simp] theorem State.post_pairs (s : State) (i : Event) : (s.post i).pairs = s.pairs := rfl
@[simp] theorem State.post_clusters (s : State) (i : Event) : (s.post i).clusters = s.clusters := rfl
@[simp] theorem State.post_slices (s : State) (i : Event) : (s.post i).slices = s.slices := rfl
@[simp] theorem State.post_homes (s : State) (i : Event) : (s.post i).homes = s.homes := rfl
@[simp] theorem State.post_hbm (s : State) (i : Event) : (s.post i).hbm = s.hbm := rfl
@[simp] theorem State.post_host (s : State) (i : Event) : (s.post i).host = s.host := rfl
@[simp] theorem State.post_banks (s : State) (i : Event) : (s.post i).banks = s.banks := rfl
@[simp] theorem State.post_dist (s : State) (i : Event) : (s.post i).dist = s.dist := rfl
@[simp] theorem State.post_setlist (s : State) (i : Event) : (s.post i).setlist = s.setlist := rfl
@[simp] theorem State.post_apt (s : State) (i : Event) : (s.post i).apt = s.apt := rfl
@[simp] theorem State.post_mail (s : State) (i : Event) : (s.post i).mail = s.mail := rfl
@[simp] theorem State.post_slicesets (s : State) (i : Event) : (s.post i).slicesets = s.slicesets := rfl
@[simp] theorem State.post_parts (s : State) (i : Event) : (s.post i).parts = s.parts := rfl
@[simp] theorem State.post_grids (s : State) (i : Event) : (s.post i).grids = s.grids := rfl
@[simp] theorem State.post_dev (s : State) (i : Event) : (s.post i).dev = s.dev := rfl
@[simp] theorem State.post_residues (s : State) (i : Event) : (s.post i).residues = s.residues := rfl
@[simp] theorem State.post_outs (s : State) (i : Event) : (s.post i).outs = s.outs := rfl

/-! ### postAll -/

@[simp] theorem State.postAll_clock (s : State) (is : List Event) : (s.postAll is).clock = s.clock := rfl
@[simp] theorem State.postAll_skew (s : State) (is : List Event) : (s.postAll is).skew = s.skew := rfl
@[simp] theorem State.postAll_agenda (s : State) (is : List Event) : (s.postAll is).agenda = s.agenda ++ is := rfl
@[simp] theorem State.postAll_inputs (s : State) (is : List Event) : (s.postAll is).inputs = s.inputs := rfl
@[simp] theorem State.postAll_due (s : State) (is : List Event) : (s.postAll is).due = s.due := rfl
@[simp] theorem State.postAll_oracle (s : State) (is : List Event) : (s.postAll is).oracle = s.oracle := rfl
@[simp] theorem State.postAll_fresh (s : State) (is : List Event) : (s.postAll is).fresh = s.fresh := rfl
@[simp] theorem State.postAll_nextId (s : State) (is : List Event) : (s.postAll is).nextId = s.nextId := rfl
@[simp] theorem State.postAll_cur (s : State) (is : List Event) : (s.postAll is).cur = s.cur := rfl
@[simp] theorem State.postAll_teams (s : State) (is : List Event) : (s.postAll is).teams = s.teams := rfl
@[simp] theorem State.postAll_cores (s : State) (is : List Event) : (s.postAll is).cores = s.cores := rfl
@[simp] theorem State.postAll_pairs (s : State) (is : List Event) : (s.postAll is).pairs = s.pairs := rfl
@[simp] theorem State.postAll_clusters (s : State) (is : List Event) : (s.postAll is).clusters = s.clusters := rfl
@[simp] theorem State.postAll_slices (s : State) (is : List Event) : (s.postAll is).slices = s.slices := rfl
@[simp] theorem State.postAll_homes (s : State) (is : List Event) : (s.postAll is).homes = s.homes := rfl
@[simp] theorem State.postAll_hbm (s : State) (is : List Event) : (s.postAll is).hbm = s.hbm := rfl
@[simp] theorem State.postAll_host (s : State) (is : List Event) : (s.postAll is).host = s.host := rfl
@[simp] theorem State.postAll_banks (s : State) (is : List Event) : (s.postAll is).banks = s.banks := rfl
@[simp] theorem State.postAll_dist (s : State) (is : List Event) : (s.postAll is).dist = s.dist := rfl
@[simp] theorem State.postAll_setlist (s : State) (is : List Event) : (s.postAll is).setlist = s.setlist := rfl
@[simp] theorem State.postAll_apt (s : State) (is : List Event) : (s.postAll is).apt = s.apt := rfl
@[simp] theorem State.postAll_mail (s : State) (is : List Event) : (s.postAll is).mail = s.mail := rfl
@[simp] theorem State.postAll_slicesets (s : State) (is : List Event) : (s.postAll is).slicesets = s.slicesets := rfl
@[simp] theorem State.postAll_parts (s : State) (is : List Event) : (s.postAll is).parts = s.parts := rfl
@[simp] theorem State.postAll_grids (s : State) (is : List Event) : (s.postAll is).grids = s.grids := rfl
@[simp] theorem State.postAll_dev (s : State) (is : List Event) : (s.postAll is).dev = s.dev := rfl
@[simp] theorem State.postAll_residues (s : State) (is : List Event) : (s.postAll is).residues = s.residues := rfl
@[simp] theorem State.postAll_outs (s : State) (is : List Event) : (s.postAll is).outs = s.outs := rfl

/-! ### postAt -/

@[simp] theorem State.postAt_clock (s : State) (t : Nat) (i : Event) : (s.postAt t i).clock = s.clock := rfl
@[simp] theorem State.postAt_skew (s : State) (t : Nat) (i : Event) : (s.postAt t i).skew = s.skew := rfl
@[simp] theorem State.postAt_agenda (s : State) (t : Nat) (i : Event) : (s.postAt t i).agenda = s.agenda := rfl
@[simp] theorem State.postAt_inputs (s : State) (t : Nat) (i : Event) : (s.postAt t i).inputs = s.inputs := rfl
@[simp] theorem State.postAt_due (s : State) (t : Nat) (i : Event) : (s.postAt t i).due = s.due ++ [(t, i)] := rfl
@[simp] theorem State.postAt_oracle (s : State) (t : Nat) (i : Event) : (s.postAt t i).oracle = s.oracle := rfl
@[simp] theorem State.postAt_fresh (s : State) (t : Nat) (i : Event) : (s.postAt t i).fresh = s.fresh := rfl
@[simp] theorem State.postAt_nextId (s : State) (t : Nat) (i : Event) : (s.postAt t i).nextId = s.nextId := rfl
@[simp] theorem State.postAt_cur (s : State) (t : Nat) (i : Event) : (s.postAt t i).cur = s.cur := rfl
@[simp] theorem State.postAt_teams (s : State) (t : Nat) (i : Event) : (s.postAt t i).teams = s.teams := rfl
@[simp] theorem State.postAt_cores (s : State) (t : Nat) (i : Event) : (s.postAt t i).cores = s.cores := rfl
@[simp] theorem State.postAt_pairs (s : State) (t : Nat) (i : Event) : (s.postAt t i).pairs = s.pairs := rfl
@[simp] theorem State.postAt_clusters (s : State) (t : Nat) (i : Event) : (s.postAt t i).clusters = s.clusters := rfl
@[simp] theorem State.postAt_slices (s : State) (t : Nat) (i : Event) : (s.postAt t i).slices = s.slices := rfl
@[simp] theorem State.postAt_homes (s : State) (t : Nat) (i : Event) : (s.postAt t i).homes = s.homes := rfl
@[simp] theorem State.postAt_hbm (s : State) (t : Nat) (i : Event) : (s.postAt t i).hbm = s.hbm := rfl
@[simp] theorem State.postAt_host (s : State) (t : Nat) (i : Event) : (s.postAt t i).host = s.host := rfl
@[simp] theorem State.postAt_banks (s : State) (t : Nat) (i : Event) : (s.postAt t i).banks = s.banks := rfl
@[simp] theorem State.postAt_dist (s : State) (t : Nat) (i : Event) : (s.postAt t i).dist = s.dist := rfl
@[simp] theorem State.postAt_setlist (s : State) (t : Nat) (i : Event) : (s.postAt t i).setlist = s.setlist := rfl
@[simp] theorem State.postAt_apt (s : State) (t : Nat) (i : Event) : (s.postAt t i).apt = s.apt := rfl
@[simp] theorem State.postAt_mail (s : State) (t : Nat) (i : Event) : (s.postAt t i).mail = s.mail := rfl
@[simp] theorem State.postAt_slicesets (s : State) (t : Nat) (i : Event) : (s.postAt t i).slicesets = s.slicesets := rfl
@[simp] theorem State.postAt_parts (s : State) (t : Nat) (i : Event) : (s.postAt t i).parts = s.parts := rfl
@[simp] theorem State.postAt_grids (s : State) (t : Nat) (i : Event) : (s.postAt t i).grids = s.grids := rfl
@[simp] theorem State.postAt_dev (s : State) (t : Nat) (i : Event) : (s.postAt t i).dev = s.dev := rfl
@[simp] theorem State.postAt_residues (s : State) (t : Nat) (i : Event) : (s.postAt t i).residues = s.residues := rfl
@[simp] theorem State.postAt_outs (s : State) (t : Nat) (i : Event) : (s.postAt t i).outs = s.outs := rfl

/-! ### out -/

@[simp] theorem State.out_clock (s : State) (o : Out) : (s.out o).clock = s.clock := rfl
@[simp] theorem State.out_skew (s : State) (o : Out) : (s.out o).skew = s.skew := rfl
@[simp] theorem State.out_agenda (s : State) (o : Out) : (s.out o).agenda = s.agenda := rfl
@[simp] theorem State.out_inputs (s : State) (o : Out) : (s.out o).inputs = s.inputs := rfl
@[simp] theorem State.out_due (s : State) (o : Out) : (s.out o).due = s.due := rfl
@[simp] theorem State.out_oracle (s : State) (o : Out) : (s.out o).oracle = s.oracle := rfl
@[simp] theorem State.out_fresh (s : State) (o : Out) : (s.out o).fresh = s.fresh := rfl
@[simp] theorem State.out_nextId (s : State) (o : Out) : (s.out o).nextId = s.nextId := rfl
@[simp] theorem State.out_cur (s : State) (o : Out) : (s.out o).cur = s.cur := rfl
@[simp] theorem State.out_teams (s : State) (o : Out) : (s.out o).teams = s.teams := rfl
@[simp] theorem State.out_cores (s : State) (o : Out) : (s.out o).cores = s.cores := rfl
@[simp] theorem State.out_pairs (s : State) (o : Out) : (s.out o).pairs = s.pairs := rfl
@[simp] theorem State.out_clusters (s : State) (o : Out) : (s.out o).clusters = s.clusters := rfl
@[simp] theorem State.out_slices (s : State) (o : Out) : (s.out o).slices = s.slices := rfl
@[simp] theorem State.out_homes (s : State) (o : Out) : (s.out o).homes = s.homes := rfl
@[simp] theorem State.out_hbm (s : State) (o : Out) : (s.out o).hbm = s.hbm := rfl
@[simp] theorem State.out_host (s : State) (o : Out) : (s.out o).host = s.host := rfl
@[simp] theorem State.out_banks (s : State) (o : Out) : (s.out o).banks = s.banks := rfl
@[simp] theorem State.out_dist (s : State) (o : Out) : (s.out o).dist = s.dist := rfl
@[simp] theorem State.out_setlist (s : State) (o : Out) : (s.out o).setlist = s.setlist := rfl
@[simp] theorem State.out_apt (s : State) (o : Out) : (s.out o).apt = s.apt := rfl
@[simp] theorem State.out_mail (s : State) (o : Out) : (s.out o).mail = s.mail := rfl
@[simp] theorem State.out_slicesets (s : State) (o : Out) : (s.out o).slicesets = s.slicesets := rfl
@[simp] theorem State.out_parts (s : State) (o : Out) : (s.out o).parts = s.parts := rfl
@[simp] theorem State.out_grids (s : State) (o : Out) : (s.out o).grids = s.grids := rfl
@[simp] theorem State.out_dev (s : State) (o : Out) : (s.out o).dev = s.dev := rfl
@[simp] theorem State.out_residues (s : State) (o : Out) : (s.out o).residues = s.residues := rfl
@[simp] theorem State.out_outs (s : State) (o : Out) : (s.out o).outs = s.outs ++ [o] := rfl

/-! ### modCore -/

@[simp] theorem State.modCore_clock (s : State) (n : Nat) (f : Core → Core) : (s.modCore n f).clock = s.clock := rfl
@[simp] theorem State.modCore_skew (s : State) (n : Nat) (f : Core → Core) : (s.modCore n f).skew = s.skew := rfl
@[simp] theorem State.modCore_agenda (s : State) (n : Nat) (f : Core → Core) : (s.modCore n f).agenda = s.agenda := rfl
@[simp] theorem State.modCore_inputs (s : State) (n : Nat) (f : Core → Core) : (s.modCore n f).inputs = s.inputs := rfl
@[simp] theorem State.modCore_due (s : State) (n : Nat) (f : Core → Core) : (s.modCore n f).due = s.due := rfl
@[simp] theorem State.modCore_oracle (s : State) (n : Nat) (f : Core → Core) : (s.modCore n f).oracle = s.oracle := rfl
@[simp] theorem State.modCore_fresh (s : State) (n : Nat) (f : Core → Core) : (s.modCore n f).fresh = s.fresh := rfl
@[simp] theorem State.modCore_nextId (s : State) (n : Nat) (f : Core → Core) : (s.modCore n f).nextId = s.nextId := rfl
@[simp] theorem State.modCore_cur (s : State) (n : Nat) (f : Core → Core) : (s.modCore n f).cur = s.cur := rfl
@[simp] theorem State.modCore_teams (s : State) (n : Nat) (f : Core → Core) : (s.modCore n f).teams = s.teams := rfl
@[simp] theorem State.modCore_cores (s : State) (n : Nat) (f : Core → Core) : (s.modCore n f).cores = s.cores.put n (f (s.core n)) := rfl
@[simp] theorem State.modCore_pairs (s : State) (n : Nat) (f : Core → Core) : (s.modCore n f).pairs = s.pairs := rfl
@[simp] theorem State.modCore_clusters (s : State) (n : Nat) (f : Core → Core) : (s.modCore n f).clusters = s.clusters := rfl
@[simp] theorem State.modCore_slices (s : State) (n : Nat) (f : Core → Core) : (s.modCore n f).slices = s.slices := rfl
@[simp] theorem State.modCore_homes (s : State) (n : Nat) (f : Core → Core) : (s.modCore n f).homes = s.homes := rfl
@[simp] theorem State.modCore_hbm (s : State) (n : Nat) (f : Core → Core) : (s.modCore n f).hbm = s.hbm := rfl
@[simp] theorem State.modCore_host (s : State) (n : Nat) (f : Core → Core) : (s.modCore n f).host = s.host := rfl
@[simp] theorem State.modCore_banks (s : State) (n : Nat) (f : Core → Core) : (s.modCore n f).banks = s.banks := rfl
@[simp] theorem State.modCore_dist (s : State) (n : Nat) (f : Core → Core) : (s.modCore n f).dist = s.dist := rfl
@[simp] theorem State.modCore_setlist (s : State) (n : Nat) (f : Core → Core) : (s.modCore n f).setlist = s.setlist := rfl
@[simp] theorem State.modCore_apt (s : State) (n : Nat) (f : Core → Core) : (s.modCore n f).apt = s.apt := rfl
@[simp] theorem State.modCore_mail (s : State) (n : Nat) (f : Core → Core) : (s.modCore n f).mail = s.mail := rfl
@[simp] theorem State.modCore_slicesets (s : State) (n : Nat) (f : Core → Core) : (s.modCore n f).slicesets = s.slicesets := rfl
@[simp] theorem State.modCore_parts (s : State) (n : Nat) (f : Core → Core) : (s.modCore n f).parts = s.parts := rfl
@[simp] theorem State.modCore_grids (s : State) (n : Nat) (f : Core → Core) : (s.modCore n f).grids = s.grids := rfl
@[simp] theorem State.modCore_dev (s : State) (n : Nat) (f : Core → Core) : (s.modCore n f).dev = s.dev := rfl
@[simp] theorem State.modCore_residues (s : State) (n : Nat) (f : Core → Core) : (s.modCore n f).residues = s.residues := rfl
@[simp] theorem State.modCore_outs (s : State) (n : Nat) (f : Core → Core) : (s.modCore n f).outs = s.outs := rfl

/-! ### modCluster -/

@[simp] theorem State.modCluster_clock (s : State) (n : Nat) (f : Cluster → Cluster) : (s.modCluster n f).clock = s.clock := rfl
@[simp] theorem State.modCluster_skew (s : State) (n : Nat) (f : Cluster → Cluster) : (s.modCluster n f).skew = s.skew := rfl
@[simp] theorem State.modCluster_agenda (s : State) (n : Nat) (f : Cluster → Cluster) : (s.modCluster n f).agenda = s.agenda := rfl
@[simp] theorem State.modCluster_inputs (s : State) (n : Nat) (f : Cluster → Cluster) : (s.modCluster n f).inputs = s.inputs := rfl
@[simp] theorem State.modCluster_due (s : State) (n : Nat) (f : Cluster → Cluster) : (s.modCluster n f).due = s.due := rfl
@[simp] theorem State.modCluster_oracle (s : State) (n : Nat) (f : Cluster → Cluster) : (s.modCluster n f).oracle = s.oracle := rfl
@[simp] theorem State.modCluster_fresh (s : State) (n : Nat) (f : Cluster → Cluster) : (s.modCluster n f).fresh = s.fresh := rfl
@[simp] theorem State.modCluster_nextId (s : State) (n : Nat) (f : Cluster → Cluster) : (s.modCluster n f).nextId = s.nextId := rfl
@[simp] theorem State.modCluster_cur (s : State) (n : Nat) (f : Cluster → Cluster) : (s.modCluster n f).cur = s.cur := rfl
@[simp] theorem State.modCluster_teams (s : State) (n : Nat) (f : Cluster → Cluster) : (s.modCluster n f).teams = s.teams := rfl
@[simp] theorem State.modCluster_cores (s : State) (n : Nat) (f : Cluster → Cluster) : (s.modCluster n f).cores = s.cores := rfl
@[simp] theorem State.modCluster_pairs (s : State) (n : Nat) (f : Cluster → Cluster) : (s.modCluster n f).pairs = s.pairs := rfl
@[simp] theorem State.modCluster_clusters (s : State) (n : Nat) (f : Cluster → Cluster) : (s.modCluster n f).clusters = s.clusters.put n (f (s.cluster n)) := rfl
@[simp] theorem State.modCluster_slices (s : State) (n : Nat) (f : Cluster → Cluster) : (s.modCluster n f).slices = s.slices := rfl
@[simp] theorem State.modCluster_homes (s : State) (n : Nat) (f : Cluster → Cluster) : (s.modCluster n f).homes = s.homes := rfl
@[simp] theorem State.modCluster_hbm (s : State) (n : Nat) (f : Cluster → Cluster) : (s.modCluster n f).hbm = s.hbm := rfl
@[simp] theorem State.modCluster_host (s : State) (n : Nat) (f : Cluster → Cluster) : (s.modCluster n f).host = s.host := rfl
@[simp] theorem State.modCluster_banks (s : State) (n : Nat) (f : Cluster → Cluster) : (s.modCluster n f).banks = s.banks := rfl
@[simp] theorem State.modCluster_dist (s : State) (n : Nat) (f : Cluster → Cluster) : (s.modCluster n f).dist = s.dist := rfl
@[simp] theorem State.modCluster_setlist (s : State) (n : Nat) (f : Cluster → Cluster) : (s.modCluster n f).setlist = s.setlist := rfl
@[simp] theorem State.modCluster_apt (s : State) (n : Nat) (f : Cluster → Cluster) : (s.modCluster n f).apt = s.apt := rfl
@[simp] theorem State.modCluster_mail (s : State) (n : Nat) (f : Cluster → Cluster) : (s.modCluster n f).mail = s.mail := rfl
@[simp] theorem State.modCluster_slicesets (s : State) (n : Nat) (f : Cluster → Cluster) : (s.modCluster n f).slicesets = s.slicesets := rfl
@[simp] theorem State.modCluster_parts (s : State) (n : Nat) (f : Cluster → Cluster) : (s.modCluster n f).parts = s.parts := rfl
@[simp] theorem State.modCluster_grids (s : State) (n : Nat) (f : Cluster → Cluster) : (s.modCluster n f).grids = s.grids := rfl
@[simp] theorem State.modCluster_dev (s : State) (n : Nat) (f : Cluster → Cluster) : (s.modCluster n f).dev = s.dev := rfl
@[simp] theorem State.modCluster_residues (s : State) (n : Nat) (f : Cluster → Cluster) : (s.modCluster n f).residues = s.residues := rfl
@[simp] theorem State.modCluster_outs (s : State) (n : Nat) (f : Cluster → Cluster) : (s.modCluster n f).outs = s.outs := rfl

/-! ### modPair -/

@[simp] theorem State.modPair_clock (s : State) (n : Nat) (f : List CLine → List CLine) : (s.modPair n f).clock = s.clock := rfl
@[simp] theorem State.modPair_skew (s : State) (n : Nat) (f : List CLine → List CLine) : (s.modPair n f).skew = s.skew := rfl
@[simp] theorem State.modPair_agenda (s : State) (n : Nat) (f : List CLine → List CLine) : (s.modPair n f).agenda = s.agenda := rfl
@[simp] theorem State.modPair_inputs (s : State) (n : Nat) (f : List CLine → List CLine) : (s.modPair n f).inputs = s.inputs := rfl
@[simp] theorem State.modPair_due (s : State) (n : Nat) (f : List CLine → List CLine) : (s.modPair n f).due = s.due := rfl
@[simp] theorem State.modPair_oracle (s : State) (n : Nat) (f : List CLine → List CLine) : (s.modPair n f).oracle = s.oracle := rfl
@[simp] theorem State.modPair_fresh (s : State) (n : Nat) (f : List CLine → List CLine) : (s.modPair n f).fresh = s.fresh := rfl
@[simp] theorem State.modPair_nextId (s : State) (n : Nat) (f : List CLine → List CLine) : (s.modPair n f).nextId = s.nextId := rfl
@[simp] theorem State.modPair_cur (s : State) (n : Nat) (f : List CLine → List CLine) : (s.modPair n f).cur = s.cur := rfl
@[simp] theorem State.modPair_teams (s : State) (n : Nat) (f : List CLine → List CLine) : (s.modPair n f).teams = s.teams := rfl
@[simp] theorem State.modPair_cores (s : State) (n : Nat) (f : List CLine → List CLine) : (s.modPair n f).cores = s.cores := rfl
@[simp] theorem State.modPair_pairs (s : State) (n : Nat) (f : List CLine → List CLine) : (s.modPair n f).pairs = s.pairs.put n (f (s.pair n)) := rfl
@[simp] theorem State.modPair_clusters (s : State) (n : Nat) (f : List CLine → List CLine) : (s.modPair n f).clusters = s.clusters := rfl
@[simp] theorem State.modPair_slices (s : State) (n : Nat) (f : List CLine → List CLine) : (s.modPair n f).slices = s.slices := rfl
@[simp] theorem State.modPair_homes (s : State) (n : Nat) (f : List CLine → List CLine) : (s.modPair n f).homes = s.homes := rfl
@[simp] theorem State.modPair_hbm (s : State) (n : Nat) (f : List CLine → List CLine) : (s.modPair n f).hbm = s.hbm := rfl
@[simp] theorem State.modPair_host (s : State) (n : Nat) (f : List CLine → List CLine) : (s.modPair n f).host = s.host := rfl
@[simp] theorem State.modPair_banks (s : State) (n : Nat) (f : List CLine → List CLine) : (s.modPair n f).banks = s.banks := rfl
@[simp] theorem State.modPair_dist (s : State) (n : Nat) (f : List CLine → List CLine) : (s.modPair n f).dist = s.dist := rfl
@[simp] theorem State.modPair_setlist (s : State) (n : Nat) (f : List CLine → List CLine) : (s.modPair n f).setlist = s.setlist := rfl
@[simp] theorem State.modPair_apt (s : State) (n : Nat) (f : List CLine → List CLine) : (s.modPair n f).apt = s.apt := rfl
@[simp] theorem State.modPair_mail (s : State) (n : Nat) (f : List CLine → List CLine) : (s.modPair n f).mail = s.mail := rfl
@[simp] theorem State.modPair_slicesets (s : State) (n : Nat) (f : List CLine → List CLine) : (s.modPair n f).slicesets = s.slicesets := rfl
@[simp] theorem State.modPair_parts (s : State) (n : Nat) (f : List CLine → List CLine) : (s.modPair n f).parts = s.parts := rfl
@[simp] theorem State.modPair_grids (s : State) (n : Nat) (f : List CLine → List CLine) : (s.modPair n f).grids = s.grids := rfl
@[simp] theorem State.modPair_dev (s : State) (n : Nat) (f : List CLine → List CLine) : (s.modPair n f).dev = s.dev := rfl
@[simp] theorem State.modPair_residues (s : State) (n : Nat) (f : List CLine → List CLine) : (s.modPair n f).residues = s.residues := rfl
@[simp] theorem State.modPair_outs (s : State) (n : Nat) (f : List CLine → List CLine) : (s.modPair n f).outs = s.outs := rfl

/-! ### modSlice -/

@[simp] theorem State.modSlice_clock (s : State) (n : Nat) (f : Slice → Slice) : (s.modSlice n f).clock = s.clock := rfl
@[simp] theorem State.modSlice_skew (s : State) (n : Nat) (f : Slice → Slice) : (s.modSlice n f).skew = s.skew := rfl
@[simp] theorem State.modSlice_agenda (s : State) (n : Nat) (f : Slice → Slice) : (s.modSlice n f).agenda = s.agenda := rfl
@[simp] theorem State.modSlice_inputs (s : State) (n : Nat) (f : Slice → Slice) : (s.modSlice n f).inputs = s.inputs := rfl
@[simp] theorem State.modSlice_due (s : State) (n : Nat) (f : Slice → Slice) : (s.modSlice n f).due = s.due := rfl
@[simp] theorem State.modSlice_oracle (s : State) (n : Nat) (f : Slice → Slice) : (s.modSlice n f).oracle = s.oracle := rfl
@[simp] theorem State.modSlice_fresh (s : State) (n : Nat) (f : Slice → Slice) : (s.modSlice n f).fresh = s.fresh := rfl
@[simp] theorem State.modSlice_nextId (s : State) (n : Nat) (f : Slice → Slice) : (s.modSlice n f).nextId = s.nextId := rfl
@[simp] theorem State.modSlice_cur (s : State) (n : Nat) (f : Slice → Slice) : (s.modSlice n f).cur = s.cur := rfl
@[simp] theorem State.modSlice_teams (s : State) (n : Nat) (f : Slice → Slice) : (s.modSlice n f).teams = s.teams := rfl
@[simp] theorem State.modSlice_cores (s : State) (n : Nat) (f : Slice → Slice) : (s.modSlice n f).cores = s.cores := rfl
@[simp] theorem State.modSlice_pairs (s : State) (n : Nat) (f : Slice → Slice) : (s.modSlice n f).pairs = s.pairs := rfl
@[simp] theorem State.modSlice_clusters (s : State) (n : Nat) (f : Slice → Slice) : (s.modSlice n f).clusters = s.clusters := rfl
@[simp] theorem State.modSlice_slices (s : State) (n : Nat) (f : Slice → Slice) : (s.modSlice n f).slices = s.slices.put n (f (s.slice n)) := rfl
@[simp] theorem State.modSlice_homes (s : State) (n : Nat) (f : Slice → Slice) : (s.modSlice n f).homes = s.homes := rfl
@[simp] theorem State.modSlice_hbm (s : State) (n : Nat) (f : Slice → Slice) : (s.modSlice n f).hbm = s.hbm := rfl
@[simp] theorem State.modSlice_host (s : State) (n : Nat) (f : Slice → Slice) : (s.modSlice n f).host = s.host := rfl
@[simp] theorem State.modSlice_banks (s : State) (n : Nat) (f : Slice → Slice) : (s.modSlice n f).banks = s.banks := rfl
@[simp] theorem State.modSlice_dist (s : State) (n : Nat) (f : Slice → Slice) : (s.modSlice n f).dist = s.dist := rfl
@[simp] theorem State.modSlice_setlist (s : State) (n : Nat) (f : Slice → Slice) : (s.modSlice n f).setlist = s.setlist := rfl
@[simp] theorem State.modSlice_apt (s : State) (n : Nat) (f : Slice → Slice) : (s.modSlice n f).apt = s.apt := rfl
@[simp] theorem State.modSlice_mail (s : State) (n : Nat) (f : Slice → Slice) : (s.modSlice n f).mail = s.mail := rfl
@[simp] theorem State.modSlice_slicesets (s : State) (n : Nat) (f : Slice → Slice) : (s.modSlice n f).slicesets = s.slicesets := rfl
@[simp] theorem State.modSlice_parts (s : State) (n : Nat) (f : Slice → Slice) : (s.modSlice n f).parts = s.parts := rfl
@[simp] theorem State.modSlice_grids (s : State) (n : Nat) (f : Slice → Slice) : (s.modSlice n f).grids = s.grids := rfl
@[simp] theorem State.modSlice_dev (s : State) (n : Nat) (f : Slice → Slice) : (s.modSlice n f).dev = s.dev := rfl
@[simp] theorem State.modSlice_residues (s : State) (n : Nat) (f : Slice → Slice) : (s.modSlice n f).residues = s.residues := rfl
@[simp] theorem State.modSlice_outs (s : State) (n : Nat) (f : Slice → Slice) : (s.modSlice n f).outs = s.outs := rfl

/-! ### modHome -/

@[simp] theorem State.modHome_clock (s : State) (n : Nat) (f : Home → Home) : (s.modHome n f).clock = s.clock := rfl
@[simp] theorem State.modHome_skew (s : State) (n : Nat) (f : Home → Home) : (s.modHome n f).skew = s.skew := rfl
@[simp] theorem State.modHome_agenda (s : State) (n : Nat) (f : Home → Home) : (s.modHome n f).agenda = s.agenda := rfl
@[simp] theorem State.modHome_inputs (s : State) (n : Nat) (f : Home → Home) : (s.modHome n f).inputs = s.inputs := rfl
@[simp] theorem State.modHome_due (s : State) (n : Nat) (f : Home → Home) : (s.modHome n f).due = s.due := rfl
@[simp] theorem State.modHome_oracle (s : State) (n : Nat) (f : Home → Home) : (s.modHome n f).oracle = s.oracle := rfl
@[simp] theorem State.modHome_fresh (s : State) (n : Nat) (f : Home → Home) : (s.modHome n f).fresh = s.fresh := rfl
@[simp] theorem State.modHome_nextId (s : State) (n : Nat) (f : Home → Home) : (s.modHome n f).nextId = s.nextId := rfl
@[simp] theorem State.modHome_cur (s : State) (n : Nat) (f : Home → Home) : (s.modHome n f).cur = s.cur := rfl
@[simp] theorem State.modHome_teams (s : State) (n : Nat) (f : Home → Home) : (s.modHome n f).teams = s.teams := rfl
@[simp] theorem State.modHome_cores (s : State) (n : Nat) (f : Home → Home) : (s.modHome n f).cores = s.cores := rfl
@[simp] theorem State.modHome_pairs (s : State) (n : Nat) (f : Home → Home) : (s.modHome n f).pairs = s.pairs := rfl
@[simp] theorem State.modHome_clusters (s : State) (n : Nat) (f : Home → Home) : (s.modHome n f).clusters = s.clusters := rfl
@[simp] theorem State.modHome_slices (s : State) (n : Nat) (f : Home → Home) : (s.modHome n f).slices = s.slices := rfl
@[simp] theorem State.modHome_homes (s : State) (n : Nat) (f : Home → Home) : (s.modHome n f).homes = s.homes.put n (f (s.home n)) := rfl
@[simp] theorem State.modHome_hbm (s : State) (n : Nat) (f : Home → Home) : (s.modHome n f).hbm = s.hbm := rfl
@[simp] theorem State.modHome_host (s : State) (n : Nat) (f : Home → Home) : (s.modHome n f).host = s.host := rfl
@[simp] theorem State.modHome_banks (s : State) (n : Nat) (f : Home → Home) : (s.modHome n f).banks = s.banks := rfl
@[simp] theorem State.modHome_dist (s : State) (n : Nat) (f : Home → Home) : (s.modHome n f).dist = s.dist := rfl
@[simp] theorem State.modHome_setlist (s : State) (n : Nat) (f : Home → Home) : (s.modHome n f).setlist = s.setlist := rfl
@[simp] theorem State.modHome_apt (s : State) (n : Nat) (f : Home → Home) : (s.modHome n f).apt = s.apt := rfl
@[simp] theorem State.modHome_mail (s : State) (n : Nat) (f : Home → Home) : (s.modHome n f).mail = s.mail := rfl
@[simp] theorem State.modHome_slicesets (s : State) (n : Nat) (f : Home → Home) : (s.modHome n f).slicesets = s.slicesets := rfl
@[simp] theorem State.modHome_parts (s : State) (n : Nat) (f : Home → Home) : (s.modHome n f).parts = s.parts := rfl
@[simp] theorem State.modHome_grids (s : State) (n : Nat) (f : Home → Home) : (s.modHome n f).grids = s.grids := rfl
@[simp] theorem State.modHome_dev (s : State) (n : Nat) (f : Home → Home) : (s.modHome n f).dev = s.dev := rfl
@[simp] theorem State.modHome_residues (s : State) (n : Nat) (f : Home → Home) : (s.modHome n f).residues = s.residues := rfl
@[simp] theorem State.modHome_outs (s : State) (n : Nat) (f : Home → Home) : (s.modHome n f).outs = s.outs := rfl

/-! ### modPart -/

@[simp] theorem State.modPart_clock (s : State) (n : Nat) (f : Part → Part) : (s.modPart n f).clock = s.clock := rfl
@[simp] theorem State.modPart_skew (s : State) (n : Nat) (f : Part → Part) : (s.modPart n f).skew = s.skew := rfl
@[simp] theorem State.modPart_agenda (s : State) (n : Nat) (f : Part → Part) : (s.modPart n f).agenda = s.agenda := rfl
@[simp] theorem State.modPart_inputs (s : State) (n : Nat) (f : Part → Part) : (s.modPart n f).inputs = s.inputs := rfl
@[simp] theorem State.modPart_due (s : State) (n : Nat) (f : Part → Part) : (s.modPart n f).due = s.due := rfl
@[simp] theorem State.modPart_oracle (s : State) (n : Nat) (f : Part → Part) : (s.modPart n f).oracle = s.oracle := rfl
@[simp] theorem State.modPart_fresh (s : State) (n : Nat) (f : Part → Part) : (s.modPart n f).fresh = s.fresh := rfl
@[simp] theorem State.modPart_nextId (s : State) (n : Nat) (f : Part → Part) : (s.modPart n f).nextId = s.nextId := rfl
@[simp] theorem State.modPart_cur (s : State) (n : Nat) (f : Part → Part) : (s.modPart n f).cur = s.cur := rfl
@[simp] theorem State.modPart_teams (s : State) (n : Nat) (f : Part → Part) : (s.modPart n f).teams = s.teams := rfl
@[simp] theorem State.modPart_cores (s : State) (n : Nat) (f : Part → Part) : (s.modPart n f).cores = s.cores := rfl
@[simp] theorem State.modPart_pairs (s : State) (n : Nat) (f : Part → Part) : (s.modPart n f).pairs = s.pairs := rfl
@[simp] theorem State.modPart_clusters (s : State) (n : Nat) (f : Part → Part) : (s.modPart n f).clusters = s.clusters := rfl
@[simp] theorem State.modPart_slices (s : State) (n : Nat) (f : Part → Part) : (s.modPart n f).slices = s.slices := rfl
@[simp] theorem State.modPart_homes (s : State) (n : Nat) (f : Part → Part) : (s.modPart n f).homes = s.homes := rfl
@[simp] theorem State.modPart_hbm (s : State) (n : Nat) (f : Part → Part) : (s.modPart n f).hbm = s.hbm := rfl
@[simp] theorem State.modPart_host (s : State) (n : Nat) (f : Part → Part) : (s.modPart n f).host = s.host := rfl
@[simp] theorem State.modPart_banks (s : State) (n : Nat) (f : Part → Part) : (s.modPart n f).banks = s.banks := rfl
@[simp] theorem State.modPart_dist (s : State) (n : Nat) (f : Part → Part) : (s.modPart n f).dist = s.dist := rfl
@[simp] theorem State.modPart_setlist (s : State) (n : Nat) (f : Part → Part) : (s.modPart n f).setlist = s.setlist := rfl
@[simp] theorem State.modPart_apt (s : State) (n : Nat) (f : Part → Part) : (s.modPart n f).apt = s.apt := rfl
@[simp] theorem State.modPart_mail (s : State) (n : Nat) (f : Part → Part) : (s.modPart n f).mail = s.mail := rfl
@[simp] theorem State.modPart_slicesets (s : State) (n : Nat) (f : Part → Part) : (s.modPart n f).slicesets = s.slicesets := rfl
@[simp] theorem State.modPart_parts (s : State) (n : Nat) (f : Part → Part) : (s.modPart n f).parts = s.parts.put n (f (s.part n)) := rfl
@[simp] theorem State.modPart_grids (s : State) (n : Nat) (f : Part → Part) : (s.modPart n f).grids = s.grids := rfl
@[simp] theorem State.modPart_dev (s : State) (n : Nat) (f : Part → Part) : (s.modPart n f).dev = s.dev := rfl
@[simp] theorem State.modPart_residues (s : State) (n : Nat) (f : Part → Part) : (s.modPart n f).residues = s.residues := rfl
@[simp] theorem State.modPart_outs (s : State) (n : Nat) (f : Part → Part) : (s.modPart n f).outs = s.outs := rfl

/-! ### modDev -/

@[simp] theorem State.modDev_clock (s : State) (f : Device → Device) : (s.modDev f).clock = s.clock := rfl
@[simp] theorem State.modDev_skew (s : State) (f : Device → Device) : (s.modDev f).skew = s.skew := rfl
@[simp] theorem State.modDev_agenda (s : State) (f : Device → Device) : (s.modDev f).agenda = s.agenda := rfl
@[simp] theorem State.modDev_inputs (s : State) (f : Device → Device) : (s.modDev f).inputs = s.inputs := rfl
@[simp] theorem State.modDev_due (s : State) (f : Device → Device) : (s.modDev f).due = s.due := rfl
@[simp] theorem State.modDev_oracle (s : State) (f : Device → Device) : (s.modDev f).oracle = s.oracle := rfl
@[simp] theorem State.modDev_fresh (s : State) (f : Device → Device) : (s.modDev f).fresh = s.fresh := rfl
@[simp] theorem State.modDev_nextId (s : State) (f : Device → Device) : (s.modDev f).nextId = s.nextId := rfl
@[simp] theorem State.modDev_cur (s : State) (f : Device → Device) : (s.modDev f).cur = s.cur := rfl
@[simp] theorem State.modDev_teams (s : State) (f : Device → Device) : (s.modDev f).teams = s.teams := rfl
@[simp] theorem State.modDev_cores (s : State) (f : Device → Device) : (s.modDev f).cores = s.cores := rfl
@[simp] theorem State.modDev_pairs (s : State) (f : Device → Device) : (s.modDev f).pairs = s.pairs := rfl
@[simp] theorem State.modDev_clusters (s : State) (f : Device → Device) : (s.modDev f).clusters = s.clusters := rfl
@[simp] theorem State.modDev_slices (s : State) (f : Device → Device) : (s.modDev f).slices = s.slices := rfl
@[simp] theorem State.modDev_homes (s : State) (f : Device → Device) : (s.modDev f).homes = s.homes := rfl
@[simp] theorem State.modDev_hbm (s : State) (f : Device → Device) : (s.modDev f).hbm = s.hbm := rfl
@[simp] theorem State.modDev_host (s : State) (f : Device → Device) : (s.modDev f).host = s.host := rfl
@[simp] theorem State.modDev_banks (s : State) (f : Device → Device) : (s.modDev f).banks = s.banks := rfl
@[simp] theorem State.modDev_dist (s : State) (f : Device → Device) : (s.modDev f).dist = s.dist := rfl
@[simp] theorem State.modDev_setlist (s : State) (f : Device → Device) : (s.modDev f).setlist = s.setlist := rfl
@[simp] theorem State.modDev_apt (s : State) (f : Device → Device) : (s.modDev f).apt = s.apt := rfl
@[simp] theorem State.modDev_mail (s : State) (f : Device → Device) : (s.modDev f).mail = s.mail := rfl
@[simp] theorem State.modDev_slicesets (s : State) (f : Device → Device) : (s.modDev f).slicesets = s.slicesets := rfl
@[simp] theorem State.modDev_parts (s : State) (f : Device → Device) : (s.modDev f).parts = s.parts := rfl
@[simp] theorem State.modDev_grids (s : State) (f : Device → Device) : (s.modDev f).grids = s.grids := rfl
@[simp] theorem State.modDev_dev (s : State) (f : Device → Device) : (s.modDev f).dev = f s.dev := rfl
@[simp] theorem State.modDev_residues (s : State) (f : Device → Device) : (s.modDev f).residues = s.residues := rfl
@[simp] theorem State.modDev_outs (s : State) (f : Device → Device) : (s.modDev f).outs = s.outs := rfl

/-! ### mapThreads -/

@[simp] theorem State.mapThreads_clock (s : State) (f : ThreadRef → Thread → Thread) : (s.mapThreads f).clock = s.clock := rfl
@[simp] theorem State.mapThreads_skew (s : State) (f : ThreadRef → Thread → Thread) : (s.mapThreads f).skew = s.skew := rfl
@[simp] theorem State.mapThreads_agenda (s : State) (f : ThreadRef → Thread → Thread) : (s.mapThreads f).agenda = s.agenda := rfl
@[simp] theorem State.mapThreads_inputs (s : State) (f : ThreadRef → Thread → Thread) : (s.mapThreads f).inputs = s.inputs := rfl
@[simp] theorem State.mapThreads_due (s : State) (f : ThreadRef → Thread → Thread) : (s.mapThreads f).due = s.due := rfl
@[simp] theorem State.mapThreads_oracle (s : State) (f : ThreadRef → Thread → Thread) : (s.mapThreads f).oracle = s.oracle := rfl
@[simp] theorem State.mapThreads_fresh (s : State) (f : ThreadRef → Thread → Thread) : (s.mapThreads f).fresh = s.fresh := rfl
@[simp] theorem State.mapThreads_nextId (s : State) (f : ThreadRef → Thread → Thread) : (s.mapThreads f).nextId = s.nextId := rfl
@[simp] theorem State.mapThreads_cur (s : State) (f : ThreadRef → Thread → Thread) : (s.mapThreads f).cur = s.cur := rfl
@[simp] theorem State.mapThreads_cores (s : State) (f : ThreadRef → Thread → Thread) : (s.mapThreads f).cores = s.cores := rfl
@[simp] theorem State.mapThreads_pairs (s : State) (f : ThreadRef → Thread → Thread) : (s.mapThreads f).pairs = s.pairs := rfl
@[simp] theorem State.mapThreads_clusters (s : State) (f : ThreadRef → Thread → Thread) : (s.mapThreads f).clusters = s.clusters := rfl
@[simp] theorem State.mapThreads_slices (s : State) (f : ThreadRef → Thread → Thread) : (s.mapThreads f).slices = s.slices := rfl
@[simp] theorem State.mapThreads_homes (s : State) (f : ThreadRef → Thread → Thread) : (s.mapThreads f).homes = s.homes := rfl
@[simp] theorem State.mapThreads_hbm (s : State) (f : ThreadRef → Thread → Thread) : (s.mapThreads f).hbm = s.hbm := rfl
@[simp] theorem State.mapThreads_host (s : State) (f : ThreadRef → Thread → Thread) : (s.mapThreads f).host = s.host := rfl
@[simp] theorem State.mapThreads_banks (s : State) (f : ThreadRef → Thread → Thread) : (s.mapThreads f).banks = s.banks := rfl
@[simp] theorem State.mapThreads_dist (s : State) (f : ThreadRef → Thread → Thread) : (s.mapThreads f).dist = s.dist := rfl
@[simp] theorem State.mapThreads_setlist (s : State) (f : ThreadRef → Thread → Thread) : (s.mapThreads f).setlist = s.setlist := rfl
@[simp] theorem State.mapThreads_apt (s : State) (f : ThreadRef → Thread → Thread) : (s.mapThreads f).apt = s.apt := rfl
@[simp] theorem State.mapThreads_mail (s : State) (f : ThreadRef → Thread → Thread) : (s.mapThreads f).mail = s.mail := rfl
@[simp] theorem State.mapThreads_slicesets (s : State) (f : ThreadRef → Thread → Thread) : (s.mapThreads f).slicesets = s.slicesets := rfl
@[simp] theorem State.mapThreads_parts (s : State) (f : ThreadRef → Thread → Thread) : (s.mapThreads f).parts = s.parts := rfl
@[simp] theorem State.mapThreads_grids (s : State) (f : ThreadRef → Thread → Thread) : (s.mapThreads f).grids = s.grids := rfl
@[simp] theorem State.mapThreads_dev (s : State) (f : ThreadRef → Thread → Thread) : (s.mapThreads f).dev = s.dev := rfl
@[simp] theorem State.mapThreads_residues (s : State) (f : ThreadRef → Thread → Thread) : (s.mapThreads f).residues = s.residues := rfl
@[simp] theorem State.mapThreads_outs (s : State) (f : ThreadRef → Thread → Thread) : (s.mapThreads f).outs = s.outs := rfl

/-! ### mapGroups -/

@[simp] theorem State.mapGroups_clock (s : State) (f : Nat → Nat → Group → Group) : (s.mapGroups f).clock = s.clock := rfl
@[simp] theorem State.mapGroups_skew (s : State) (f : Nat → Nat → Group → Group) : (s.mapGroups f).skew = s.skew := rfl
@[simp] theorem State.mapGroups_agenda (s : State) (f : Nat → Nat → Group → Group) : (s.mapGroups f).agenda = s.agenda := rfl
@[simp] theorem State.mapGroups_inputs (s : State) (f : Nat → Nat → Group → Group) : (s.mapGroups f).inputs = s.inputs := rfl
@[simp] theorem State.mapGroups_due (s : State) (f : Nat → Nat → Group → Group) : (s.mapGroups f).due = s.due := rfl
@[simp] theorem State.mapGroups_oracle (s : State) (f : Nat → Nat → Group → Group) : (s.mapGroups f).oracle = s.oracle := rfl
@[simp] theorem State.mapGroups_fresh (s : State) (f : Nat → Nat → Group → Group) : (s.mapGroups f).fresh = s.fresh := rfl
@[simp] theorem State.mapGroups_nextId (s : State) (f : Nat → Nat → Group → Group) : (s.mapGroups f).nextId = s.nextId := rfl
@[simp] theorem State.mapGroups_cur (s : State) (f : Nat → Nat → Group → Group) : (s.mapGroups f).cur = s.cur := rfl
@[simp] theorem State.mapGroups_cores (s : State) (f : Nat → Nat → Group → Group) : (s.mapGroups f).cores = s.cores := rfl
@[simp] theorem State.mapGroups_pairs (s : State) (f : Nat → Nat → Group → Group) : (s.mapGroups f).pairs = s.pairs := rfl
@[simp] theorem State.mapGroups_clusters (s : State) (f : Nat → Nat → Group → Group) : (s.mapGroups f).clusters = s.clusters := rfl
@[simp] theorem State.mapGroups_slices (s : State) (f : Nat → Nat → Group → Group) : (s.mapGroups f).slices = s.slices := rfl
@[simp] theorem State.mapGroups_homes (s : State) (f : Nat → Nat → Group → Group) : (s.mapGroups f).homes = s.homes := rfl
@[simp] theorem State.mapGroups_hbm (s : State) (f : Nat → Nat → Group → Group) : (s.mapGroups f).hbm = s.hbm := rfl
@[simp] theorem State.mapGroups_host (s : State) (f : Nat → Nat → Group → Group) : (s.mapGroups f).host = s.host := rfl
@[simp] theorem State.mapGroups_banks (s : State) (f : Nat → Nat → Group → Group) : (s.mapGroups f).banks = s.banks := rfl
@[simp] theorem State.mapGroups_dist (s : State) (f : Nat → Nat → Group → Group) : (s.mapGroups f).dist = s.dist := rfl
@[simp] theorem State.mapGroups_setlist (s : State) (f : Nat → Nat → Group → Group) : (s.mapGroups f).setlist = s.setlist := rfl
@[simp] theorem State.mapGroups_apt (s : State) (f : Nat → Nat → Group → Group) : (s.mapGroups f).apt = s.apt := rfl
@[simp] theorem State.mapGroups_mail (s : State) (f : Nat → Nat → Group → Group) : (s.mapGroups f).mail = s.mail := rfl
@[simp] theorem State.mapGroups_slicesets (s : State) (f : Nat → Nat → Group → Group) : (s.mapGroups f).slicesets = s.slicesets := rfl
@[simp] theorem State.mapGroups_parts (s : State) (f : Nat → Nat → Group → Group) : (s.mapGroups f).parts = s.parts := rfl
@[simp] theorem State.mapGroups_grids (s : State) (f : Nat → Nat → Group → Group) : (s.mapGroups f).grids = s.grids := rfl
@[simp] theorem State.mapGroups_dev (s : State) (f : Nat → Nat → Group → Group) : (s.mapGroups f).dev = s.dev := rfl
@[simp] theorem State.mapGroups_residues (s : State) (f : Nat → Nat → Group → Group) : (s.mapGroups f).residues = s.residues := rfl
@[simp] theorem State.mapGroups_outs (s : State) (f : Nat → Nat → Group → Group) : (s.mapGroups f).outs = s.outs := rfl

/-! ### bankPut -/

@[simp] theorem State.bankPut_clock (s : State) (c b o n v : Nat) : (s.bankPut c b o n v).clock = s.clock := rfl
@[simp] theorem State.bankPut_skew (s : State) (c b o n v : Nat) : (s.bankPut c b o n v).skew = s.skew := rfl
@[simp] theorem State.bankPut_agenda (s : State) (c b o n v : Nat) : (s.bankPut c b o n v).agenda = s.agenda := rfl
@[simp] theorem State.bankPut_inputs (s : State) (c b o n v : Nat) : (s.bankPut c b o n v).inputs = s.inputs := rfl
@[simp] theorem State.bankPut_due (s : State) (c b o n v : Nat) : (s.bankPut c b o n v).due = s.due := rfl
@[simp] theorem State.bankPut_oracle (s : State) (c b o n v : Nat) : (s.bankPut c b o n v).oracle = s.oracle := rfl
@[simp] theorem State.bankPut_fresh (s : State) (c b o n v : Nat) : (s.bankPut c b o n v).fresh = s.fresh := rfl
@[simp] theorem State.bankPut_nextId (s : State) (c b o n v : Nat) : (s.bankPut c b o n v).nextId = s.nextId := rfl
@[simp] theorem State.bankPut_cur (s : State) (c b o n v : Nat) : (s.bankPut c b o n v).cur = s.cur := rfl
@[simp] theorem State.bankPut_teams (s : State) (c b o n v : Nat) : (s.bankPut c b o n v).teams = s.teams := rfl
@[simp] theorem State.bankPut_cores (s : State) (c b o n v : Nat) : (s.bankPut c b o n v).cores = s.cores := rfl
@[simp] theorem State.bankPut_pairs (s : State) (c b o n v : Nat) : (s.bankPut c b o n v).pairs = s.pairs := rfl
@[simp] theorem State.bankPut_clusters (s : State) (c b o n v : Nat) : (s.bankPut c b o n v).clusters = s.clusters := rfl
@[simp] theorem State.bankPut_slices (s : State) (c b o n v : Nat) : (s.bankPut c b o n v).slices = s.slices := rfl
@[simp] theorem State.bankPut_homes (s : State) (c b o n v : Nat) : (s.bankPut c b o n v).homes = s.homes := rfl
@[simp] theorem State.bankPut_hbm (s : State) (c b o n v : Nat) : (s.bankPut c b o n v).hbm = s.hbm := rfl
@[simp] theorem State.bankPut_host (s : State) (c b o n v : Nat) : (s.bankPut c b o n v).host = s.host := rfl
@[simp] theorem State.bankPut_banks (s : State) (c b o n v : Nat) : (s.bankPut c b o n v).banks = s.banks.write (bankAddr c b o) (toBytes n v) := rfl
@[simp] theorem State.bankPut_dist (s : State) (c b o n v : Nat) : (s.bankPut c b o n v).dist = s.dist := rfl
@[simp] theorem State.bankPut_setlist (s : State) (c b o n v : Nat) : (s.bankPut c b o n v).setlist = s.setlist := rfl
@[simp] theorem State.bankPut_apt (s : State) (c b o n v : Nat) : (s.bankPut c b o n v).apt = s.apt := rfl
@[simp] theorem State.bankPut_mail (s : State) (c b o n v : Nat) : (s.bankPut c b o n v).mail = s.mail := rfl
@[simp] theorem State.bankPut_slicesets (s : State) (c b o n v : Nat) : (s.bankPut c b o n v).slicesets = s.slicesets := rfl
@[simp] theorem State.bankPut_parts (s : State) (c b o n v : Nat) : (s.bankPut c b o n v).parts = s.parts := rfl
@[simp] theorem State.bankPut_grids (s : State) (c b o n v : Nat) : (s.bankPut c b o n v).grids = s.grids := rfl
@[simp] theorem State.bankPut_dev (s : State) (c b o n v : Nat) : (s.bankPut c b o n v).dev = s.dev := rfl
@[simp] theorem State.bankPut_residues (s : State) (c b o n v : Nat) : (s.bankPut c b o n v).residues = s.residues := rfl
@[simp] theorem State.bankPut_outs (s : State) (c b o n v : Nat) : (s.bankPut c b o n v).outs = s.outs := rfl

/-! ### bankClear -/

@[simp] theorem State.bankClear_clock (s : State) (c b : Nat) : (s.bankClear c b).clock = s.clock := rfl
@[simp] theorem State.bankClear_skew (s : State) (c b : Nat) : (s.bankClear c b).skew = s.skew := rfl
@[simp] theorem State.bankClear_agenda (s : State) (c b : Nat) : (s.bankClear c b).agenda = s.agenda := rfl
@[simp] theorem State.bankClear_inputs (s : State) (c b : Nat) : (s.bankClear c b).inputs = s.inputs := rfl
@[simp] theorem State.bankClear_due (s : State) (c b : Nat) : (s.bankClear c b).due = s.due := rfl
@[simp] theorem State.bankClear_oracle (s : State) (c b : Nat) : (s.bankClear c b).oracle = s.oracle := rfl
@[simp] theorem State.bankClear_fresh (s : State) (c b : Nat) : (s.bankClear c b).fresh = s.fresh := rfl
@[simp] theorem State.bankClear_nextId (s : State) (c b : Nat) : (s.bankClear c b).nextId = s.nextId := rfl
@[simp] theorem State.bankClear_cur (s : State) (c b : Nat) : (s.bankClear c b).cur = s.cur := rfl
@[simp] theorem State.bankClear_teams (s : State) (c b : Nat) : (s.bankClear c b).teams = s.teams := rfl
@[simp] theorem State.bankClear_cores (s : State) (c b : Nat) : (s.bankClear c b).cores = s.cores := rfl
@[simp] theorem State.bankClear_pairs (s : State) (c b : Nat) : (s.bankClear c b).pairs = s.pairs := rfl
@[simp] theorem State.bankClear_clusters (s : State) (c b : Nat) : (s.bankClear c b).clusters = s.clusters := rfl
@[simp] theorem State.bankClear_slices (s : State) (c b : Nat) : (s.bankClear c b).slices = s.slices := rfl
@[simp] theorem State.bankClear_homes (s : State) (c b : Nat) : (s.bankClear c b).homes = s.homes := rfl
@[simp] theorem State.bankClear_hbm (s : State) (c b : Nat) : (s.bankClear c b).hbm = s.hbm := rfl
@[simp] theorem State.bankClear_host (s : State) (c b : Nat) : (s.bankClear c b).host = s.host := rfl
@[simp] theorem State.bankClear_banks (s : State) (c b : Nat) : (s.bankClear c b).banks = s.banks.zero (bankAddr c b 0) 131072 := rfl
@[simp] theorem State.bankClear_dist (s : State) (c b : Nat) : (s.bankClear c b).dist = s.dist := rfl
@[simp] theorem State.bankClear_setlist (s : State) (c b : Nat) : (s.bankClear c b).setlist = s.setlist := rfl
@[simp] theorem State.bankClear_apt (s : State) (c b : Nat) : (s.bankClear c b).apt = s.apt := rfl
@[simp] theorem State.bankClear_mail (s : State) (c b : Nat) : (s.bankClear c b).mail = s.mail := rfl
@[simp] theorem State.bankClear_slicesets (s : State) (c b : Nat) : (s.bankClear c b).slicesets = s.slicesets := rfl
@[simp] theorem State.bankClear_parts (s : State) (c b : Nat) : (s.bankClear c b).parts = s.parts := rfl
@[simp] theorem State.bankClear_grids (s : State) (c b : Nat) : (s.bankClear c b).grids = s.grids := rfl
@[simp] theorem State.bankClear_dev (s : State) (c b : Nat) : (s.bankClear c b).dev = s.dev := rfl
@[simp] theorem State.bankClear_residues (s : State) (c b : Nat) : (s.bankClear c b).residues = s.residues := rfl
@[simp] theorem State.bankClear_outs (s : State) (c b : Nat) : (s.bankClear c b).outs = s.outs := rfl

/-! ### newId -/

@[simp] theorem State.newId_clock (s : State) : s.newId.2.clock = s.clock := rfl
@[simp] theorem State.newId_skew (s : State) : s.newId.2.skew = s.skew := rfl
@[simp] theorem State.newId_agenda (s : State) : s.newId.2.agenda = s.agenda := rfl
@[simp] theorem State.newId_inputs (s : State) : s.newId.2.inputs = s.inputs := rfl
@[simp] theorem State.newId_due (s : State) : s.newId.2.due = s.due := rfl
@[simp] theorem State.newId_oracle (s : State) : s.newId.2.oracle = s.oracle := rfl
@[simp] theorem State.newId_fresh (s : State) : s.newId.2.fresh = s.fresh := rfl
@[simp] theorem State.newId_nextId (s : State) : s.newId.2.nextId = s.nextId + 1 := rfl
@[simp] theorem State.newId_cur (s : State) : s.newId.2.cur = s.cur := rfl
@[simp] theorem State.newId_teams (s : State) : s.newId.2.teams = s.teams := rfl
@[simp] theorem State.newId_cores (s : State) : s.newId.2.cores = s.cores := rfl
@[simp] theorem State.newId_pairs (s : State) : s.newId.2.pairs = s.pairs := rfl
@[simp] theorem State.newId_clusters (s : State) : s.newId.2.clusters = s.clusters := rfl
@[simp] theorem State.newId_slices (s : State) : s.newId.2.slices = s.slices := rfl
@[simp] theorem State.newId_homes (s : State) : s.newId.2.homes = s.homes := rfl
@[simp] theorem State.newId_hbm (s : State) : s.newId.2.hbm = s.hbm := rfl
@[simp] theorem State.newId_host (s : State) : s.newId.2.host = s.host := rfl
@[simp] theorem State.newId_banks (s : State) : s.newId.2.banks = s.banks := rfl
@[simp] theorem State.newId_dist (s : State) : s.newId.2.dist = s.dist := rfl
@[simp] theorem State.newId_setlist (s : State) : s.newId.2.setlist = s.setlist := rfl
@[simp] theorem State.newId_apt (s : State) : s.newId.2.apt = s.apt := rfl
@[simp] theorem State.newId_mail (s : State) : s.newId.2.mail = s.mail := rfl
@[simp] theorem State.newId_slicesets (s : State) : s.newId.2.slicesets = s.slicesets := rfl
@[simp] theorem State.newId_parts (s : State) : s.newId.2.parts = s.parts := rfl
@[simp] theorem State.newId_grids (s : State) : s.newId.2.grids = s.grids := rfl
@[simp] theorem State.newId_dev (s : State) : s.newId.2.dev = s.dev := rfl
@[simp] theorem State.newId_residues (s : State) : s.newId.2.residues = s.residues := rfl
@[simp] theorem State.newId_outs (s : State) : s.newId.2.outs = s.outs := rfl

/-! ### free -/

@[simp] theorem State.free_clock (s : State) : s.free.2.clock = s.clock := rfl
@[simp] theorem State.free_skew (s : State) : s.free.2.skew = s.skew := rfl
@[simp] theorem State.free_agenda (s : State) : s.free.2.agenda = s.agenda := rfl
@[simp] theorem State.free_inputs (s : State) : s.free.2.inputs = s.inputs := rfl
@[simp] theorem State.free_due (s : State) : s.free.2.due = s.due := rfl
@[simp] theorem State.free_oracle (s : State) : s.free.2.oracle = s.oracle := rfl
@[simp] theorem State.free_fresh (s : State) : s.free.2.fresh = s.fresh + 1 := rfl
@[simp] theorem State.free_nextId (s : State) : s.free.2.nextId = s.nextId := rfl
@[simp] theorem State.free_cur (s : State) : s.free.2.cur = s.cur := rfl
@[simp] theorem State.free_teams (s : State) : s.free.2.teams = s.teams := rfl
@[simp] theorem State.free_cores (s : State) : s.free.2.cores = s.cores := rfl
@[simp] theorem State.free_pairs (s : State) : s.free.2.pairs = s.pairs := rfl
@[simp] theorem State.free_clusters (s : State) : s.free.2.clusters = s.clusters := rfl
@[simp] theorem State.free_slices (s : State) : s.free.2.slices = s.slices := rfl
@[simp] theorem State.free_homes (s : State) : s.free.2.homes = s.homes := rfl
@[simp] theorem State.free_hbm (s : State) : s.free.2.hbm = s.hbm := rfl
@[simp] theorem State.free_host (s : State) : s.free.2.host = s.host := rfl
@[simp] theorem State.free_banks (s : State) : s.free.2.banks = s.banks := rfl
@[simp] theorem State.free_dist (s : State) : s.free.2.dist = s.dist := rfl
@[simp] theorem State.free_setlist (s : State) : s.free.2.setlist = s.setlist := rfl
@[simp] theorem State.free_apt (s : State) : s.free.2.apt = s.apt := rfl
@[simp] theorem State.free_mail (s : State) : s.free.2.mail = s.mail := rfl
@[simp] theorem State.free_slicesets (s : State) : s.free.2.slicesets = s.slicesets := rfl
@[simp] theorem State.free_parts (s : State) : s.free.2.parts = s.parts := rfl
@[simp] theorem State.free_grids (s : State) : s.free.2.grids = s.grids := rfl
@[simp] theorem State.free_dev (s : State) : s.free.2.dev = s.dev := rfl
@[simp] theorem State.free_residues (s : State) : s.free.2.residues = s.residues := rfl
@[simp] theorem State.free_outs (s : State) : s.free.2.outs = s.outs := rfl

/-! ### modTeam -/

@[simp] theorem State.modTeam_clock (s : State) (c : Nat) (f : Team → Team) : (s.modTeam c f).clock = s.clock := by unfold State.modTeam; split <;> rfl
@[simp] theorem State.modTeam_skew (s : State) (c : Nat) (f : Team → Team) : (s.modTeam c f).skew = s.skew := by unfold State.modTeam; split <;> rfl
@[simp] theorem State.modTeam_agenda (s : State) (c : Nat) (f : Team → Team) : (s.modTeam c f).agenda = s.agenda := by unfold State.modTeam; split <;> rfl
@[simp] theorem State.modTeam_inputs (s : State) (c : Nat) (f : Team → Team) : (s.modTeam c f).inputs = s.inputs := by unfold State.modTeam; split <;> rfl
@[simp] theorem State.modTeam_due (s : State) (c : Nat) (f : Team → Team) : (s.modTeam c f).due = s.due := by unfold State.modTeam; split <;> rfl
@[simp] theorem State.modTeam_oracle (s : State) (c : Nat) (f : Team → Team) : (s.modTeam c f).oracle = s.oracle := by unfold State.modTeam; split <;> rfl
@[simp] theorem State.modTeam_fresh (s : State) (c : Nat) (f : Team → Team) : (s.modTeam c f).fresh = s.fresh := by unfold State.modTeam; split <;> rfl
@[simp] theorem State.modTeam_nextId (s : State) (c : Nat) (f : Team → Team) : (s.modTeam c f).nextId = s.nextId := by unfold State.modTeam; split <;> rfl
@[simp] theorem State.modTeam_cur (s : State) (c : Nat) (f : Team → Team) : (s.modTeam c f).cur = s.cur := by unfold State.modTeam; split <;> rfl
@[simp] theorem State.modTeam_cores (s : State) (c : Nat) (f : Team → Team) : (s.modTeam c f).cores = s.cores := by unfold State.modTeam; split <;> rfl
@[simp] theorem State.modTeam_pairs (s : State) (c : Nat) (f : Team → Team) : (s.modTeam c f).pairs = s.pairs := by unfold State.modTeam; split <;> rfl
@[simp] theorem State.modTeam_clusters (s : State) (c : Nat) (f : Team → Team) : (s.modTeam c f).clusters = s.clusters := by unfold State.modTeam; split <;> rfl
@[simp] theorem State.modTeam_slices (s : State) (c : Nat) (f : Team → Team) : (s.modTeam c f).slices = s.slices := by unfold State.modTeam; split <;> rfl
@[simp] theorem State.modTeam_homes (s : State) (c : Nat) (f : Team → Team) : (s.modTeam c f).homes = s.homes := by unfold State.modTeam; split <;> rfl
@[simp] theorem State.modTeam_hbm (s : State) (c : Nat) (f : Team → Team) : (s.modTeam c f).hbm = s.hbm := by unfold State.modTeam; split <;> rfl
@[simp] theorem State.modTeam_host (s : State) (c : Nat) (f : Team → Team) : (s.modTeam c f).host = s.host := by unfold State.modTeam; split <;> rfl
@[simp] theorem State.modTeam_banks (s : State) (c : Nat) (f : Team → Team) : (s.modTeam c f).banks = s.banks := by unfold State.modTeam; split <;> rfl
@[simp] theorem State.modTeam_dist (s : State) (c : Nat) (f : Team → Team) : (s.modTeam c f).dist = s.dist := by unfold State.modTeam; split <;> rfl
@[simp] theorem State.modTeam_setlist (s : State) (c : Nat) (f : Team → Team) : (s.modTeam c f).setlist = s.setlist := by unfold State.modTeam; split <;> rfl
@[simp] theorem State.modTeam_apt (s : State) (c : Nat) (f : Team → Team) : (s.modTeam c f).apt = s.apt := by unfold State.modTeam; split <;> rfl
@[simp] theorem State.modTeam_mail (s : State) (c : Nat) (f : Team → Team) : (s.modTeam c f).mail = s.mail := by unfold State.modTeam; split <;> rfl
@[simp] theorem State.modTeam_slicesets (s : State) (c : Nat) (f : Team → Team) : (s.modTeam c f).slicesets = s.slicesets := by unfold State.modTeam; split <;> rfl
@[simp] theorem State.modTeam_parts (s : State) (c : Nat) (f : Team → Team) : (s.modTeam c f).parts = s.parts := by unfold State.modTeam; split <;> rfl
@[simp] theorem State.modTeam_grids (s : State) (c : Nat) (f : Team → Team) : (s.modTeam c f).grids = s.grids := by unfold State.modTeam; split <;> rfl
@[simp] theorem State.modTeam_dev (s : State) (c : Nat) (f : Team → Team) : (s.modTeam c f).dev = s.dev := by unfold State.modTeam; split <;> rfl
@[simp] theorem State.modTeam_residues (s : State) (c : Nat) (f : Team → Team) : (s.modTeam c f).residues = s.residues := by unfold State.modTeam; split <;> rfl
@[simp] theorem State.modTeam_outs (s : State) (c : Nat) (f : Team → Team) : (s.modTeam c f).outs = s.outs := by unfold State.modTeam; split <;> rfl

/-! ### modGroup -/

@[simp] theorem State.modGroup_clock (s : State) (c g : Nat) (f : Group → Group) : (s.modGroup c g f).clock = s.clock := State.modTeam_clock s c _
@[simp] theorem State.modGroup_skew (s : State) (c g : Nat) (f : Group → Group) : (s.modGroup c g f).skew = s.skew := State.modTeam_skew s c _
@[simp] theorem State.modGroup_agenda (s : State) (c g : Nat) (f : Group → Group) : (s.modGroup c g f).agenda = s.agenda := State.modTeam_agenda s c _
@[simp] theorem State.modGroup_inputs (s : State) (c g : Nat) (f : Group → Group) : (s.modGroup c g f).inputs = s.inputs := State.modTeam_inputs s c _
@[simp] theorem State.modGroup_due (s : State) (c g : Nat) (f : Group → Group) : (s.modGroup c g f).due = s.due := State.modTeam_due s c _
@[simp] theorem State.modGroup_oracle (s : State) (c g : Nat) (f : Group → Group) : (s.modGroup c g f).oracle = s.oracle := State.modTeam_oracle s c _
@[simp] theorem State.modGroup_fresh (s : State) (c g : Nat) (f : Group → Group) : (s.modGroup c g f).fresh = s.fresh := State.modTeam_fresh s c _
@[simp] theorem State.modGroup_nextId (s : State) (c g : Nat) (f : Group → Group) : (s.modGroup c g f).nextId = s.nextId := State.modTeam_nextId s c _
@[simp] theorem State.modGroup_cur (s : State) (c g : Nat) (f : Group → Group) : (s.modGroup c g f).cur = s.cur := State.modTeam_cur s c _
@[simp] theorem State.modGroup_cores (s : State) (c g : Nat) (f : Group → Group) : (s.modGroup c g f).cores = s.cores := State.modTeam_cores s c _
@[simp] theorem State.modGroup_pairs (s : State) (c g : Nat) (f : Group → Group) : (s.modGroup c g f).pairs = s.pairs := State.modTeam_pairs s c _
@[simp] theorem State.modGroup_clusters (s : State) (c g : Nat) (f : Group → Group) : (s.modGroup c g f).clusters = s.clusters := State.modTeam_clusters s c _
@[simp] theorem State.modGroup_slices (s : State) (c g : Nat) (f : Group → Group) : (s.modGroup c g f).slices = s.slices := State.modTeam_slices s c _
@[simp] theorem State.modGroup_homes (s : State) (c g : Nat) (f : Group → Group) : (s.modGroup c g f).homes = s.homes := State.modTeam_homes s c _
@[simp] theorem State.modGroup_hbm (s : State) (c g : Nat) (f : Group → Group) : (s.modGroup c g f).hbm = s.hbm := State.modTeam_hbm s c _
@[simp] theorem State.modGroup_host (s : State) (c g : Nat) (f : Group → Group) : (s.modGroup c g f).host = s.host := State.modTeam_host s c _
@[simp] theorem State.modGroup_banks (s : State) (c g : Nat) (f : Group → Group) : (s.modGroup c g f).banks = s.banks := State.modTeam_banks s c _
@[simp] theorem State.modGroup_dist (s : State) (c g : Nat) (f : Group → Group) : (s.modGroup c g f).dist = s.dist := State.modTeam_dist s c _
@[simp] theorem State.modGroup_setlist (s : State) (c g : Nat) (f : Group → Group) : (s.modGroup c g f).setlist = s.setlist := State.modTeam_setlist s c _
@[simp] theorem State.modGroup_apt (s : State) (c g : Nat) (f : Group → Group) : (s.modGroup c g f).apt = s.apt := State.modTeam_apt s c _
@[simp] theorem State.modGroup_mail (s : State) (c g : Nat) (f : Group → Group) : (s.modGroup c g f).mail = s.mail := State.modTeam_mail s c _
@[simp] theorem State.modGroup_slicesets (s : State) (c g : Nat) (f : Group → Group) : (s.modGroup c g f).slicesets = s.slicesets := State.modTeam_slicesets s c _
@[simp] theorem State.modGroup_parts (s : State) (c g : Nat) (f : Group → Group) : (s.modGroup c g f).parts = s.parts := State.modTeam_parts s c _
@[simp] theorem State.modGroup_grids (s : State) (c g : Nat) (f : Group → Group) : (s.modGroup c g f).grids = s.grids := State.modTeam_grids s c _
@[simp] theorem State.modGroup_dev (s : State) (c g : Nat) (f : Group → Group) : (s.modGroup c g f).dev = s.dev := State.modTeam_dev s c _
@[simp] theorem State.modGroup_residues (s : State) (c g : Nat) (f : Group → Group) : (s.modGroup c g f).residues = s.residues := State.modTeam_residues s c _
@[simp] theorem State.modGroup_outs (s : State) (c g : Nat) (f : Group → Group) : (s.modGroup c g f).outs = s.outs := State.modTeam_outs s c _

/-! ### modThread -/

@[simp] theorem State.modThread_clock (s : State) (q : ThreadRef) (f : Thread → Thread) : (s.modThread q f).clock = s.clock := State.modGroup_clock s q.ctx q.grp _
@[simp] theorem State.modThread_skew (s : State) (q : ThreadRef) (f : Thread → Thread) : (s.modThread q f).skew = s.skew := State.modGroup_skew s q.ctx q.grp _
@[simp] theorem State.modThread_agenda (s : State) (q : ThreadRef) (f : Thread → Thread) : (s.modThread q f).agenda = s.agenda := State.modGroup_agenda s q.ctx q.grp _
@[simp] theorem State.modThread_inputs (s : State) (q : ThreadRef) (f : Thread → Thread) : (s.modThread q f).inputs = s.inputs := State.modGroup_inputs s q.ctx q.grp _
@[simp] theorem State.modThread_due (s : State) (q : ThreadRef) (f : Thread → Thread) : (s.modThread q f).due = s.due := State.modGroup_due s q.ctx q.grp _
@[simp] theorem State.modThread_oracle (s : State) (q : ThreadRef) (f : Thread → Thread) : (s.modThread q f).oracle = s.oracle := State.modGroup_oracle s q.ctx q.grp _
@[simp] theorem State.modThread_fresh (s : State) (q : ThreadRef) (f : Thread → Thread) : (s.modThread q f).fresh = s.fresh := State.modGroup_fresh s q.ctx q.grp _
@[simp] theorem State.modThread_nextId (s : State) (q : ThreadRef) (f : Thread → Thread) : (s.modThread q f).nextId = s.nextId := State.modGroup_nextId s q.ctx q.grp _
@[simp] theorem State.modThread_cur (s : State) (q : ThreadRef) (f : Thread → Thread) : (s.modThread q f).cur = s.cur := State.modGroup_cur s q.ctx q.grp _
@[simp] theorem State.modThread_cores (s : State) (q : ThreadRef) (f : Thread → Thread) : (s.modThread q f).cores = s.cores := State.modGroup_cores s q.ctx q.grp _
@[simp] theorem State.modThread_pairs (s : State) (q : ThreadRef) (f : Thread → Thread) : (s.modThread q f).pairs = s.pairs := State.modGroup_pairs s q.ctx q.grp _
@[simp] theorem State.modThread_clusters (s : State) (q : ThreadRef) (f : Thread → Thread) : (s.modThread q f).clusters = s.clusters := State.modGroup_clusters s q.ctx q.grp _
@[simp] theorem State.modThread_slices (s : State) (q : ThreadRef) (f : Thread → Thread) : (s.modThread q f).slices = s.slices := State.modGroup_slices s q.ctx q.grp _
@[simp] theorem State.modThread_homes (s : State) (q : ThreadRef) (f : Thread → Thread) : (s.modThread q f).homes = s.homes := State.modGroup_homes s q.ctx q.grp _
@[simp] theorem State.modThread_hbm (s : State) (q : ThreadRef) (f : Thread → Thread) : (s.modThread q f).hbm = s.hbm := State.modGroup_hbm s q.ctx q.grp _
@[simp] theorem State.modThread_host (s : State) (q : ThreadRef) (f : Thread → Thread) : (s.modThread q f).host = s.host := State.modGroup_host s q.ctx q.grp _
@[simp] theorem State.modThread_banks (s : State) (q : ThreadRef) (f : Thread → Thread) : (s.modThread q f).banks = s.banks := State.modGroup_banks s q.ctx q.grp _
@[simp] theorem State.modThread_dist (s : State) (q : ThreadRef) (f : Thread → Thread) : (s.modThread q f).dist = s.dist := State.modGroup_dist s q.ctx q.grp _
@[simp] theorem State.modThread_setlist (s : State) (q : ThreadRef) (f : Thread → Thread) : (s.modThread q f).setlist = s.setlist := State.modGroup_setlist s q.ctx q.grp _
@[simp] theorem State.modThread_apt (s : State) (q : ThreadRef) (f : Thread → Thread) : (s.modThread q f).apt = s.apt := State.modGroup_apt s q.ctx q.grp _
@[simp] theorem State.modThread_mail (s : State) (q : ThreadRef) (f : Thread → Thread) : (s.modThread q f).mail = s.mail := State.modGroup_mail s q.ctx q.grp _
@[simp] theorem State.modThread_slicesets (s : State) (q : ThreadRef) (f : Thread → Thread) : (s.modThread q f).slicesets = s.slicesets := State.modGroup_slicesets s q.ctx q.grp _
@[simp] theorem State.modThread_parts (s : State) (q : ThreadRef) (f : Thread → Thread) : (s.modThread q f).parts = s.parts := State.modGroup_parts s q.ctx q.grp _
@[simp] theorem State.modThread_grids (s : State) (q : ThreadRef) (f : Thread → Thread) : (s.modThread q f).grids = s.grids := State.modGroup_grids s q.ctx q.grp _
@[simp] theorem State.modThread_dev (s : State) (q : ThreadRef) (f : Thread → Thread) : (s.modThread q f).dev = s.dev := State.modGroup_dev s q.ctx q.grp _
@[simp] theorem State.modThread_residues (s : State) (q : ThreadRef) (f : Thread → Thread) : (s.modThread q f).residues = s.residues := State.modGroup_residues s q.ctx q.grp _
@[simp] theorem State.modThread_outs (s : State) (q : ThreadRef) (f : Thread → Thread) : (s.modThread q f).outs = s.outs := State.modGroup_outs s q.ctx q.grp _

/-! ### modGrid -/

@[simp] theorem State.modGrid_clock (s : State) (n : Nat) (f : Grid → Grid) : (s.modGrid n f).clock = s.clock := by unfold State.modGrid; split <;> rfl
@[simp] theorem State.modGrid_skew (s : State) (n : Nat) (f : Grid → Grid) : (s.modGrid n f).skew = s.skew := by unfold State.modGrid; split <;> rfl
@[simp] theorem State.modGrid_agenda (s : State) (n : Nat) (f : Grid → Grid) : (s.modGrid n f).agenda = s.agenda := by unfold State.modGrid; split <;> rfl
@[simp] theorem State.modGrid_inputs (s : State) (n : Nat) (f : Grid → Grid) : (s.modGrid n f).inputs = s.inputs := by unfold State.modGrid; split <;> rfl
@[simp] theorem State.modGrid_due (s : State) (n : Nat) (f : Grid → Grid) : (s.modGrid n f).due = s.due := by unfold State.modGrid; split <;> rfl
@[simp] theorem State.modGrid_oracle (s : State) (n : Nat) (f : Grid → Grid) : (s.modGrid n f).oracle = s.oracle := by unfold State.modGrid; split <;> rfl
@[simp] theorem State.modGrid_fresh (s : State) (n : Nat) (f : Grid → Grid) : (s.modGrid n f).fresh = s.fresh := by unfold State.modGrid; split <;> rfl
@[simp] theorem State.modGrid_nextId (s : State) (n : Nat) (f : Grid → Grid) : (s.modGrid n f).nextId = s.nextId := by unfold State.modGrid; split <;> rfl
@[simp] theorem State.modGrid_cur (s : State) (n : Nat) (f : Grid → Grid) : (s.modGrid n f).cur = s.cur := by unfold State.modGrid; split <;> rfl
@[simp] theorem State.modGrid_teams (s : State) (n : Nat) (f : Grid → Grid) : (s.modGrid n f).teams = s.teams := by unfold State.modGrid; split <;> rfl
@[simp] theorem State.modGrid_cores (s : State) (n : Nat) (f : Grid → Grid) : (s.modGrid n f).cores = s.cores := by unfold State.modGrid; split <;> rfl
@[simp] theorem State.modGrid_pairs (s : State) (n : Nat) (f : Grid → Grid) : (s.modGrid n f).pairs = s.pairs := by unfold State.modGrid; split <;> rfl
@[simp] theorem State.modGrid_clusters (s : State) (n : Nat) (f : Grid → Grid) : (s.modGrid n f).clusters = s.clusters := by unfold State.modGrid; split <;> rfl
@[simp] theorem State.modGrid_slices (s : State) (n : Nat) (f : Grid → Grid) : (s.modGrid n f).slices = s.slices := by unfold State.modGrid; split <;> rfl
@[simp] theorem State.modGrid_homes (s : State) (n : Nat) (f : Grid → Grid) : (s.modGrid n f).homes = s.homes := by unfold State.modGrid; split <;> rfl
@[simp] theorem State.modGrid_hbm (s : State) (n : Nat) (f : Grid → Grid) : (s.modGrid n f).hbm = s.hbm := by unfold State.modGrid; split <;> rfl
@[simp] theorem State.modGrid_host (s : State) (n : Nat) (f : Grid → Grid) : (s.modGrid n f).host = s.host := by unfold State.modGrid; split <;> rfl
@[simp] theorem State.modGrid_banks (s : State) (n : Nat) (f : Grid → Grid) : (s.modGrid n f).banks = s.banks := by unfold State.modGrid; split <;> rfl
@[simp] theorem State.modGrid_dist (s : State) (n : Nat) (f : Grid → Grid) : (s.modGrid n f).dist = s.dist := by unfold State.modGrid; split <;> rfl
@[simp] theorem State.modGrid_setlist (s : State) (n : Nat) (f : Grid → Grid) : (s.modGrid n f).setlist = s.setlist := by unfold State.modGrid; split <;> rfl
@[simp] theorem State.modGrid_apt (s : State) (n : Nat) (f : Grid → Grid) : (s.modGrid n f).apt = s.apt := by unfold State.modGrid; split <;> rfl
@[simp] theorem State.modGrid_mail (s : State) (n : Nat) (f : Grid → Grid) : (s.modGrid n f).mail = s.mail := by unfold State.modGrid; split <;> rfl
@[simp] theorem State.modGrid_slicesets (s : State) (n : Nat) (f : Grid → Grid) : (s.modGrid n f).slicesets = s.slicesets := by unfold State.modGrid; split <;> rfl
@[simp] theorem State.modGrid_parts (s : State) (n : Nat) (f : Grid → Grid) : (s.modGrid n f).parts = s.parts := by unfold State.modGrid; split <;> rfl
@[simp] theorem State.modGrid_dev (s : State) (n : Nat) (f : Grid → Grid) : (s.modGrid n f).dev = s.dev := by unfold State.modGrid; split <;> rfl
@[simp] theorem State.modGrid_residues (s : State) (n : Nat) (f : Grid → Grid) : (s.modGrid n f).residues = s.residues := by unfold State.modGrid; split <;> rfl
@[simp] theorem State.modGrid_outs (s : State) (n : Nat) (f : Grid → Grid) : (s.modGrid n f).outs = s.outs := by unfold State.modGrid; split <;> rfl

/-! ### modRun -/

@[simp] theorem State.modRun_clock (s : State) (f : Run → Run) : (s.modRun f).clock = s.clock := by unfold State.modRun; split <;> rfl
@[simp] theorem State.modRun_skew (s : State) (f : Run → Run) : (s.modRun f).skew = s.skew := by unfold State.modRun; split <;> rfl
@[simp] theorem State.modRun_agenda (s : State) (f : Run → Run) : (s.modRun f).agenda = s.agenda := by unfold State.modRun; split <;> rfl
@[simp] theorem State.modRun_inputs (s : State) (f : Run → Run) : (s.modRun f).inputs = s.inputs := by unfold State.modRun; split <;> rfl
@[simp] theorem State.modRun_due (s : State) (f : Run → Run) : (s.modRun f).due = s.due := by unfold State.modRun; split <;> rfl
@[simp] theorem State.modRun_oracle (s : State) (f : Run → Run) : (s.modRun f).oracle = s.oracle := by unfold State.modRun; split <;> rfl
@[simp] theorem State.modRun_fresh (s : State) (f : Run → Run) : (s.modRun f).fresh = s.fresh := by unfold State.modRun; split <;> rfl
@[simp] theorem State.modRun_nextId (s : State) (f : Run → Run) : (s.modRun f).nextId = s.nextId := by unfold State.modRun; split <;> rfl
@[simp] theorem State.modRun_cur (s : State) (f : Run → Run) : (s.modRun f).cur = s.cur := by unfold State.modRun; split <;> rfl
@[simp] theorem State.modRun_teams (s : State) (f : Run → Run) : (s.modRun f).teams = s.teams := by unfold State.modRun; split <;> rfl
@[simp] theorem State.modRun_pairs (s : State) (f : Run → Run) : (s.modRun f).pairs = s.pairs := by unfold State.modRun; split <;> rfl
@[simp] theorem State.modRun_clusters (s : State) (f : Run → Run) : (s.modRun f).clusters = s.clusters := by unfold State.modRun; split <;> rfl
@[simp] theorem State.modRun_slices (s : State) (f : Run → Run) : (s.modRun f).slices = s.slices := by unfold State.modRun; split <;> rfl
@[simp] theorem State.modRun_homes (s : State) (f : Run → Run) : (s.modRun f).homes = s.homes := by unfold State.modRun; split <;> rfl
@[simp] theorem State.modRun_hbm (s : State) (f : Run → Run) : (s.modRun f).hbm = s.hbm := by unfold State.modRun; split <;> rfl
@[simp] theorem State.modRun_host (s : State) (f : Run → Run) : (s.modRun f).host = s.host := by unfold State.modRun; split <;> rfl
@[simp] theorem State.modRun_banks (s : State) (f : Run → Run) : (s.modRun f).banks = s.banks := by unfold State.modRun; split <;> rfl
@[simp] theorem State.modRun_dist (s : State) (f : Run → Run) : (s.modRun f).dist = s.dist := by unfold State.modRun; split <;> rfl
@[simp] theorem State.modRun_setlist (s : State) (f : Run → Run) : (s.modRun f).setlist = s.setlist := by unfold State.modRun; split <;> rfl
@[simp] theorem State.modRun_apt (s : State) (f : Run → Run) : (s.modRun f).apt = s.apt := by unfold State.modRun; split <;> rfl
@[simp] theorem State.modRun_mail (s : State) (f : Run → Run) : (s.modRun f).mail = s.mail := by unfold State.modRun; split <;> rfl
@[simp] theorem State.modRun_slicesets (s : State) (f : Run → Run) : (s.modRun f).slicesets = s.slicesets := by unfold State.modRun; split <;> rfl
@[simp] theorem State.modRun_parts (s : State) (f : Run → Run) : (s.modRun f).parts = s.parts := by unfold State.modRun; split <;> rfl
@[simp] theorem State.modRun_grids (s : State) (f : Run → Run) : (s.modRun f).grids = s.grids := by unfold State.modRun; split <;> rfl
@[simp] theorem State.modRun_dev (s : State) (f : Run → Run) : (s.modRun f).dev = s.dev := by unfold State.modRun; split <;> rfl
@[simp] theorem State.modRun_residues (s : State) (f : Run → Run) : (s.modRun f).residues = s.residues := by unfold State.modRun; split <;> rfl
@[simp] theorem State.modRun_outs (s : State) (f : Run → Run) : (s.modRun f).outs = s.outs := by unfold State.modRun; split <;> rfl

/-! ### Groups and threads -/

@[simp] theorem Thread.setR_p (x : Thread) (n : Nat) (w : Word) : (x.setR n w).p = x.p := rfl
@[simp] theorem Thread.setR_top (x : Thread) (n : Nat) (w : Word) : (x.setR n w).top = x.top := rfl
@[simp] theorem Thread.setR_st (x : Thread) (n : Nat) (w : Word) : (x.setR n w).st = x.st := rfl
@[simp] theorem Thread.setR_q0 (x : Thread) (n : Nat) (w : Word) : (x.setR n w).q0 = x.q0 := rfl
@[simp] theorem Thread.setR_q1 (x : Thread) (n : Nat) (w : Word) : (x.setR n w).q1 = x.q1 := rfl
@[simp] theorem Thread.setR_loads (x : Thread) (n : Nat) (w : Word) : (x.setR n w).loads = x.loads := rfl
@[simp] theorem Thread.setP_v (x : Thread) (p : BitVec 7) (b : Bool) : (x.setP p b).v = x.v := by unfold Thread.setP; split <;> rfl
@[simp] theorem Thread.adopt_hzg (x : Thread) (w : Nat) : (x.adopt w).hzg = max x.hzg w := rfl
@[simp] theorem Thread.hold_notBefore (x : Thread) (w : Nat) : (x.hold w).notBefore = max x.notBefore w := rfl
@[simp] theorem Group.setG_jxf (g : Group) (n : Nat) (w : DWord) : (g.setG n w).jxf = g.jxf := rfl
@[simp] theorem Group.setG_threads (g : Group) (n : Nat) (w : DWord) : (g.setG n w).threads = g.threads := rfl
@[simp] theorem Group.setG_jo (g : Group) (n : Nat) (w : DWord) : (g.setG n w).jo = g.jo := rfl
@[simp] theorem Group.raise_jxf (g : Group) (f : BitVec 40) : (g.raise f).jxf = g.jxf ||| f := rfl
@[simp] theorem Group.raise_g (g : Group) (f : BitVec 40) : (g.raise f).g = g.g := rfl
@[simp] theorem Group.raise_threads (g : Group) (f : BitVec 40) : (g.raise f).threads = g.threads := rfl

end Sys2Proof.Machine
end

