-- ==== Sys2Proof/Laws/Threads.lean ====
section
/-! SUPPORT. Teams, groups, threads, cores and runs after an update: the one changed reads as the update says, every other as before. -/

namespace Sys2Proof.Machine

/-! ## Lookups depend on one field each -/

theorem State.group?_eq (s : State) (c g : Nat) : s.group? c g = (s.team? c).bind fun t => t.groups.find? g := by
  unfold State.group? State.team?; cases s.teams.find? c <;> rfl

theorem State.thread?_eq (s : State) (q : ThreadRef) : s.thread? q = (s.group? q.ctx q.grp).bind fun g => g.threads.find? q.idx := by
  unfold State.thread?; cases s.group? q.ctx q.grp <;> rfl

theorem State.team?_congr {s t : State} (h : t.teams = s.teams) (c : Nat) : t.team? c = s.team? c := by
  simp only [State.team?, h]
theorem State.group?_congr {s t : State} (h : t.teams = s.teams) (c g : Nat) : t.group? c g = s.group? c g := by
  simp only [State.group?, h]
theorem State.thread?_congr {s t : State} (h : t.teams = s.teams) (q : ThreadRef) : t.thread? q = s.thread? q := by
  simp only [State.thread?, State.group?_congr h]
theorem State.core_congr {s t : State} (h : t.cores = s.cores) (n : Nat) : t.core n = s.core n := by simp only [State.core, h]
theorem State.run?_congr {s t : State} (h : t.cores = s.cores) (k : t.cur = s.cur) : t.run? = s.run? := by
  simp only [State.run?, State.core, h, k]

/-! ## Cores -/

@[simp] theorem State.core_modCore_self (s : State) (n : Nat) (f : Core → Core) : (s.modCore n f).core n = f (s.core n) := by
  simp [State.core]
theorem State.core_modCore_ne (s : State) {n k : Nat} (f : Core → Core) (h : n ≠ k) : (s.modCore n f).core k = s.core k := by
  simp [State.core, SMap.getD_put_ne _ _ _ h]

/-- A change of a core that keeps its runs keeps the issuing run. -/
theorem State.run?_modCore (s : State) (n : Nat) (f : Core → Core) (h : (f (s.core n)).runs = (s.core n).runs) :
    (s.modCore n f).run? = s.run? := by
  unfold State.run?
  simp only [State.modCore_cur]
  cases s.cur with
  | none => rfl
  | some p =>
    obtain ⟨c, rid⟩ := p
    by_cases e : n = c
    · subst e; simp only [State.core_modCore_self, h]
    · simp only [State.core_modCore_ne s f e]

/-! ## Teams -/

@[simp] theorem State.team?_mapThreads (s : State) (f : ThreadRef → Thread → Thread) (c : Nat) :
    (s.mapThreads f).team? c = (s.team? c).map fun t => { t with groups := t.groups.mapVals fun g q =>
      { q with threads := q.threads.mapVals fun i x => f ⟨c, g, i⟩ x } } := by
  simp [State.team?, State.mapThreads]

@[simp] theorem State.team?_mapGroups (s : State) (f : Nat → Nat → Group → Group) (c : Nat) :
    (s.mapGroups f).team? c = (s.team? c).map fun t => { t with groups := t.groups.mapVals fun g q => f c g q } := by
  simp [State.team?, State.mapGroups]

@[simp] theorem State.group?_mapThreads (s : State) (f : ThreadRef → Thread → Thread) (c g : Nat) :
    (s.mapThreads f).group? c g = (s.group? c g).map fun q =>
      { q with threads := q.threads.mapVals fun i x => f ⟨c, g, i⟩ x } := by
  simp only [State.group?_eq, State.team?_mapThreads]
  cases s.team? c <;> simp

@[simp] theorem State.group?_mapGroups (s : State) (f : Nat → Nat → Group → Group) (c g : Nat) :
    (s.mapGroups f).group? c g = (s.group? c g).map (f c g) := by
  simp only [State.group?_eq, State.team?_mapGroups]
  cases s.team? c <;> simp

@[simp] theorem State.thread?_mapThreads (s : State) (f : ThreadRef → Thread → Thread) (q : ThreadRef) :
    (s.mapThreads f).thread? q = (s.thread? q).map (f q) := by
  simp only [State.thread?_eq, State.group?_mapThreads]
  cases s.group? q.ctx q.grp <;> simp

theorem State.thread?_mapGroups (s : State) (f : Nat → Nat → Group → Group) (h : ∀ c g q, (f c g q).threads = q.threads)
    (q : ThreadRef) : (s.mapGroups f).thread? q = s.thread? q := by
  simp only [State.thread?_eq, State.group?_mapGroups]
  cases s.group? q.ctx q.grp <;> simp [h]

theorem State.team?_modTeam (s : State) (c : Nat) (f : Team → Team) (k : Nat) :
    (s.modTeam c f).team? k = if k = c then (s.team? k).map f else s.team? k := by
  unfold State.modTeam State.team?
  by_cases h : k = c
  · subst h
    cases e : s.teams.find? k with
    | none => simp [e]
    | some t => simp
  · cases e : s.teams.find? c with
    | none => simp [h]
    | some t => simp [h, SMap.find?_put_ne _ _ (Ne.symm h)]

@[simp] theorem Team.groups_modGroup (t : Team) (g : Nat) (f : Group → Group) (k : Nat) :
    (t.modGroup g f).groups.find? k = if k = g then (t.groups.find? k).map f else t.groups.find? k := by
  unfold Team.modGroup
  by_cases h : k = g
  · subst h
    cases e : t.groups.find? k with
    | none => simp [e]
    | some q => simp
  · cases e : t.groups.find? g with
    | none => simp [h]
    | some q => simp [h, SMap.find?_put_ne _ _ (Ne.symm h)]

theorem Team.modGroup_rest (t : Team) (g : Nat) (f : Group → Group) : t.modGroup g f = { t with groups := (t.modGroup g f).groups } := by
  unfold Team.modGroup; split <;> rfl

@[simp] theorem Group.threads_modThread (q : Group) (i : Nat) (f : Thread → Thread) (k : Nat) :
    (q.modThread i f).threads.find? k = if k = i then (q.threads.find? k).map f else q.threads.find? k := by
  unfold Group.modThread
  by_cases h : k = i
  · subst h
    cases e : q.threads.find? k with
    | none => simp [e]
    | some x => simp
  · cases e : q.threads.find? i with
    | none => simp [h]
    | some x => simp [h, SMap.find?_put_ne _ _ (Ne.symm h)]

theorem Group.modThread_rest (q : Group) (i : Nat) (f : Thread → Thread) :
    q.modThread i f = { q with threads := (q.modThread i f).threads } := by
  unfold Group.modThread; split <;> rfl

theorem State.group?_modGroup (s : State) (c g : Nat) (f : Group → Group) (c' g' : Nat) :
    (s.modGroup c g f).group? c' g' = if c' = c ∧ g' = g then (s.group? c' g').map f else s.group? c' g' := by
  simp only [State.group?_eq, State.modGroup, State.team?_modTeam]
  by_cases h : c' = c
  · simp only [h, if_true, true_and]
    cases s.team? c with
    | none => simp
    | some t => simp
  · simp [h]

theorem State.thread?_modThread (s : State) (q : ThreadRef) (f : Thread → Thread) (k : ThreadRef) :
    (s.modThread q f).thread? k = if k = q then (s.thread? k).map f else s.thread? k := by
  simp only [State.thread?_eq, State.modThread, State.group?_modGroup]
  obtain ⟨c, g, i⟩ := q
  obtain ⟨c', g', i'⟩ := k
  by_cases h : c' = c ∧ g' = g
  · obtain ⟨rfl, rfl⟩ := h
    cases s.group? c' g' with
    | none => simp
    | some x =>
      by_cases e : i' = i
      · simp [e]
      · simp [e]
  · have : ¬ (⟨c', g', i'⟩ : ThreadRef) = ⟨c, g, i⟩ := by
      intro e; injection e with e1 e2 e3; exact h ⟨e1, e2⟩
    simp [h, this]

theorem State.thread?_modGroup (s : State) (c g : Nat) (f : Group → Group) (h : ∀ q, (f q).threads = q.threads) (k : ThreadRef) :
    (s.modGroup c g f).thread? k = s.thread? k := by
  simp only [State.thread?_eq, State.group?_modGroup]
  split
  · cases s.group? k.ctx k.grp <;> simp [h]
  · rfl

/-- A change of a thread leaves its group's own fields. -/
theorem State.group?_modThread (s : State) (q : ThreadRef) (f : Thread → Thread) (c g : Nat) :
    (s.modThread q f).group? c g = (s.group? c g).map fun x => if c = q.ctx ∧ g = q.grp then x.modThread q.idx f else x := by
  unfold State.modThread
  rw [State.group?_modGroup]
  split
  · simp [*]
  · cases s.group? c g <;> simp

/-! ## A list of threads changed -/

theorem State.thread?_eachThread (s : State) (rs : List ThreadRef) (f : Thread → Thread) (k : ThreadRef) :
    (s.eachThread rs f).thread? k = if k ∈ rs then (s.thread? k).map f else s.thread? k := by
  unfold State.eachThread
  rw [State.thread?_mapThreads]
  cases s.thread? k <;> by_cases h : k ∈ rs <;> simp [h]

end Sys2Proof.Machine
end

