-- ==== Sys2Proof/Laws/Issue.lean ====
section
/-! SUPPORT. What issuing a lane-set word does when it can execute at once for its whole issue set. -/

namespace Sys2Proof.Machine

/-! ## Fates -/

theorem foldl_congr_mem {α β : Type} {f g : β → α → β} {l : List α} {b : β} (h : ∀ x ∈ l, ∀ b, f b x = g b x) :
    l.foldl f b = l.foldl g b := by
  induction l generalizing b with
  | nil => rfl
  | cons x t ih => rw [List.foldl_cons, List.foldl_cons, h x (by simp), ih fun y hy => h y (by simp [hy])]

theorem filterMap_congr_mem {α β : Type} {f g : α → Option β} {l : List α} (h : ∀ x ∈ l, f x = g x) :
    l.filterMap f = l.filterMap g := by
  induction l with
  | nil => rfl
  | cons x t ih =>
    rw [List.filterMap_cons, List.filterMap_cons, h x (by simp), ih fun y hy => h y (by simp [hy])]

/-- The fate of each thread of a ready issue set is the word's own. -/
theorem laneFates_ready {s : State} {i : Instr} {m : Mod} {vs : List VOp} {gs : List Nat} {c : Nat} {r : Run} {gm : Bool}
    (h : LaneReady s i m vs gs c r gm) (fate : LaneCtx → Thread → Fate) (F : ThreadRef → Fate)
    (hF : ∀ q ∈ r.set, ∀ t g x, s.team? q.ctx = some t → s.group? q.ctx q.grp = some g → s.thread? q = some x →
      F q = fate ⟨q, c, t, g, r.jo, r.pc⟩ x.tick) :
    s.laneFates c r i m gm vs gs fate = r.set.map fun q => (q, F q) := by
  unfold State.laneFates
  rw [← List.filterMap_eq_map]
  apply filterMap_congr_mem
  intro q hq
  obtain ⟨t, g, x, ht, hg, hx, -, hn, hj, hb, hk⟩ := h.each q hq
  simp only [State.laneFate, ht, hg, hx, Function.comp, Option.some.injEq, Prod.mk.injEq, true_and]
  have h1 : (!i.wf || vs.any fun o => decide ((t.role g).vregs < o.need)) = false := by
    simp only [h.legal, Bool.not_true, Bool.false_or, List.any_eq_false, decide_eq_true_eq, Nat.not_lt]
    exact hn
  have h2 : (if takesPart m x = true then vs.find? fun o => o.crooked r.jo else none) = none := by
    split
    · rename_i hp
      simp only [List.find?_eq_none, Bool.not_eq_true]
      exact hj hp
    · rfl
  have h3 : ((rcTags q (vs.flatMap VOp.regs) gs).find? fun k => !((s.core c).rc.contains k)) = none := by
    simp only [List.find?_eq_none, Bool.not_eq_true, Bool.not_eq_false', List.contains_iff_mem]
    exact hk
  rw [h1, h2, hb, h3]
  simp only [Bool.false_eq_true, if_false]
  exact (hF q hq t g x ht hg hx).symm

theorem fateOf_map (F : ThreadRef → Fate) (qs : List ThreadRef) (q : ThreadRef) :
    fateOf (qs.map fun q => (q, F q)) q = if q ∈ qs then some (F q) else none := by
  induction qs with
  | nil => rfl
  | cons p t ih =>
    simp only [List.map_cons, fateOf, ih, List.mem_cons]
    by_cases e : p = q
    · subst e; simp
    · simp [e, Ne.symm e]

/-! ## The register cache -/

/-- Naming the lines of a word whose lines are all there only orders the register cache. -/
theorem nameLines_ready (s : State) (c : Nat) (r : Run) (fs : List (ThreadRef × Fate)) (vs : List VOp) (gs : List Nat)
    (h : ∀ f ∈ fs, ∀ k, f.2 ≠ .wait (.rcLine k)) : s.nameLines c r fs vs gs = s.useLines c (runTags r vs gs) := by
  unfold State.nameLines
  rw [List.filterMap_eq_nil_iff.mpr]
  · rfl
  · intro f hf
    split
    · rename_i t e; exact absurd e (h f hf t)
    · rfl

/-- Lines used change their order alone. -/
theorem mem_useLines (s : State) (c : Nat) (ts : List RcTag) (k : RcTag) : k ∈ ((s.useLines c ts).core c).rc ↔ k ∈ (s.core c).rc := by
  simp only [State.useLines, State.core_modCore_self, List.mem_append, List.mem_filter, List.contains_iff_mem, Bool.not_eq_true',
    ← Bool.not_eq_true]
  by_cases h : k ∈ ts <;> simp [h]

@[simp] theorem State.team?_useLines (s : State) (c : Nat) (ts : List RcTag) (k : Nat) : (s.useLines c ts).team? k = s.team? k := rfl
@[simp] theorem State.group?_useLines (s : State) (c : Nat) (ts : List RcTag) (k g : Nat) : (s.useLines c ts).group? k g = s.group? k g := rfl
theorem State.run?_useLines (s : State) (c : Nat) (ts : List RcTag) : (s.useLines c ts).run? = s.run? :=
  State.run?_modCore s c _ rfl

/-! ## What leaves all but teams and cores -/

theorem State.coresOnly_self (s : State) : s.coresOnly s := rfl
theorem State.coresOnly.trans {s t u : State} (h : s.coresOnly t) (k : t.coresOnly u) : s.coresOnly u := by
  unfold State.coresOnly at *; rw [k, h]
theorem State.coresOnly_modCore (s : State) (n : Nat) (f : Core → Core) : s.coresOnly (s.modCore n f) := rfl
theorem State.coresOnly_useLines (s : State) (c : Nat) (ts : List RcTag) : s.coresOnly (s.useLines c ts) := rfl
theorem State.coresOnly_mapThreads (s : State) (f : ThreadRef → Thread → Thread) : s.coresOnly (s.mapThreads f) := rfl
theorem State.coresOnly_mapGroups (s : State) (f : Nat → Nat → Group → Group) : s.coresOnly (s.mapGroups f) := rfl
theorem State.coresOnly_modTeam (s : State) (c : Nat) (f : Team → Team) : s.coresOnly (s.modTeam c f) := by
  unfold State.modTeam; split <;> rfl
theorem State.coresOnly_modGroup (s : State) (c g : Nat) (f : Group → Group) : s.coresOnly (s.modGroup c g f) :=
  s.coresOnly_modTeam c _
theorem State.coresOnly_modThread (s : State) (q : ThreadRef) (f : Thread → Thread) : s.coresOnly (s.modThread q f) :=
  s.coresOnly_modGroup q.ctx q.grp _
theorem State.coresOnly_modRun (s : State) (f : Run → Run) : s.coresOnly (s.modRun f) := by
  unfold State.modRun; split <;> rfl
theorem State.coresOnly_dropRun (s : State) : s.coresOnly s.dropRun := by
  unfold State.dropRun; split <;> rfl
theorem State.coresOnly_eachThread (s : State) (rs : List ThreadRef) (f : Thread → Thread) : s.coresOnly (s.eachThread rs f) := rfl

@[simp] theorem State.dropRun_teams (s : State) : s.dropRun.teams = s.teams := by
  unfold State.dropRun; split <;> rfl

/-! ## Going on -/

/-- A thread that stays in the run behind the word, or with `ends` is ready there. -/
def Thread.behind (x : Thread) (pc : DWord) (ends : Bool) (now : Nat) : Thread :=
  { x with pc := pc, st := if ends then (if x.st = .running then .ready else x.st) else .running, since := if ends then now else x.since }

/-- What `finish` leaves of the teams, and that it leaves all but teams and cores. -/
theorem finish_spec {s : State} {c : Nat} {r : Run} (h : s.run? = some (c, r)) (i : Instr) (keep : List ThreadRef) (stop : Bool) :
    ∃ e : Bool, (s.finish i keep stop).teams = (s.mapThreads fun q x =>
      if keep.contains q then x.behind (ptrAdd r.pc (4 * i.words)) e s.cycle else x).teams ∧
      s.coresOnly (s.finish i keep stop) := by
  unfold State.finish
  rw [h]
  simp only
  generalize hb : (stop || endsRun i || decide (24 ≤ r.count + 1) || (r.code.drop i.words).isEmpty || keep.isEmpty) = b
  refine ⟨b, ?_⟩
  cases b with
  | true => exact ⟨rfl, rfl⟩
  | false =>
    simp only [Bool.false_eq_true, if_false, State.modRun_teams]
    exact ⟨rfl, (State.coresOnly_mapThreads s _).trans (State.coresOnly_modRun _ _)⟩

/-- An instruction by which every thread of the issue set goes on: all meet their fates, the flags enter `jxf`, the run goes on. -/
theorem meet_goes {s : State} {c : Nat} {r : Run} (h : s.run? = some (c, r)) (i : Instr) (X : ThreadRef → Thread) (B : ThreadRef → BitVec 40) :
    s.meet i (r.set.map fun q => (q, Fate.go (X q) (B q))) =
      ((s.mapThreads fun q x => if q ∈ r.set then X q else x).mapGroups fun c g q =>
        q.raise (r.set.foldl (fun a q => if q.ctx = c ∧ q.grp = g then a ||| B q else a) 0#40)).finish i r.set false := by
  have hw : firstWait r.bound (r.set.map fun q => (q, Fate.go (X q) (B q))) = none := by
    simp [firstWait, List.findSome?_eq_none_iff]
  have hg : goers (r.set.map fun q => (q, Fate.go (X q) (B q))) = r.set := by
    simp only [goers, List.filterMap_map]
    simp [Function.comp_def]
  have hf := fateOf_map (fun q => Fate.go (X q) (B q)) r.set
  unfold State.meet
  rw [h]
  simp only [hw, hg]
  rw [List.filterMap_eq_nil_iff.mpr]
  · simp only [State.takeFaults, List.foldl_nil]
    congr 2
    · congr 1; funext q x; rw [hf q]
      by_cases hq : q ∈ r.set
      · simp only [hq, if_true, Fate.apply]
      · simp only [hq, if_false]
    · funext c g q; simp only [List.foldl_map, Fate.flags]
  · intro f hf'
    simp only [List.mem_map] at hf'
    obtain ⟨q, _, rfl⟩ := hf'; rfl

/-! ## A ready word that goes on -/

/-- The teams, groups and threads after an issue set has gone past a word: `X` the threads of the set, `B` their flags. -/
theorem goes_lookups {s : State} {c : Nat} {r : Run} (h : s.run? = some (c, r)) (i : Instr) (X : ThreadRef → Thread)
    (B : ThreadRef → BitVec 40) :
    ∃ e : Bool, ∃ t, s.meet i (r.set.map fun q => (q, Fate.go (X q) (B q))) = t ∧ s.coresOnly t ∧
      (∀ k x, s.team? k = some x → ∃ y, t.team? k = some y ∧ y = { x with groups := y.groups }) ∧
      (∀ k g x, s.group? k g = some x → ∃ y, t.group? k g = some y ∧ y = { x with
        threads := y.threads, jxf := x.jxf ||| r.set.foldl (fun a q => if q.ctx = k ∧ q.grp = g then a ||| B q else a) 0#40 }) ∧
      (∀ q ∈ r.set, ∀ x, s.thread? q = some x → t.thread? q = some ((X q).behind (ptrAdd r.pc (4 * i.words)) e s.cycle)) ∧
      ∀ q, q ∉ r.set → t.thread? q = s.thread? q := by
  rw [meet_goes h]
  generalize hm : ((s.mapThreads fun q x => if q ∈ r.set then X q else x).mapGroups fun c g q =>
    q.raise (r.set.foldl (fun a q => if q.ctx = c ∧ q.grp = g then a ||| B q else a) 0#40)) = m
  have hmr : m.run? = some (c, r) := by rw [← hm, ← h]; exact State.run?_congr rfl rfl
  have hmo : s.coresOnly m := by rw [← hm]; rfl
  have hmc : m.cycle = s.cycle := by rw [← hm]; rfl
  obtain ⟨e, hT, hO⟩ := finish_spec hmr i r.set false
  refine ⟨e, _, rfl, hmo.trans hO, ?_, ?_, ?_, ?_⟩
  · intro k x hx
    rw [State.team?_congr hT, ← hm]
    refine ⟨_, by simp only [State.team?_mapThreads, State.team?_mapGroups, hx, Option.map_some]; rfl, ?_⟩
    rfl
  · intro k g x hx
    rw [State.group?_congr hT, ← hm]
    refine ⟨_, by simp only [State.group?_mapThreads, State.group?_mapGroups, hx, Option.map_some]; rfl, ?_⟩
    rfl
  · intro q hq x hx
    rw [State.thread?_congr hT, ← hm]
    simp only [State.thread?_mapThreads]
    rw [State.thread?_mapGroups _ _ (by intros; rfl)]
    simp [hx, hq]
    rfl
  · intro q hq
    rw [State.thread?_congr hT, ← hm]
    simp only [State.thread?_mapThreads]
    rw [State.thread?_mapGroups _ _ (by intros; rfl)]
    simp only [State.thread?_mapThreads]
    cases s.thread? q <;> simp [hq]

/-- A lane-set word that is ready and lets every thread go on. -/
theorem issueLane_goes {s : State} {i : Instr} {m : Mod} {vs : Nat → List VOp} {gs : List Nat} {c : Nat} {r : Run}
    (h : LaneReady s i m (vs r.jo) gs c r) (fate : LaneCtx → Thread → Fate) (eff : LaneEffect)
    (he : ∀ q ∈ r.set, ∀ t g x, s.team? q.ctx = some t → s.group? q.ctx q.grp = some g → s.thread? q = some x →
      fate ⟨q, c, t, g, r.jo, r.pc⟩ x.tick = .go { (eff q x).1 with loads := x.tick.loads } (eff q x).2)
    (hs : ∀ q x, (eff q x).1.st = x.st) :
    LaneGoes s (s.issueLane i m vs gs fate) i r eff := by
  have hF := laneFates_ready h fate
    (fun q => Fate.go { (eff q ((s.thread? q).getD {})).1 with loads := ((s.thread? q).getD {}).tick.loads } (eff q ((s.thread? q).getD {})).2)
    (fun q hq t g x ht hg hx => by simp only [hx, Option.getD_some]; exact (he q hq t g x ht hg hx).symm)
  unfold State.issueLane
  rw [h.run]
  simp only [hF]
  rw [nameLines_ready _ _ _ _ _ _ (by
    intro f hf k
    simp only [List.mem_map] at hf
    obtain ⟨q, _, rfl⟩ := hf
    simp)]
  have hrun : (s.useLines c (runTags r (vs r.jo) gs)).run? = some (c, r) := by rw [State.run?_useLines]; exact h.run
  obtain ⟨e, t, ht, hO, hteam, hgroup, hthread, hoth⟩ := goes_lookups hrun i
    (fun q => { (eff q ((s.thread? q).getD {})).1 with loads := ((s.thread? q).getD {}).tick.loads })
    (fun q => (eff q ((s.thread? q).getD {})).2)
  rw [ht]
  refine ⟨(State.coresOnly_useLines s c _).trans hO, hteam, ?_, ?_, hoth⟩
  · intro k g x hx
    obtain ⟨y, hy, e⟩ := hgroup k g x hx
    refine ⟨y, hy, ?_⟩
    rw [e]
    have : eff.flagsIn s r k g = r.set.foldl (fun a q => if q.ctx = k ∧ q.grp = g then a ||| (eff q ((s.thread? q).getD {})).2 else a) 0#40 := by
      unfold LaneEffect.flagsIn
      apply foldl_congr_mem
      intro q hq a
      obtain ⟨_, _, x, _, _, hx, _⟩ := h.each q hq
      simp [hx]
    rw [this]
  · intro q hq x hx
    refine ⟨_, hthread q hq x hx, ?_, ?_⟩
    · simp only [hx, Option.getD_some, Thread.behind]
    · obtain ⟨_, _, x', _, _, hx', hst, _⟩ := h.each q hq
      rw [hx] at hx'; cases hx'
      simp only [hx, Option.getD_some, Thread.behind, hs, hst, if_true]
      cases e <;> simp

/-! ## Registers of a thread -/

theorem Thread.r_setR (x : Thread) (n k : Nat) (w : Word) : (x.setR n w).r k = if n = k then w else x.r k := by
  simp only [Thread.r, Thread.setR, SMap.getD_store]

theorem Thread.setRs_only (x : Thread) (n k v : Nat) : x.setRs n k v = { x with v := (x.setRs n k v).v } := by
  induction k generalizing x n v with
  | zero => rfl
  | succ j ih => rw [Thread.setRs, ih]; rfl

theorem Thread.r_setRs_outside (x : Thread) (n k v m : Nat) (h : m < n ∨ n + k ≤ m) : (x.setRs n k v).r m = x.r m := by
  induction k generalizing x n v with
  | zero => rfl
  | succ j ih => rw [Thread.setRs, ih _ _ _ (by omega), Thread.r_setR, if_neg (by omega)]

/-- Registers written with a number read back as the number. -/
theorem Thread.rs_setRs (x : Thread) (n k v : Nat) : (x.setRs n k v).rs n k = v % 2 ^ (32 * k) := by
  induction k generalizing x n v with
  | zero => simp [Thread.rs, Nat.mod_one]
  | succ j ih =>
    rw [Thread.rs, Thread.setRs, ih, Thread.r_setRs_outside _ _ _ _ _ (by omega), Thread.r_setR, if_pos rfl]
    have : (wd v).toNat = v % 2 ^ 32 := by simp [wd]
    rw [this, show 32 * (j + 1) = 32 + 32 * j by omega, Nat.pow_add, Nat.mod_mul]

theorem Thread.rs_congr {x y : Thread} (n k : Nat) (h : ∀ m, n ≤ m → m < n + k → x.r m = y.r m) : x.rs n k = y.rs n k := by
  induction k generalizing n with
  | zero => rfl
  | succ j ih => rw [Thread.rs, Thread.rs, h n (by omega) (by omega), ih (n + 1) fun m a b => h m (by omega) (by omega)]

theorem Thread.rs_lt (x : Thread) (n k : Nat) : x.rs n k < 2 ^ (32 * k) := by
  induction k generalizing n with
  | zero => simp [Thread.rs]
  | succ j ih =>
    rw [Thread.rs, show 32 * (j + 1) = 32 + 32 * j by omega, Nat.pow_add]
    have h1 := (x.r n).isLt
    have h2 := ih (n + 1)
    have : 2 ^ 32 * (x.rs (n + 1) j + 1) ≤ 2 ^ 32 * 2 ^ (32 * j) := Nat.mul_le_mul_left _ h2
    rw [Nat.mul_add] at this
    omega

theorem Thread.setCoefs_only (x : Thread) (n : Nat) (cs : List Nat) : x.setCoefs n cs = { x with v := (x.setCoefs n cs).v } := by
  induction cs generalizing x n with
  | nil => rfl
  | cons c t ih => rw [Thread.setCoefs, ih]; rfl

/-- Coefficients written are the registers of a number written. -/
theorem Thread.setCoefs_eq (x : Thread) (n : Nat) (cs : List Nat) : x.setCoefs n cs = x.setRs n cs.length (joined 32 cs) := by
  induction cs generalizing x n with
  | nil => rfl
  | cons c t ih =>
    rw [Thread.setCoefs, List.length_cons, Thread.setRs, ih]
    have h : joined 32 (c :: t) = c % 2 ^ 32 + 2 ^ 32 * joined 32 t := rfl
    rw [h]
    congr 1
    · congr 1
      apply BitVec.eq_of_toNat_eq
      simp [wd]
    · omega

theorem Thread.setP_only (x : Thread) (p : BitVec 7) (b : Bool) : x.setP p b = { x with p := (x.setP p b).p } := by
  unfold Thread.setP; split <;> rfl

theorem Thread.setP_get (x : Thread) (p : BitVec 7) (b : Bool) (k : Nat) (hk : k < 96) :
    (x.setP p b).p.getLsbD k = if p.toNat = k then b else x.p.getLsbD k := by
  have h1 : ((1#96) <<< p.toNat).getLsbD k = decide (p.toNat = k) := by
    rw [BitVec.getLsbD_shiftLeft, BitVec.getLsbD_one]
    simp only [hk, decide_true, Bool.true_and, show (0 : Nat) < 96 by omega]
    by_cases e : p.toNat = k
    · simp [e]
    · by_cases l : k < p.toNat
      · simp [l, e]
      · simp [l, e]; omega
  unfold Thread.setP
  by_cases hp : p.toNat < 96
  · simp only [hp, if_true]
    cases b
    · simp only [Bool.false_eq_true, if_false, BitVec.getLsbD_and, BitVec.getLsbD_not, hk, decide_true, Bool.true_and, h1]
      by_cases e : p.toNat = k <;> simp [e]
    · simp only [if_true, BitVec.getLsbD_or, h1]
      by_cases e : p.toNat = k <;> simp [e]
  · simp only [hp, if_false]
    rw [if_neg (by omega)]

@[simp] theorem Thread.tick_r (x : Thread) (n : Nat) : x.tick.r n = x.r n := rfl
@[simp] theorem Thread.tick_p (x : Thread) : x.tick.p = x.p := rfl
theorem Thread.tick_rs (x : Thread) (n k : Nat) : x.tick.rs n k = x.rs n k := Thread.rs_congr n k fun _ _ _ => rfl
theorem Thread.tick_get (x : Thread) (o : VOp) : x.tick.get o = x.get o := Thread.tick_rs x o.reg o.n

/-! ## Words that write one operand -/

/-- The effect of a lane-set arithmetic word on a thread of a ready issue set. -/
def laneEff (s : State) (m : Mod) (c : Nat) (r : Run) (z : Nat → Thread → Thread) (f : LaneCtx → Thread → Thread × BitVec 40) : LaneEffect :=
  fun q x =>
    if takesPart m x then
      f ⟨q, c, (s.team? q.ctx).getD {}, (s.group? q.ctx q.grp).getD {}, r.jo, r.pc⟩ x
    else if m.z then (z r.jo x, 0#40) else (x, 0#40)

theorem takesPart_tick (m : Mod) (x : Thread) : takesPart m x.tick = takesPart m x := rfl

theorem Thread.setRs_loads (x : Thread) (l : List Lookahead) (a n v : Nat) :
    ({ x with loads := l } : Thread).setRs a n v = { x.setRs a n v with loads := l } := by
  induction n generalizing x a v with
  | zero => rfl
  | succ k ih => rw [Thread.setRs, Thread.setRs]; exact ih (x.setR a (wd v)) (a + 1) (v / 2 ^ 32)

theorem Thread.setP_loads (x : Thread) (l : List Lookahead) (p : BitVec 7) (b : Bool) :
    ({ x with loads := l } : Thread).setP p b = { x.setP p b with loads := l } := by
  unfold Thread.setP; split <;> rfl

/-- A lane-set arithmetic word goes past its ready issue set, if neither its effect nor its zeroing looks at lookahead windows or
changes the state of a thread. -/
theorem laneArith_goes {s : State} {i : Instr} {m : Mod} {vs : Nat → List VOp} {gs : List Nat} {c : Nat} {r : Run}
    (h : LaneReady s i m (vs r.jo) gs c r) (z : Nat → Thread → Thread) (f : LaneCtx → Thread → Thread × BitVec 40)
    (hz : ∀ j x, z j x.tick = { z j x with loads := x.tick.loads } ∧ (z j x).st = x.st)
    (hf : ∀ c x, f c x.tick = ({ (f c x).1 with loads := x.tick.loads }, (f c x).2) ∧ (f c x).1.st = x.st) :
    LaneGoes s (s.laneArith i m vs gs z f) i r (laneEff s m c r z f) := by
  apply issueLane_goes h
  · intro q hq t g x ht hg hx
    simp only [laneEff, takesPart_tick, ht, hg, Option.getD_some]
    split
    · rw [(hf _ x).1]
    · split
      · rw [(hz _ x).1]
      · rfl
  · intro q x
    simp only [laneEff]
    split
    · exact (hf _ x).2
    · split
      · exact (hz _ x).2
      · rfl

/-- A lane-set arithmetic word writes the registers of `dst`, if its effect and its zeroing do. -/
theorem writesRegs_of {i : Instr} {m : Mod} {vs : Nat → List VOp} {gs : List Nat} {dst : Nat → VOp}
    {val : Group → Nat → Thread → Nat × BitVec 40} {z : Nat → Thread → Thread} {f : LaneCtx → Thread → Thread × BitVec 40}
    (V : LaneCtx → Thread → Nat)
    (he : ∀ s, exec i s = .next (s.laneArith i m vs gs z f))
    (hz : ∀ j x, z j x = x.setRs (dst j).reg (dst j).n 0)
    (hf : ∀ c x, f c x = (x.setRs (dst c.jo).reg (dst c.jo).n (V c x), (val c.group c.jo x).2))
    (hv : ∀ c x, V c x % 2 ^ (32 * (dst c.jo).n) = (val c.group c.jo x).1)
    (ht : ∀ c x, V c x.tick = V c x ∧ val c.group c.jo x.tick = val c.group c.jo x) : WritesRegs i m vs gs dst val := by
  intro s c r h
  refine ⟨_, laneEff s m c r z f, he s, laneArith_goes h z f ?_ ?_, ?_⟩
  · intro j x
    rw [hz, hz]
    exact ⟨Thread.setRs_loads x _ _ _ _, by rw [Thread.setRs_only]⟩
  · intro c x
    rw [hf, hf, (ht c x).1, (ht c x).2]
    refine ⟨?_, by rw [Thread.setRs_only]⟩
    rw [Prod.mk.injEq]
    exact ⟨Thread.setRs_loads x _ _ _ _, rfl⟩
  · intro q hq g x hg hx
    simp only [laneEff, hg, Option.getD_some]
    have hout : ∀ (v n : Nat), n ∉ (dst r.jo).regs → (x.setRs (dst r.jo).reg (dst r.jo).n v).r n = x.r n := by
      intro v n hn
      apply Thread.r_setRs_outside
      refine Classical.byContradiction fun hc => hn ?_
      simp only [VOp.regs, List.mem_map, List.mem_range]
      exact ⟨n - (dst r.jo).reg, by omega, by omega⟩
    split
    · rw [hf]
      exact ⟨Thread.setRs_only _ _ _ _, rfl, by rw [Thread.get, Thread.rs_setRs, hv], hout _⟩
    · split
      · rw [hz]
        exact ⟨Thread.setRs_only _ _ _ _, rfl, by rw [Thread.get, Thread.rs_setRs, Nat.zero_mod], hout _⟩
      · exact ⟨rfl, rfl, rfl, fun _ _ => rfl⟩

/-- A lane-set word writes the predicate `p`, if its effect and its zeroing do. -/
theorem writesPred_of {i : Instr} {m : Mod} {vs : Nat → List VOp} {p : BitVec 7}
    {val : Group → Nat → Thread → Bool × BitVec 40} {f : LaneCtx → Thread → Thread × BitVec 40}
    (he : ∀ s, exec i s = .next (s.laneArith i m vs [] (fun _ x => x.setP p false) f))
    (hf : ∀ c x, f c x = (x.setP p (val c.group c.jo x).1, (val c.group c.jo x).2))
    (ht : ∀ (c : LaneCtx) x, val c.group c.jo x.tick = val c.group c.jo x) : WritesPred i m vs p val := by
  intro s c r h
  refine ⟨_, laneEff s m c r _ f, he s, laneArith_goes h _ f ?_ ?_, ?_⟩
  · intro j x
    exact ⟨Thread.setP_loads x _ _ _, by rw [Thread.setP_only]⟩
  · intro c x
    rw [hf, hf, ht c x]
    refine ⟨?_, by rw [Thread.setP_only]⟩
    rw [Prod.mk.injEq]
    exact ⟨Thread.setP_loads x _ _ _, rfl⟩
  · intro q hq g x hg hx
    simp only [laneEff, hg, Option.getD_some]
    split
    · rw [hf]
      exact ⟨Thread.setP_only _ _ _, rfl, fun k hk => Thread.setP_get x p _ k hk⟩
    · split
      · exact ⟨Thread.setP_only _ _ _, rfl, fun k hk => Thread.setP_get x p _ k hk⟩
      · exact ⟨rfl, rfl, fun k _ => by simp⟩

end Sys2Proof.Machine
end

