-- ==== Sys2Proof/Laws/Memory.lean ====
section
/-! SUPPORT. The memories: a byte reads as it was last written, every other byte as before, and each operation keeps the canonical
form. -/

namespace Sys2Proof.Machine

@[simp] theorem Memory.get_set_self (m : Memory) (a : Nat) (b : Byte) : (m.set a b).get a = b := by
  simp [Memory.get, Memory.set]

theorem Memory.get_set_ne (m : Memory) {a c : Nat} (b : Byte) (h : a ≠ c) : (m.set a b).get c = m.get c :=
  SMap.getD_store_ne m 0 b h

theorem Memory.get_write_outside (m : Memory) (a : Nat) (bs : List Byte) (c : Nat) (h : c < a ∨ a + bs.length ≤ c) :
    (m.write a bs).get c = m.get c := by
  induction bs generalizing m a with
  | nil => rfl
  | cons b t ih =>
    simp only [List.length_cons] at h
    rw [Memory.write, ih (m.set a b) (a + 1) (by omega), Memory.get_set_ne m b (by omega)]

theorem Memory.get_write_inside (m : Memory) (a : Nat) (bs : List Byte) (k : Nat) (h : k < bs.length) :
    (m.write a bs).get (a + k) = bs[k] := by
  induction bs generalizing m a k with
  | nil => simp at h
  | cons b t ih =>
    cases k with
    | zero => rw [Memory.write, Memory.get_write_outside _ _ _ _ (by omega)]; simp
    | succ j =>
      have := ih (m.set a b) (a + 1) j (by simpa using h)
      rw [Memory.write, show a + (j + 1) = a + 1 + j by omega, this]; rfl

/-- Reading back the bytes written. -/
theorem Memory.read_write (m : Memory) (a : Nat) (bs : List Byte) : (m.write a bs).read a bs.length = bs := by
  suffices h : ∀ (n k : Nat) (m' : Memory), (∀ j, j < n → m'.get (a + k + j) = bs.getD (k + j) 0) →
      m'.read (a + k) n = (List.range n).map fun j => bs.getD (k + j) 0 by
    have := h bs.length 0 (m.write a bs) (by
      intro j hj
      simp only [Nat.add_zero, Nat.zero_add]
      rw [Memory.get_write_inside m a bs j hj]
      simp [List.getD, hj])
    simp only [Nat.add_zero, Nat.zero_add] at this
    rw [this]
    apply List.ext_getElem
    · simp
    · intro i h1 h2; simp [List.getD, h2]
  intro n
  induction n with
  | zero => intro k m' _; rfl
  | succ n ih =>
    intro k m' hm
    rw [Memory.read, show a + k + 1 = a + (k + 1) by omega, ih (k + 1) m' (by
      intro j hj
      have := hm (j + 1) (by omega)
      rw [show a + (k + 1) + j = a + k + (j + 1) by omega, this]
      congr 1; omega)]
    have h0 := hm 0 (by omega)
    simp only [Nat.add_zero] at h0
    rw [h0, List.range_succ_eq_map]
    simp only [List.map_cons, List.map_map, Nat.add_zero, List.cons.injEq, true_and]
    apply List.map_congr_left
    intro j _
    simp only [Function.comp, Nat.succ_eq_add_one]
    congr 1; omega

/-! ## The canonical form -/

theorem Memory.risingFrom_mono {lo lo' : Nat} {m : Memory} (h : lo' ≤ lo) (w : Memory.risingFrom lo m = true) :
    Memory.risingFrom lo' m = true := by
  cases m with
  | nil => rfl
  | cons c t =>
    simp only [Memory.risingFrom, Bool.and_eq_true, decide_eq_true_eq] at w ⊢
    exact ⟨⟨by omega, w.1.2⟩, w.2⟩

theorem Memory.risingFrom_put {lo a : Nat} {b : Byte} {m : Memory} (w : Memory.risingFrom lo m = true) (ha : lo ≤ a)
    (hb : b ≠ 0) : Memory.risingFrom lo (SMap.put m a b) = true := by
  induction m generalizing lo with
  | nil => simpa [SMap.put, Memory.risingFrom, ha] using hb
  | cons c t ih =>
    obtain ⟨k, v⟩ := c
    simp only [Memory.risingFrom, Bool.and_eq_true, decide_eq_true_eq, bne_iff_ne, ne_eq] at w
    by_cases l : a < k
    · simp only [SMap.put, l, if_true, Memory.risingFrom, Bool.and_eq_true, decide_eq_true_eq, bne_iff_ne, ne_eq]
      exact ⟨⟨ha, hb⟩, ⟨by omega, w.1.2⟩, w.2⟩
    · by_cases e : a = k
      · subst e
        simp only [SMap.put, Nat.lt_irrefl, if_false, if_true, Memory.risingFrom, Bool.and_eq_true, decide_eq_true_eq, bne_iff_ne, ne_eq]
        exact ⟨⟨ha, hb⟩, w.2⟩
      · simp only [SMap.put, l, e, if_false, Memory.risingFrom, Bool.and_eq_true, decide_eq_true_eq, bne_iff_ne, ne_eq]
        exact ⟨w.1, ih w.2 (by omega)⟩

theorem Memory.risingFrom_filter {lo : Nat} {m : Memory} (p : Host.Cell → Bool) (w : Memory.risingFrom lo m = true) :
    Memory.risingFrom lo (m.filter p) = true := by
  induction m generalizing lo with
  | nil => rfl
  | cons c t ih =>
    simp only [Memory.risingFrom, Bool.and_eq_true, decide_eq_true_eq] at w
    rw [List.filter_cons]
    split
    · simp only [Memory.risingFrom, Bool.and_eq_true, decide_eq_true_eq]
      exact ⟨w.1, ih w.2⟩
    · exact Memory.risingFrom_mono (by omega) (ih w.2)

@[simp] theorem Memory.wf_nil : Memory.wf [] = true := rfl

theorem Memory.wf_set {m : Memory} (w : m.wf = true) (a : Nat) (b : Byte) : (m.set a b).wf = true := by
  unfold Memory.set SMap.store
  split
  · exact Memory.risingFrom_filter _ w
  · exact Memory.risingFrom_put w (Nat.zero_le _) (by assumption)

theorem Memory.wf_write {m : Memory} (w : m.wf = true) (a : Nat) (bs : List Byte) : (m.write a bs).wf = true := by
  induction bs generalizing m a with
  | nil => exact w
  | cons b t ih => exact ih (Memory.wf_set w a b) (a + 1)

theorem Memory.wf_zero {m : Memory} (w : m.wf = true) (a n : Nat) : (m.zero a n).wf = true := Memory.risingFrom_filter _ w

/-- Two memories in canonical form that read alike at every address are equal. -/
theorem Memory.ext_of_risingFrom {lo : Nat} {m n : Memory} (hm : Memory.risingFrom lo m = true)
    (hn : Memory.risingFrom lo n = true) (h : ∀ a, m.get a = n.get a) : m = n := by
  have below : ∀ {lo : Nat} {m : Memory} (_ : Memory.risingFrom lo m = true) (a : Nat), a < lo → m.get a = 0 := by
    intro lo m
    induction m generalizing lo with
    | nil => intro _ _ _; rfl
    | cons c t ih =>
      intro w a ha
      obtain ⟨k, v⟩ := c
      simp only [Memory.risingFrom, Bool.and_eq_true, decide_eq_true_eq] at w
      have := ih w.2 a (by omega)
      simp only [Memory.get, SMap.getD, SMap.find?] at this ⊢
      rw [if_neg (by omega)]; exact this
  induction m generalizing lo n with
  | nil =>
    cases n with
    | nil => rfl
    | cons c t =>
      obtain ⟨k, v⟩ := c
      simp only [Memory.risingFrom, Bool.and_eq_true, bne_iff_ne, ne_eq] at hn
      have := h k
      simp [Memory.get, SMap.getD, SMap.find?] at this
      exact absurd this.symm hn.1.2
  | cons c t ih =>
    obtain ⟨k, v⟩ := c
    cases n with
    | nil =>
      simp only [Memory.risingFrom, Bool.and_eq_true, bne_iff_ne, ne_eq] at hm
      have := h k
      simp [Memory.get, SMap.getD, SMap.find?] at this
      exact absurd this hm.1.2
    | cons c' t' =>
      obtain ⟨k', v'⟩ := c'
      have hm' := hm
      have hn' := hn
      simp only [Memory.risingFrom, Bool.and_eq_true, decide_eq_true_eq, bne_iff_ne, ne_eq] at hm hn
      have hk : k = k' := by
        rcases Nat.lt_trichotomy k k' with l | e | g
        · have b := below (lo := k') (m := (k', v') :: t')
            (by simp only [Memory.risingFrom, Bool.and_eq_true, decide_eq_true_eq, bne_iff_ne, ne_eq]; exact ⟨⟨Nat.le_refl _, hn.1.2⟩, hn.2⟩) k l
          rw [← h k] at b
          simp [Memory.get, SMap.getD, SMap.find?] at b
          exact absurd b hm.1.2
        · exact e
        · have b := below (lo := k) (m := (k, v) :: t)
            (by simp only [Memory.risingFrom, Bool.and_eq_true, decide_eq_true_eq, bne_iff_ne, ne_eq]; exact ⟨⟨Nat.le_refl _, hm.1.2⟩, hm.2⟩) k' g
          rw [h k'] at b
          simp [Memory.get, SMap.getD, SMap.find?] at b
          exact absurd b hn.1.2
      subst hk
      have hv : v = v' := by
        have := h k
        simpa [Memory.get, SMap.getD, SMap.find?] using this
      subst hv
      rw [ih hm.2 hn.2 (by
        intro a
        by_cases e : k = a
        · subst e
          rw [below hm.2 k (by omega), below hn.2 k (by omega)]
        · have := h a
          simpa [Memory.get, SMap.getD, SMap.find?, e] using this)]

end Sys2Proof.Machine
end

