-- ==== Sys2Proof/Laws/Parts.lean ====
section
/-! SUPPORT. What a lane-set control word does when it can execute at once: some threads of the issue set go on, the others leave the
run; and what a uniform-set word does for its group. -/

namespace Sys2Proof.Machine

/-- The fate of a thread that goes on or leaves. -/
def partFate (stay : ThreadRef → Bool) (X : ThreadRef → Thread) (B : ThreadRef → BitVec 40) (q : ThreadRef) : Fate :=
  if stay q then .go (X q) (B q) else .leave (X q) (B q)

theorem partFate_flags (stay : ThreadRef → Bool) (X : ThreadRef → Thread) (B : ThreadRef → BitVec 40) (q : ThreadRef) :
    (partFate stay X B q).flags = B q := by
  unfold partFate; split <;> rfl

theorem partFate_apply (stay : ThreadRef → Bool) (X : ThreadRef → Thread) (B : ThreadRef → BitVec 40) (q : ThreadRef) (pc : DWord) (n : Nat)
    (x : Thread) : (partFate stay X B q).apply pc n x = X q := by
  unfold partFate; split <;> rfl

theorem meet_parts {s : State} {c : Nat} {r : Run} (h : s.run? = some (c, r)) (i : Instr) (stay : ThreadRef → Bool) (X : ThreadRef → Thread)
    (B : ThreadRef → BitVec 40) :
    s.meet i (r.set.map fun q => (q, partFate stay X B q)) =
      ((s.mapThreads fun q x => if q ∈ r.set then X q else x).mapGroups fun c g q =>
        q.raise (r.set.foldl (fun a q => if q.ctx = c ∧ q.grp = g then a ||| B q else a) 0#40)).finish i (r.set.filter stay) false := by
  have hw : firstWait r.bound (r.set.map fun q => (q, partFate stay X B q)) = none := by
    simp only [firstWait, List.findSome?_eq_none_iff, List.mem_map]
    rintro f ⟨q, _, rfl⟩
    simp only [partFate]
    cases stay q <;> rfl
  have hg : goers (r.set.map fun q => (q, partFate stay X B q)) = r.set.filter stay := by
    simp only [goers, List.filterMap_map]
    induction r.set with
    | nil => rfl
    | cons q t ih =>
      rw [List.filterMap_cons, List.filter_cons, ih]
      cases hq : stay q <;> simp [partFate, hq]
  have hf := fateOf_map (partFate stay X B) r.set
  unfold State.meet
  rw [h]
  simp only [hw, hg]
  rw [List.filterMap_eq_nil_iff.mpr]
  · simp only [State.takeFaults, List.foldl_nil]
    congr 2
    · congr 1; funext q x; rw [hf q]
      by_cases hq : q ∈ r.set
      · simp only [hq, if_true, partFate_apply]
      · simp only [hq, if_false]
    · funext c g q; simp only [List.foldl_map, partFate_flags]
  · intro f hf'
    simp only [List.mem_map] at hf'
    obtain ⟨q, _, rfl⟩ := hf'
    simp only [partFate]
    cases stay q <;> rfl

/-- The teams, groups and threads after an issue set has met fates by which its threads go on or leave. -/
theorem parts_lookups {s : State} {c : Nat} {r : Run} (h : s.run? = some (c, r)) (i : Instr) (stay : ThreadRef → Bool) (X : ThreadRef → Thread)
    (B : ThreadRef → BitVec 40) :
    ∃ e : Bool, ∃ t, s.meet i (r.set.map fun q => (q, partFate stay X B q)) = t ∧ s.coresOnly t ∧
      (∀ k x, s.team? k = some x → ∃ y, t.team? k = some y ∧ y = { x with groups := y.groups }) ∧
      (∀ k g x, s.group? k g = some x → ∃ y, t.group? k g = some y ∧ y = { x with
        threads := y.threads, jxf := x.jxf ||| r.set.foldl (fun a q => if q.ctx = k ∧ q.grp = g then a ||| B q else a) 0#40 }) ∧
      (∀ q ∈ r.set, ∀ x, s.thread? q = some x → t.thread? q =
        some (if stay q then (X q).behind (ptrAdd r.pc (4 * i.words)) e s.cycle else X q)) ∧
      ∀ q, q ∉ r.set → t.thread? q = s.thread? q := by
  rw [meet_parts h]
  generalize hm : ((s.mapThreads fun q x => if q ∈ r.set then X q else x).mapGroups fun c g q =>
    q.raise (r.set.foldl (fun a q => if q.ctx = c ∧ q.grp = g then a ||| B q else a) 0#40)) = m
  have hmr : m.run? = some (c, r) := by rw [← hm, ← h]; exact State.run?_congr rfl rfl
  have hmo : s.coresOnly m := by rw [← hm]; rfl
  obtain ⟨e, hT, hO⟩ := finish_spec hmr i (r.set.filter stay) false
  refine ⟨e, _, rfl, hmo.trans hO, ?_, ?_, ?_, ?_⟩
  · intro k x hx
    rw [State.team?_congr hT, ← hm]
    refine ⟨_, by simp only [State.team?_mapThreads, State.team?_mapGroups, hx, Option.map_some]; rfl, ?_⟩
    rfl
  · intro k g x hx
    rw [State.group?_congr hT, ← hm]
    refine ⟨_, by simp only [State.group?_mapThreads, State.group?_mapGroups, hx, Option.map_some]; rfl, ?_⟩
    rfl
  · intro q hq x hx
    rw [State.thread?_congr hT, ← hm]
    simp only [State.thread?_mapThreads]
    rw [State.thread?_mapGroups _ _ (by intros; rfl)]
    simp only [State.thread?_mapThreads, hx, Option.map_some, hq, if_true, List.contains_iff_mem, List.mem_filter, true_and]
    rfl
  · intro q hq
    rw [State.thread?_congr hT, ← hm]
    simp only [State.thread?_mapThreads]
    rw [State.thread?_mapGroups _ _ (by intros; rfl)]
    simp only [State.thread?_mapThreads]
    cases s.thread? q <;> simp [hq]

theorem foldl_or_zero (l : List ThreadRef) (p : ThreadRef → Prop) [DecidablePred p] :
    l.foldl (fun a q => if p q then a ||| 0#40 else a) 0#40 = 0#40 := by
  induction l with
  | nil => rfl
  | cons q t ih => simp only [List.foldl_cons]; split <;> simpa using ih

/-- A control word that is ready parts its issue set. -/
theorem issueLane_parts {s : State} {i : Instr} {m : Mod} {vs : Nat → List VOp} {gs : List Nat} {c : Nat} {r : Run}
    (h : LaneReady s i m (vs r.jo) gs c r) (fate : LaneCtx → Thread → Fate) (stay : ThreadRef → Thread → Bool)
    (away : ThreadRef → Thread → Thread)
    (he : ∀ q ∈ r.set, ∀ t g x, s.team? q.ctx = some t → s.group? q.ctx q.grp = some g → s.thread? q = some x →
      fate ⟨q, c, t, g, r.jo, r.pc⟩ x.tick = if stay q x then .go x.tick 0#40 else .leave (away q x) 0#40) :
    LaneParts s (s.issueLane i m vs gs fate) i r stay away := by
  have hF := laneFates_ready h fate
    (partFate (fun q => stay q ((s.thread? q).getD {}))
      (fun q => if stay q ((s.thread? q).getD {}) then ((s.thread? q).getD {}).tick else away q ((s.thread? q).getD {})) fun _ => 0#40)
    (fun q hq t g x ht hg hx => by
      rw [he q hq t g x ht hg hx]
      simp only [hx, Option.getD_some, partFate]
      split <;> rfl)
  unfold State.issueLane
  rw [h.run]
  simp only [hF]
  rw [nameLines_ready _ _ _ _ _ _ (by
    intro f hf k
    simp only [List.mem_map] at hf
    obtain ⟨q, _, rfl⟩ := hf
    simp only [partFate]
    split <;> simp)]
  have hrun : (s.useLines c (runTags r (vs r.jo) gs)).run? = some (c, r) := by rw [State.run?_useLines]; exact h.run
  obtain ⟨e, t, ht, hO, hteam, hgroup, hthread, hoth⟩ := parts_lookups hrun i
    (fun q => stay q ((s.thread? q).getD {}))
    (fun q => if stay q ((s.thread? q).getD {}) then ((s.thread? q).getD {}).tick else away q ((s.thread? q).getD {})) fun _ => 0#40
  rw [ht]
  refine ⟨(State.coresOnly_useLines s c _).trans hO, hteam, ?_, ?_, hoth⟩
  · intro k g x hx
    obtain ⟨y, hy, e⟩ := hgroup k g x hx
    refine ⟨y, hy, ?_⟩
    rw [e, foldl_or_zero]
    simp
  · intro q hq x hx
    refine ⟨_, hthread q hq x hx, ?_⟩
    obtain ⟨_, _, x', _, _, hx', hst, _⟩ := h.each q hq
    rw [hx] at hx'; cases hx'
    simp only [hx, Option.getD_some]
    split
    · refine ⟨by simp only [Thread.behind]; rfl, ?_⟩
      simp only [Thread.behind, Thread.tick, hst, if_true]
      cases e <;> simp
    · rfl

end Sys2Proof.Machine
end

