-- ==== Sys2Proof/Laws/Uni.lean ====
section
/-! SUPPORT. What a uniform-set word does when it executes at once, for its group and its issue set. -/

namespace Sys2Proof.Machine

/-! ## Mask pairs -/

/-- One group is another with other uniform registers and threads. -/
def Group.regsOnly (a b : Group) : Prop := b = { a with g := b.g, threads := b.threads }

theorem Group.regsOnly.trans {a b c : Group} (h : a.regsOnly b) (k : b.regsOnly c) : a.regsOnly c := by
  unfold Group.regsOnly at *; rw [k, h]

theorem Group.rejoinAt_rest (q : Group) (now g : Nat) : q.regsOnly (q.rejoinAt now g) := by
  unfold Group.rejoinAt; split <;> rfl

theorem Group.rejoinAll_rest (q : Group) (now : Nat) : q.regsOnly (q.rejoinAll now) := by
  unfold Group.rejoinAll
  split
  · rename_i h; clear h
    generalize List.range 32 = l
    induction l generalizing q with
    | nil => rfl
    | cons k t ih => exact (q.rejoinAt_rest now (2 * k)).trans (ih _)
  · rfl

/-- Settling mask pairs keeps every thread that waits in no `rejoin`. -/
theorem Group.find?_rejoinAt (q : Group) (now g i : Nat) {x : Thread} (hx : q.threads.find? i = some x)
    (hw : ∀ k, x.st ≠ .waiting (.rejoin k)) : (q.rejoinAt now g).threads.find? i = some x := by
  unfold Group.rejoinAt
  split
  · simp only [SMap.find?_mapVals, hx, Option.map_some, hw g, if_false]
  · exact hx

theorem Group.find?_rejoinAll (q : Group) (now i : Nat) {x : Thread} (hx : q.threads.find? i = some x)
    (hw : ∀ k, x.st ≠ .waiting (.rejoin k)) : (q.rejoinAll now).threads.find? i = some x := by
  unfold Group.rejoinAll
  split
  · rename_i h; clear h
    generalize List.range 32 = l
    induction l generalizing q with
    | nil => exact hx
    | cons k t ih => exact ih _ (q.find?_rejoinAt now (2 * k) i hx hw)
  · exact hx

/-! ## Going past a uniform-set word -/

theorem uniCtx_run {s : State} {u : UniCtx} (h : s.uniCtx = some u) : s.run? = some (u.core, u.run) ∧ u.ts = u.run.set ∧
    s.team? u.ctx = some u.team ∧ s.group? u.ctx u.grp = some u.group := by
  unfold State.uniCtx at h
  cases hr : s.run? with
  | none => simp [hr] at h
  | some p =>
    obtain ⟨c, r⟩ := p
    simp only [hr] at h
    cases hq : r.set with
    | nil => simp [hq] at h
    | cons q t =>
      simp only [hq] at h
      split at h
      · rename_i a b ha hb
        simp only [Option.some.injEq] at h
        subst h
        exact ⟨rfl, hq.symm, ha, hb⟩
      · simp at h

/-- A ready uniform-set word meets the fate of its own effect, its lines used. -/
theorem issueUni_ready {s : State} {i : Instr} {gm : Bool} {gs : List Nat} {u : UniCtx} (h : UniReady s i gm gs u)
    (sem : UniCtx → State → UFate) : s.issueUni i gm gs sem = s.meetUni i u ((sem u s).used u.core (uniTags i u gs)) := by
  unfold State.issueUni
  rw [h.ctx]
  have : (u.ts.findSome? fun q => (s.thread? q).bind fun x => x.blockedBy [] gs gm) = none := by
    rw [List.findSome?_eq_none_iff]
    intro q hq
    obtain ⟨x, hx, _, hb⟩ := h.each q hq
    simp [hx, hb]
  have held : (uniTags i u gs).find? (fun t => !((s.core u.core).rc.contains t)) = none := by
    simp only [List.find?_eq_none, Bool.not_eq_true, Bool.not_eq_false', List.contains_iff_mem]
    exact h.lines
  simp only [h.legal, Bool.not_true, Bool.false_eq_true, if_false, this, held]

/-- A uniform-set word whose effect is a change of its group goes on. -/
theorem meetUni_goes {s : State} {i : Instr} {gm : Bool} {gs : List Nat} {u : UniCtx} (h : UniReady s i gm gs u) (f : Group → Group)
    (ts : List RcTag) (hf : ∀ q ∈ u.ts, ∀ x, (f u.group).threads.find? q.idx = some x → x.st = .running) :
    UniGoes s (s.meetUni i u (.go ((s.modGroup u.ctx u.grp f).useLines u.core ts))) i u f := by
  obtain ⟨hrun, hts, hteam, hgroup⟩ := uniCtx_run h.ctx
  simp only [State.meetUni]
  generalize hm : (((s.modGroup u.ctx u.grp f).useLines u.core ts).modGroup u.ctx u.grp fun g => g.rejoinAll s.cycle).eachThread u.ts Thread.tick = m
  have hmo : s.coresOnly m := by
    rw [← hm]
    exact (((s.coresOnly_modGroup _ _ _).trans (State.coresOnly_useLines _ _ _)).trans (State.coresOnly_modGroup _ _ _ _)).trans
      (State.coresOnly_eachThread _ _ _)
  have hmr : m.run? = some (u.core, u.run) := by
    have h1 : m.run? = ((s.modGroup u.ctx u.grp f).useLines u.core ts).run? := by
      rw [← hm]; apply State.run?_congr <;> simp [State.eachThread]
    have h2 : (s.modGroup u.ctx u.grp f).run? = s.run? := by apply State.run?_congr <;> simp
    rw [h1, State.run?_useLines, h2, hrun]
  have hmg : ∀ c g, m.group? c g = if c = u.ctx ∧ g = u.grp then some
      { (f u.group).rejoinAll s.cycle with threads := ((f u.group).rejoinAll s.cycle).threads.mapVals fun k x =>
        if (⟨c, g, k⟩ : ThreadRef) ∈ u.ts then x.tick else x }
      else (s.group? c g).map fun q => { q with threads := q.threads.mapVals fun k x => if (⟨c, g, k⟩ : ThreadRef) ∈ u.ts then x.tick else x } := by
    intro c g
    rw [← hm, State.eachThread, State.group?_mapThreads, State.group?_modGroup, State.group?_useLines, State.group?_modGroup]
    by_cases e : c = u.ctx ∧ g = u.grp
    · obtain ⟨rfl, rfl⟩ := e
      simp [hgroup]
    · simp [e]
  obtain ⟨e, hT, hO⟩ := finish_spec hmr i u.ts false
  have hnot : ∀ c g k, ¬(c = u.ctx ∧ g = u.grp) → (⟨c, g, k⟩ : ThreadRef) ∉ u.ts := by
    intro c g k hcg hin; exact hcg (h.own _ hin)
  have hid : ∀ (l : SMap Thread) (F : Nat → Thread → Thread), (∀ k x, F k x = x) → l.mapVals F = l := by
    intro l F hF
    induction l with
    | nil => rfl
    | cons p t ih => simp only [SMap.mapVals, List.map_cons] at *; rw [ih, hF]
  refine ⟨hmo.trans hO, ?_, ?_, ?_, ?_, ?_⟩
  · intro c x hx
    rw [State.team?_congr hT, State.team?_mapThreads, ← hm, State.eachThread, State.team?_mapThreads, State.modGroup, State.modGroup]
    simp only [State.team?_modTeam, State.team?_useLines, hx]
    by_cases e : c = u.ctx
    · simp only [e, if_true, Option.map_some]
      refine ⟨_, rfl, ?_⟩
      rw [Team.modGroup_rest (Team.modGroup _ _ _), Team.modGroup_rest x]
    · simp only [e, if_false, Option.map_some]
      exact ⟨_, rfl, rfl⟩
  · rw [State.group?_congr hT, State.group?_mapThreads, hmg]
    simp only [and_self, if_true, Option.map_some]
    refine ⟨_, rfl, ?_⟩
    rfl
  · intro c g hcg
    rw [State.group?_congr hT, State.group?_mapThreads, hmg, if_neg hcg]
    cases s.group? c g with
    | none => rfl
    | some q =>
      simp only [Option.map_some, Option.some.injEq]
      rw [hid, hid]
      · intro k x; simp [hnot c g k hcg]
      · intro k x; simp [hnot c g k hcg]
  · intro q hq x hx
    obtain ⟨hc, hg⟩ := h.own q hq
    have hst := hf q hq x hx
    have hx' := Group.find?_rejoinAll (f u.group) s.cycle q.idx hx (by intro k; rw [hst]; simp)
    rw [State.thread?_congr hT, State.thread?_mapThreads]
    have : m.thread? q = some x.tick := by
      rw [State.thread?_eq, hmg, if_pos ⟨hc, hg⟩]
      have hqq : (⟨q.ctx, q.grp, q.idx⟩ : ThreadRef) = q := rfl
      simp [hx', hq]
    rw [this]
    simp only [Option.map_some, List.contains_iff_mem, hq, if_true]
    refine ⟨_, rfl, rfl, ?_⟩
    simp only [Thread.behind, Thread.tick, hst, if_true]
    cases e <;> simp
  · intro k hk
    rw [State.thread?_congr hT, State.thread?_mapThreads]
    have : m.thread? ⟨u.ctx, u.grp, k⟩ = ((f u.group).rejoinAll s.cycle).threads.find? k := by
      rw [State.thread?_eq, hmg, if_pos ⟨rfl, rfl⟩]
      simp only [Option.bind_some, SMap.find?_mapVals, hk, if_false]
      cases ((f u.group).rejoinAll s.cycle).threads.find? k <;> rfl
    rw [this]
    cases ((f u.group).rejoinAll s.cycle).threads.find? k <;> simp [hk]

/-- The running threads of a ready issue set, as its group holds them. -/
theorem UniReady.running {s : State} {i : Instr} {gm : Bool} {gs : List Nat} {u : UniCtx} (h : UniReady s i gm gs u) :
    ∀ q ∈ u.ts, ∀ x, u.group.threads.find? q.idx = some x → x.st = .running := by
  intro q hq x hx
  obtain ⟨y, hy, hst, _⟩ := h.each q hq
  obtain ⟨hc, hg⟩ := h.own q hq
  rw [State.thread?_eq, hc, hg, (uniCtx_run h.ctx).2.2.2, Option.bind_some, hx] at hy
  cases hy; exact hst

/-- A word that only writes one uniform register does so. -/
theorem writesG_of {i : Instr} {gs : List Nat} {d : BitVec 6} {val : Group → DWord}
    (he : ∀ s, exec i s = .next (s.uniWrite i gs d.toNat val)) : WritesG i gs d val := by
  intro s u h
  refine ⟨_, he s, ?_⟩
  unfold State.uniWrite
  rw [issueUni_ready h]
  have k := meetUni_goes h (fun g => g.setG d.toNat (val u.group)) (uniTags i u (d.toNat :: gs)) h.running
  exact ⟨k.rest, k.team, k.group, k.groups, k.thread, k.others⟩

/-- A uniform-set word that sends its threads away. -/
theorem meetUni_jump {s : State} {i : Instr} {gm : Bool} {gs : List Nat} {u : UniCtx} (h : UniReady s i gm gs u) (ts : List RcTag)
    (away : Thread → Thread) : UniParts s (((s.useLines u.core ts).eachThread u.ts away).dropRun) u away := by
  obtain ⟨hrun, hts, hteam, hgroup⟩ := uniCtx_run h.ctx
  have hcur : s.cur = some (u.core, u.run.rid) := by
    unfold State.run? at hrun
    cases hc : s.cur with
    | none => simp [hc] at hrun
    | some p =>
      obtain ⟨c, rid⟩ := p
      simp only [hc] at hrun
      split at hrun
      · rename_i r hr
        have := List.find?_some hr
        simp only [Option.some.injEq, Prod.mk.injEq, beq_iff_eq] at hrun this
        rw [← hrun.1, ← hrun.2, this]
      · simp at hrun
  have hcore : ((((s.useLines u.core ts).eachThread u.ts away).dropRun).core u.core) =
      { (s.useLines u.core ts).core u.core with runs := (s.core u.core).runs.filter fun r => r.rid != u.run.rid } := by
    unfold State.dropRun
    have : ((s.useLines u.core ts).eachThread u.ts away).cur = some (u.core, u.run.rid) := hcur
    rw [this]
    simp only [State.core_modCore_self]
    congr 1
    rw [State.core_congr (t := (s.useLines u.core ts).eachThread u.ts away) (s := s.useLines u.core ts) rfl, State.useLines,
      State.core_modCore_self]
  refine ⟨((s.coresOnly_useLines _ _).trans (State.coresOnly_eachThread _ _ _)).trans (State.coresOnly_dropRun _), ?_, ?_, ?_, ?_, ?_, ?_⟩
  · intro c x hx
    rw [State.team?_congr (State.dropRun_teams _), State.eachThread, State.team?_mapThreads]
    have hx : (s.useLines u.core ts).team? c = some x := hx
    rw [hx]
    exact ⟨_, rfl, rfl⟩
  · intro c g x hx
    rw [State.group?_congr (State.dropRun_teams _), State.eachThread, State.group?_mapThreads]
    have hx : (s.useLines u.core ts).group? c g = some x := hx
    rw [hx]
    exact ⟨_, rfl, rfl⟩
  · intro q hq x hx
    rw [State.thread?_congr (State.dropRun_teams _), State.thread?_eachThread, if_pos hq]
    have hx : (s.useLines u.core ts).thread? q = some x := hx
    rw [hx]; rfl
  · intro q hq
    rw [State.thread?_congr (State.dropRun_teams _), State.thread?_eachThread, if_neg hq]
    rfl
  · rw [hcore, State.useLines, State.core_modCore_self]
  · intro k
    rw [hcore]
    exact mem_useLines s u.core ts k

end Sys2Proof.Machine
end

