-- ==== Sys2Proof/Tests/Slice0.lean ====
section
/-! SUPPORT. Tests: ill-formed words that the checks of `WellFormed` refuse, words of the spec's encodings and what they decode to, single
steps on small states, and for each statement states that meet its hypotheses. Expected results come from the spec's worked examples and
tables, or by hand from its rules. -/

namespace Sys2Proof.Tests

open Sys2Proof.Machine

set_option Elab.async false

/-! ## Small states -/

/-- Sixteen threads of one group run the word `i` on core 0. -/
def ready (i : Instr) : State := { State.reset.placed (encode i) with cur := some (0, 1) }
/-- Two of them run it. -/
def few (i : Instr) : State := (ready i).modCore 0 fun k => { k with runs := k.runs.map fun r => { r with set := [⟨1, 0, 2⟩, ⟨1, 0, 3⟩] } }
/-- The run of it. -/
def runOf (s : State) : Run := match s.run? with
  | some (_, r) => r
  | none => ⟨0, false, 0, [], [], 0, 0, none⟩
/-- Thread 3 of the group. -/
def q3 : ThreadRef := ⟨1, 0, 3⟩
/-- A line of thread 3's private segment in the lane store, at byte 0 of the segment. -/
def lane0 : LaneLine := ⟨3, q3, 0, 0, BitVec.ofNat 512 0x11223344556677, BitVec.allOnes 64⟩
/-- Thread 3 alone runs the word, with a handler and a lane-store line for its stack; `fx`, `fg` and `ft` change thread, group and team. -/
def alone (i : Instr) (fx : Thread → Thread := id) (fg : Group → Group := id) (ft : Team → Team := id) : State :=
  let s := ready i
  let s := s.modCore 0 fun k => { k with runs := k.runs.map (fun r => { r with set := [q3] }), lanes := [lane0] }
  let s := s.modTeam 1 fun t => ft { t with tvec := 0x20000 }
  let s := s.modGroup 1 0 fg
  s.modThread q3 fx
/-- Thread 3's record, group and team in a state. -/
def thr (s : State) : Thread := (s.thread? q3).getD {}
/-- Its group. -/
def grp (s : State) : Group := (s.group? 1 0).getD {}
/-- Its team. -/
def tm (s : State) : Team := (s.team? 1).getD {}
/-- The state that an outcome answers. -/
def after (o : Host.Outcome State Fault Refusal) : State := match o with
  | .next t => t
  | _ => State.reset
/-- The outcome is a next state. -/
def isNext (o : Host.Outcome State Fault Refusal) : Bool := match o with
  | .next _ => true
  | _ => false

/-! ## Ready words -/

/-- A lane-set word with what it reads: its modifier, operands, uniform operands, and whether it is a global memory word. -/
structure Ask where
  i : Instr
  m : Mod
  vs : List VOp
  gs : List Nat := []
  gm : Bool := false
/-- The hypotheses of `LaneReady`, evaluated. -/
def laneOk (s : State) (a : Ask) : Bool :=
  a.i.wf && (runOf s).set.all fun q => match s.team? q.ctx, s.group? q.ctx q.grp, s.thread? q with
    | some t, some g, some x => decide (x.st = .running) && (a.vs.all fun o => decide (o.need ≤ (t.role g).vregs)) &&
        (!takesPart a.m x || a.vs.all fun o => !o.crooked (runOf s).jo) && decide (x.blockedBy (a.vs.flatMap VOp.regs) a.gs a.gm = none) &&
        (rcTags q (a.vs.flatMap VOp.regs) a.gs).all fun k => (s.core 0).rc.contains k
    | _, _, _ => false
theorem laneReady_of {s : State} {a : Ask} (hr : s.run? = some (0, runOf s)) (h : laneOk s a = true) :
    LaneReady s a.i a.m a.vs a.gs 0 (runOf s) a.gm := by
  simp only [laneOk, Bool.and_eq_true, List.all_eq_true] at h
  refine ⟨hr, h.1, fun q hq => ?_⟩
  have := h.2 q hq
  split at this
  · rename_i t g x ht hg hx
    simp only [Bool.and_eq_true, decide_eq_true_eq, List.all_eq_true, Bool.or_eq_true, Bool.not_eq_true',
      List.contains_iff_mem] at this
    exact ⟨t, g, x, ht, hg, hx, this.1.1.1.1, this.1.1.1.2, fun hp o ho => by
      rcases this.1.1.2 with h | h
      · simp [hp] at h
      · exact h o ho, this.1.2, fun k hk => this.2 k hk⟩
  · cases this
/-- Every word of a list is ready in some state. -/
def Readies (l : List Ask) : Prop := ∀ a ∈ l, ∃ s c r, LaneReady s a.i a.m a.vs a.gs c r a.gm
theorem allReady {l : List Ask} (h : (l.all fun a => (decide ((few a.i).run? = some (0, runOf (few a.i)))) && laneOk (few a.i) a) = true) :
    Readies l := by
  intro a ha
  have := List.all_eq_true.1 h a ha
  simp only [Bool.and_eq_true, decide_eq_true_eq] at this
  exact ⟨_, _, _, laneReady_of this.1 this.2⟩

/-- The hypotheses of `UniReady`, evaluated. -/
def uniOk (s : State) (i : Instr) (gs : List Nat) (gm : Bool := false) : Bool := match s.uniCtx with
  | some u => (i.wf && (uniTags i u gs).all fun k => (s.core u.core).rc.contains k) &&
      u.ts.all fun q => decide (q.ctx = u.ctx ∧ q.grp = u.grp) && match s.thread? q with
    | some x => decide (x.st = .running) && decide (x.blockedBy [] gs gm = none)
    | none => false
  | none => false
theorem uniReady_of {s : State} {i : Instr} {gs : List Nat} {gm : Bool} (h : uniOk s i gs gm = true) : ∃ u, UniReady s i gm gs u := by
  unfold uniOk at h
  split at h
  · rename_i u hu
    simp only [Bool.and_eq_true, List.all_eq_true, decide_eq_true_eq, List.contains_iff_mem] at h
    refine ⟨u, hu, h.1.1, fun q hq => (h.2 q hq).1, fun q hq => ?_, h.1.2⟩
    have := (h.2 q hq).2
    split at this
    · rename_i x hx
      simp only [Bool.and_eq_true, decide_eq_true_eq] at this
      exact ⟨x, hx, this⟩
    · cases this
  · cases h
/-- Every uniform-set word of a list, with the uniform registers it names, is ready in some state. -/
def UniReadies (l : List (Instr × List Nat)) : Prop := ∀ a ∈ l, ∃ s u, UniReady s a.1 false a.2 u
theorem allUni {l : List (Instr × List Nat)} (h : (l.all fun a => uniOk (few a.1) a.1 a.2) = true) :
    UniReadies l := fun a ha => ⟨_, uniReady_of (List.all_eq_true.1 h a ha)⟩

/-- Thread 3 of `alone` can enter its handler. -/
def trapOk (s : State) : Bool :=
  decide ((tm s).tvec ≠ 0) && !(thr s).handler && decide ((thr s).top + 8 ≤ ((tm s).role (grp s)).p64) && decide ((thr s).top % 8 = 0) &&
  (s.core (grp s).core).lanes.any (fun y => decide (y.owner = q3 ∧ y.line = (thr s).top / 64 ∧ y.lane = (grp s).lane 3)) &&
  decide (((s.core (grp s).core).lanes.filter fun y => y.lane == (grp s).lane 3 && y.line % 16 == (thr s).top / 64 % 16).length ≤ 4) &&
  (s.team? 1).isSome && (s.group? 1 0).isSome && (s.thread? q3).isSome
theorem canTrap_of {s : State} (h : trapOk s = true) : CanTrap s q3 (tm s) (grp s) (thr s) := by
  simp only [trapOk, Bool.and_eq_true, decide_eq_true_eq, List.any_eq_true, Bool.not_eq_true', Option.isSome_iff_exists] at h
  obtain ⟨⟨⟨⟨⟨⟨⟨⟨h1, h2⟩, h3⟩, h4⟩, h5⟩, h6⟩, ⟨t, ht⟩⟩, ⟨g, hg⟩⟩, ⟨x, hx⟩⟩ := h
  exact ⟨by simp [tm, q3, ht], by simp [grp, q3, hg], by simp [thr, hx], h1, h2, h3, h4, h5, h6⟩

/-! ## Ill-formed words -/

/-- A prefix with the fields given, and B = 0. -/
def pre (pm : BitVec 7) (z : Bool) (rm : BitVec 3) (vc : BitVec 7) (x : BitVec 5) : Mod := ⟨false, some ⟨pm, false, z, rm, vc, x⟩⟩
/-- A plain prefix. -/
def noPre : Mod := pre 127 false 0 0 0

/-- R189, R190: a mask of p96, a predicate field 96 to 126, a register not aligned for its pair or quadruple, an odd uniform register. -/
theorem wf_refuses_fields :
    ([.fadd (pre 96 false 0 0 0) ⟨0, 8, 16, 24, false⟩, .fadd bareMod ⟨3, 9, 16, 24, false⟩, .fadd bareMod ⟨3, 8, 17, 24, false⟩,
      .fadd bareMod ⟨3, 8, 16, 25, false⟩, .fclass bareMod ⟨3, 8, 17, false⟩, .fcmpeq bareMod ⟨96, 16, 24, false⟩,
      .icmpeq (pre 127 false 0 0 8) ⟨5, 17, 24, false⟩, .pand noPre ⟨126, 1, 2⟩, .pand noPre ⟨1, 96, 2⟩, .pand noPre ⟨1, 2, 96⟩,
      .pnot noPre ⟨1, 96⟩, .pset noPre 96 true, .pmovV noPre ⟨8, 100, false⟩, .pmovP noPre ⟨100, 8, false⟩, .br false 96 0, .brn false 126 0,
      .bri false 9 false, .enrol false 5, .rejoin false 5, .ld noPre ⟨0, 5, 7, 8, 0⟩, .ld noPre ⟨0, 6, 6, 8, 0⟩, .st noPre ⟨5, 7, 8, 0⟩,
      .atom noPre ⟨10, 5, 8⟩, .atom noPre ⟨12, 6, 8⟩, .sld noPre ⟨5, 7, 8, 0⟩, .sst noPre ⟨6, 6, 8, 0⟩, .satom noPre ⟨11, 5, 8⟩,
      .bmopStash false ⟨1, 2, 5⟩, .tld false ⟨0, 5⟩, .tst false ⟨0, 5⟩] : List Instr).all (fun i => !i.wf) = true := by decide +kernel

/-- R190, R191: fields of the prefix that the word's major does not accept. -/
theorem wf_refuses_prefix :
    ([.fadd (pre 127 false 6 0 0) ⟨0, 8, 16, 24, false⟩, .fadd (pre 127 false 0 1 0) ⟨0, 8, 16, 24, false⟩,
      .fadd (pre 127 false 0 0 1) ⟨0, 8, 16, 24, false⟩, .fma (pre 127 false 0 25 0) ⟨3, 8, 16, 24, false⟩,
      .fcmpeq (pre 127 false 1 0 0) ⟨5, 16, 24, false⟩, .fcmpeq (pre 127 false 0 0 4) ⟨5, 16, 24, false⟩,
      .fcvt (pre 127 false 0 0 8) ⟨8, 16, 1, false⟩, .fcvt (pre 127 false 7 0 0) ⟨8, 16, 1, false⟩,
      .sel bareMod ⟨8, 16, 24, false⟩, .sel (pre 127 false 0 96 0) ⟨8, 16, 24, false⟩, .sel (pre 127 false 1 5 0) ⟨8, 16, 24, false⟩,
      .iadd (pre 127 false 0 0 12) ⟨8, 16, 24, false⟩, .iadd (pre 127 false 1 0 0) ⟨8, 16, 24, false⟩,
      .iadd (pre 127 false 0 0 2) ⟨8, 16, 24, false⟩, .iadd (pre 127 false 0 3 0) ⟨8, 16, 24, false⟩,
      .imulhs (pre 127 false 0 0 16) ⟨8, 16, 24, false⟩, .land (pre 127 false 0 0 4) ⟨8, 16, 24, false⟩,
      .iadd (pre 127 false 0 0 8) ⟨9, 16, 24, false⟩, .imad (pre 127 false 0 25 8) ⟨8, 16, 24, false⟩, .movi (pre 127 false 0 0 1) ⟨8, 1⟩,
      .movi (pre 127 false 0 1 0) ⟨8, 1⟩, .ld (pre 127 false 0 0 0x10) ⟨0, 4, 8, 8, 0⟩, .ld (pre 127 false 0 0 6) ⟨0, 4, 8, 8, 0⟩,
      .ld (pre 127 false 1 0 0) ⟨0, 4, 8, 8, 0⟩, .st (pre 127 false 0 0 8) ⟨4, 8, 8, 0⟩, .st (pre 5 true 0 0 0) ⟨4, 8, 8, 0⟩,
      .sst (pre 5 true 0 0 0) ⟨4, 8, 8, 0⟩, .accwr (pre 5 true 0 0 0) ⟨0, 8, 0⟩, .frcp (pre 5 true 0 0 0) 8,
      .frcp (pre 127 false 0 1 0) 8] : List Instr).all (fun i => !i.wf) = true := by decide +kernel

/-- Sub-codes and register numbers that the entries call illegal: R217, R273, R285 to R287, R301, R302, R317, R337, R341, R343, R344, R351,
R352. -/
theorem wf_refuses_codes :
    ([.fcvt bareMod ⟨8, 16, 0, false⟩, .fcvt bareMod ⟨8, 16, 0x0B, false⟩, .fcvt bareMod ⟨8, 16, 0x1C, false⟩,
      .fcvt bareMod ⟨8, 17, 0x06, false⟩, .fcvt bareMod ⟨9, 16, 0x05, false⟩, .qnt bareMod ⟨3, 8, 16, 4⟩,
      .ld noPre ⟨0, 7, 8, 8, 0⟩, .st noPre ⟨1, 8, 8, 0⟩, .st noPre ⟨3, 8, 8, 0⟩, .sst noPre ⟨7, 8, 8, 0⟩, .atom noPre ⟨13, 8, 8⟩,
      .satom noPre ⟨15, 8, 8⟩, .gatom false ⟨1, 2, 3, 13, 0⟩, .fence false 6 2, .rank false ⟨4, 5, 6⟩,
      .mma false ⟨0, 0, 1, 2⟩, .mma false ⟨0, 0, 0, 3⟩, .rdsr false 1 19, .rdsr false 1 31, .rdsr false 1 48, .wrsr false 1 0,
      .wrsr false 1 12, .wrsr false 1 32, .setjo false 8, .gtrap false 16, .qpush false ⟨0, 8, 9, false⟩, .qpush false ⟨5, 8, 9, false⟩,
      .qpush false ⟨1, 8, 9, true⟩, .qpop false 1 0, .qpop false 1 5] : List Instr).all (fun i => !i.wf) = true := by decide +kernel

/-! ## Decoding: one word of each row of the table, its fields set to distinct values -/

/-- Words with the instructions they are to decode to. -/
def decodes (l : List (Word × Instr)) : Bool := l.all fun p => match decodeWords [p.1] with
  | .ok (i, []) => decide (i = p.2)
  | _ => false

/-- R188 to R195: from FADD to IMULHS. -/
theorem decode_float_words : decodes
    [(0x010B2738, .fadd ⟨false, none⟩ ⟨0, 22, 39, 28, false⟩), (0x42986437, .fsub ⟨true, none⟩ ⟨2, 48, 100, 27, true⟩),
     (0x0365A135, .fmul ⟨false, none⟩ ⟨1, 75, 33, 26, true⟩), (0x44F2DD33, .fma ⟨true, none⟩ ⟨3, 101, 93, 25, true⟩),
     (0x05401A31, .fnma ⟨false, none⟩ ⟨1, 0, 26, 24, true⟩), (0x460D572E, .fmin ⟨true, none⟩ ⟨0, 26, 87, 23, false⟩),
     (0x079A142C, .fmax ⟨false, none⟩ ⟨2, 52, 20, 22, false⟩), (0x4867D001, .fmov ⟨true, none⟩ ⟨1, 79, 80, true⟩),
     (0x08F48D02, .fabs ⟨false, none⟩ ⟨3, 105, 13, false⟩), (0x48824A05, .fneg ⟨true, none⟩ ⟨2, 4, 74, true⟩),
     (0x080F0606, .frint ⟨false, none⟩ ⟨0, 30, 6, false⟩), (0x489CC309, .ffloor ⟨true, none⟩ ⟨2, 57, 67, true⟩),
     (0x0869800A, .fceil ⟨false, none⟩ ⟨1, 83, 0, false⟩), (0x48F6BD0C, .ftrunc ⟨true, none⟩ ⟨3, 109, 61, false⟩),
     (0x0884790F, .fclass ⟨false, none⟩ ⟨2, 8, 121, true⟩), (0x48113610, .fsat ⟨true, none⟩ ⟨0, 34, 54, false⟩),
     (0x090BBDE7, .fcmpeq ⟨false, none⟩ ⟨23, 61, 115, true⟩), (0x4972D75E, .fcmplt ⟨true, none⟩ ⟨101, 87, 47, false⟩),
     (0x0999F1D9, .fcmple ⟨false, none⟩ ⟨51, 113, 108, true⟩), (0x49C10C52, .fcmpun ⟨true, none⟩ ⟨2, 12, 41, false⟩),
     (0x0A136624, .faddG ⟨false, none⟩ ⟨0, 38, 102, 9⟩), (0x4AE0A221, .fmulG ⟨true, none⟩ ⟨3, 65, 34, 8⟩),
     (0x0A6DDF1E, .fmaG ⟨false, none⟩ ⟨1, 91, 95, 7⟩), (0x4A3A9C1B, .fsubG ⟨true, none⟩ ⟨0, 117, 28, 6⟩),
     (0x0B0510B1, .fcvt ⟨false, none⟩ ⟨10, 16, 88, true⟩), (0x4C151510, .qnt ⟨true, none⟩ ⟨0, 42, 21, 4⟩),
     (0x0D13C5A5, .sel ⟨false, none⟩ ⟨39, 69, 82, true⟩), (0x503ADF1C, .iadd ⟨true, none⟩ ⟨117, 95, 14, false⟩),
     (0x10627996, .isub ⟨false, none⟩ ⟨68, 121, 75, false⟩), (0x50891411, .imul ⟨true, none⟩ ⟨18, 20, 8, true⟩),
     (0x10F02E8A, .imad ⟨false, none⟩ ⟨96, 46, 69, false⟩),
     (0x5117C903, .imulhs ⟨true, none⟩ ⟨47, 73, 1, true⟩)] = true := by decide +kernel

/-- R188 to R195: from IMULHU to IADD_G. -/
theorem decode_jet_and_integer_words : decodes
    [(0x117EE37C, .imulhu ⟨false, none⟩ ⟨125, 99, 62, false⟩), (0x51A67EF7, .iabsd ⟨true, none⟩ ⟨76, 126, 123, true⟩),
     (0x120D186E, .land ⟨false, none⟩ ⟨26, 24, 55, false⟩), (0x5274B2E9, .lor ⟨true, none⟩ ⟨105, 50, 116, true⟩),
     (0x129BCD62, .lxor ⟨false, none⟩ ⟨55, 77, 49, false⟩), (0x52C2E7DD, .landn ⟨true, none⟩ ⟨5, 103, 110, true⟩),
     (0x132A0254, .shl ⟨false, none⟩ ⟨84, 2, 42, false⟩), (0x53511CCF, .shr ⟨true, none⟩ ⟨34, 28, 103, true⟩),
     (0x13B8B648, .sar ⟨false, none⟩ ⟨113, 54, 36, false⟩), (0x53DFD1C1, .rotl ⟨true, none⟩ ⟨63, 81, 96, true⟩),
     (0x14076B3A, .imins ⟨false, none⟩ ⟨14, 107, 29, false⟩), (0x546E06B4, .imaxs ⟨true, none⟩ ⟨92, 6, 90, false⟩),
     (0x1495202D, .iminu ⟨false, none⟩ ⟨42, 32, 22, true⟩), (0x54FCBAA6, .imaxu ⟨true, none⟩ ⟨121, 58, 83, false⟩),
     (0x1523D500, .imov ⟨false, none⟩ ⟨71, 85, false⟩), (0x550B6F03, .lnot ⟨true, none⟩ ⟨22, 111, true⟩),
     (0x15320A05, .ineg ⟨false, none⟩ ⟨100, 10, true⟩), (0x5519A406, .iabs ⟨true, none⟩ ⟨51, 36, false⟩),
     (0x1500BF09, .clz ⟨false, none⟩ ⟨1, 63, true⟩), (0x5527D90B, .popc ⟨true, none⟩ ⟨79, 89, true⟩),
     (0x150F730C, .brev ⟨false, none⟩ ⟨30, 115, false⟩), (0x55360E0F, .sext8 ⟨true, none⟩ ⟨108, 14, true⟩),
     (0x151DA810, .sext16 ⟨false, none⟩ ⟨59, 40, false⟩), (0x5504C312, .zext8 ⟨true, none⟩ ⟨9, 67, false⟩),
     (0x152C5D15, .zext16 ⟨false, none⟩ ⟨88, 93, true⟩), (0x56137758, .icmpeq ⟨true, none⟩ ⟨38, 119, 44, false⟩),
     (0x167A12D0, .icmpne ⟨false, none⟩ ⟨116, 18, 104, false⟩), (0x56A1AC4B, .icmplts ⟨true, none⟩ ⟨67, 44, 37, true⟩),
     (0x16C8C7C4, .icmpltu ⟨false, none⟩ ⟨17, 71, 98, false⟩), (0x5730613F, .icmples ⟨true, none⟩ ⟨96, 97, 31, true⟩),
     (0x17577BB6, .icmpleu ⟨false, none⟩ ⟨46, 123, 91, false⟩),
     (0x583E9660, .iaddG ⟨true, none⟩ ⟨125, 22, 24⟩)] = true := by decide +kernel

/-- R188 to R195: from ISUB_G to LD. -/
theorem decode_integer_words : decodes
    [(0x1825B055, .isubG ⟨false, none⟩ ⟨75, 48, 21⟩), (0x580CCB46, .imulG ⟨true, none⟩ ⟨25, 75, 17⟩),
     (0x1834653B, .imadG ⟨false, none⟩ ⟨104, 101, 14⟩), (0x585B7F2C, .landG ⟨true, none⟩ ⟨54, 127, 11⟩),
     (0x18429A1D, .lorG ⟨false, none⟩ ⟨5, 26, 7⟩), (0x5869B412, .lxorG ⟨true, none⟩ ⟨83, 52, 4⟩),
     (0x18514F07, .shlG ⟨false, none⟩ ⟨34, 79, 1⟩), (0x58B869F8, .shrG ⟨true, none⟩ ⟨112, 105, 62⟩),
     (0x189F04E9, .sarG ⟨false, none⟩ ⟨62, 4, 58⟩), (0x58869EDE, .iminsG ⟨true, none⟩ ⟨13, 30, 55⟩),
     (0x18ADB8D3, .imaxsG ⟨false, none⟩ ⟨91, 56, 52⟩), (0x58D553C0, .iminuG ⟨true, none⟩ ⟨42, 83, 48⟩),
     (0x18FC6DB5, .imaxuG ⟨false, none⟩ ⟨120, 109, 45⟩), (0x598EC488, .movi ⟨true, none⟩ ⟨71, 50312⟩),
     (0x1A2A6722, .movhi ⟨false, none⟩ ⟨21, 26402⟩), (0x5BC6F318, .pand ⟨true, none⟩ ⟨99, 60, 99⟩),
     (0x1B655D01, .por ⟨false, none⟩ ⟨50, 87, 32⟩), (0x5B01C6EA, .pxor ⟨true, none⟩ ⟨0, 113, 93⟩),
     (0x1B9E30CB, .pandn ⟨false, none⟩ ⟨79, 12, 25⟩), (0x5B3A9804, .pnot ⟨true, none⟩ ⟨29, 38⟩),
     (0x1BD70005, .pcopy ⟨false, none⟩ ⟨107, 64⟩), (0x5B740406, .pset ⟨true, none⟩ 58 true),
     (0x1C047500, .pmovV ⟨false, none⟩ ⟨8, 117, false⟩), (0x5C2B9003, .pmovP ⟨true, none⟩ ⟨87, 16, true⟩),
     (0x1D12AA0C, .jseed ⟨false, none⟩ ⟨37, 42, 6, false⟩), (0x5E3A4441, .jget ⟨true, none⟩ ⟨116, 68, 2, true⟩),
     (0x1E215FE2, .jset ⟨false, none⟩ ⟨66, 95, 7, false⟩), (0x5E087985, .jder ⟨true, none⟩ ⟨16, 121, 4, true⟩),
     (0x1E2F9406, .jdiff ⟨false, none⟩ ⟨95, 20, false⟩), (0x5E16AE09, .jint ⟨true, none⟩ ⟨45, 46, true⟩),
     (0x1E3E494A, .jtrunc ⟨false, none⟩ ⟨124, 73, 2, false⟩),
     (0x60A6BC35, .ld ⟨true, none⟩ ⟨10, 3, 47, 3, 5⟩)] = true := by decide +kernel

/-- R188 to R195: from ST to SCANADD_I32. -/
theorem decode_memory_and_control_words : decodes
    [(0x213F6BC2, .st ⟨false, none⟩ ⟨1, 125, 43, 194⟩), (0x62731400, .atom ⟨true, none⟩ ⟨7, 24, 40⟩),
     (0x23ACB2C0, .sld ⟨false, none⟩ ⟨5, 50, 101, 64⟩), (0x649350BF, .sst ⟨true, none⟩ ⟨4, 77, 33, 63⟩),
     (0x252CF780, .satom ⟨false, none⟩ ⟨2, 103, 94⟩), (0x68210301, .br true 33 769), (0x28EFA59C, .brn false 111 42396),
     (0x6976C9BE, .call true 7784894), (0x2A38900C, .jmp false 3706892), (0x6B000000, .ret true), (0x2B02A401, .bri false 41 true),
     (0x6B040370, .enrol true 55), (0x2B060060, .rejoin false 6), (0x6B080140, .barg true 20), (0x2B0A0000, .exit false),
     (0x6B0C0001, .trap true 1), (0x2B0E0000, .yield false), (0x6B113800, .lpop true 78), (0x2B120041, .fence false 4 1),
     (0x6B14000B, .sleep true 11), (0x2B160000, .nop false), (0x6C010A26, .redaddF32 true ⟨8, 40, 38⟩),
     (0x2C1AD0A3, .redaddI32 false ⟨86, 66, 35⟩), (0x6C249760, .redminF32 true ⟨36, 93, 32⟩),
     (0x2C3E7DDC, .redmaxF32 false ⟨115, 119, 28⟩), (0x6C482499, .redminS32 true ⟨65, 18, 25⟩),
     (0x2C520B16, .redmaxS32 false ⟨16, 44, 22⟩), (0x6C6BD192, .redand true ⟨94, 70, 18⟩), (0x2C75B84F, .redor false ⟨45, 97, 15⟩),
     (0x6C8F7ECC, .redxor true ⟨123, 123, 12⟩), (0x2C992588, .scanaddF32 false ⟨73, 22, 8⟩),
     (0x6CA30C05, .scanaddI32 true ⟨24, 48, 5⟩)] = true := by decide +kernel

/-- R188 to R195: from XSCANADD_I32 to GSAR. -/
theorem decode_tree_special_uniform_words : decodes
    [(0x2CBCD282, .xscanaddI32 false ⟨102, 74, 2⟩), (0x6CC6B97F, .bcast true ⟨53, 101, 63⟩), (0x2CD07FFB, .rank false ⟨3, 127, 59⟩),
     (0x6D029000, .frcp ⟨true, none⟩ 82), (0x2D050000, .frsqrt ⟨false, none⟩ 32), (0x6D0B7000, .fsqrt ⟨true, none⟩ 110),
     (0x2D0DEE90, .fdiv ⟨false, none⟩ 61 105), (0x6D105800, .fexp2 ⟨true, none⟩ 11), (0x2D16D000, .flog2 ⟨false, none⟩ 90),
     (0x6D194000, .fexp ⟨true, none⟩ 40), (0x2D1FB000, .fln ⟨false, none⟩ 118), (0x6D222800, .fsin ⟨true, none⟩ 69),
     (0x2D249800, .fcos ⟨false, none⟩ 19), (0x6D2B1000, .ftanh ⟨true, none⟩ 98), (0x2D2D8000, .fsigm ⟨false, none⟩ 48),
     (0x6D33F800, .ferf ⟨true, none⟩ 127), (0x2D366F10, .fpow ⟨false, none⟩ 77 113), (0x6E4DAD48, .mma true ⟨155, 11, 10, 4⟩),
     (0x2F3A9347, .accrd ⟨false, none⟩ ⟨234, 38, 71⟩), (0x6FCE2003, .accwr ⟨true, none⟩ ⟨312, 64, 3⟩),
     (0x811DB000, .gadd false ⟨7, 27, 0⟩), (0xC1575F41, .gsub true ⟨21, 53, 61⟩), (0x81910E42, .gmul false ⟨36, 16, 57⟩),
     (0xC1CAAD83, .gmulhs true ⟨50, 42, 54⟩), (0x81004CC4, .gmulhu false ⟨0, 4, 51⟩), (0xC13DFC05, .gand true ⟨15, 31, 48⟩),
     (0x81779B06, .gor false ⟨29, 57, 44⟩), (0xC1B14A47, .gxor true ⟨44, 20, 41⟩), (0x81EAE988, .gandn false ⟨58, 46, 38⟩),
     (0xC1248889, .gshl true ⟨9, 8, 34⟩), (0x815E37CA, .gshr false ⟨23, 35, 31⟩),
     (0xC197D70B, .gsar true ⟨37, 61, 28⟩)] = true := by decide +kernel

/-- R188 to R195: from GROTL to GBRNZ. -/
theorem decode_uniform_words : decodes
    [(0x81D1860C, .grotl false ⟨52, 24, 24⟩), (0xC10B254D, .gmins true ⟨2, 50, 21⟩), (0x8144C48E, .gmaxs false ⟨17, 12, 18⟩),
     (0xC17E73CF, .gminu true ⟨31, 39, 15⟩), (0x81B812D0, .gmaxu false ⟨46, 1, 11⟩), (0xC1F1C011, .gpopc true ⟨60, 28⟩),
     (0x812B6012, .gclz false ⟨10, 54⟩), (0xC1650013, .gctz true ⟨25, 16⟩), (0x819EB014, .gbrev false ⟨39, 43⟩),
     (0xC1D85015, .gnot true ⟨54, 5⟩), (0x81120016, .gneg false ⟨4, 32⟩), (0xC14FA017, .gmov true ⟨19, 58⟩),
     (0x82855EF1, .gaddi false ⟨33, 21, 3825⟩), (0xC3BEFCAE, .gandi true ⟨47, 47, 3246⟩), (0x84F89A6A, .gori false ⟨62, 9, 2666⟩),
     (0xC5324827, .gxori true ⟨12, 36, 2087⟩), (0x866FE037, .gshi false ⟨27, 62, 0, 55⟩), (0xC7A5F3A1, .gmovk true ⟨41, 1, 62369⟩),
     (0x88E3715D, .gmovz false ⟨56, 3, 29021⟩), (0xC918D680, .gcmpeq true ⟨6, 13, 26⟩), (0x895285C1, .gcmpne false ⟨20, 40, 23⟩),
     (0xC98C24C2, .gcmplts true ⟨35, 2, 19⟩), (0x89C5D403, .gcmpltu false ⟨49, 29, 16⟩), (0xC9037344, .gcmples true ⟨0, 55, 13⟩),
     (0x89391245, .gcmpleu false ⟨14, 17, 9⟩), (0xCAC06BCB, .gld true ⟨12, 0, 6, 47, 11⟩), (0x8B0C60EE, .gst false ⟨3, 6, 3, 46⟩),
     (0xCCE61037, .gatom true ⟨57, 33, 0, 13, 3⟩), (0x8D03BF2C, .gsld false ⟨0, 59, 60, 44⟩),
     (0xCE096E6B, .gsst true ⟨2, 22, 57, 43⟩), (0x90948AB0, .gbrz false ⟨37, 35504⟩),
     (0xD1CF2D4A, .gbrnz true ⟨51, 208202⟩)] = true := by decide +kernel

/-- R188 to R195: from GJMP to LAUNCH. -/
theorem decode_system_and_queue_words : decodes
    [(0x9254BB01, .gjmp false 5552897), (0xD4400FC0, .rdsr true 16 63), (0x9401E681, .wrsr false 30 26), (0xD4000B42, .setjo true 45),
     (0x9403B003, .jxfclr false 59), (0xD4000284, .gtrap true 10), (0x94000005, .gexit false), (0xD4000006, .gyield true),
     (0x956E0000, .waitn false 1 184), (0xD60D2440, .bart true ⟨3, 18, 17, false⟩), (0x974AD381, .bars false ⟨18, 45, 14, true⟩),
     (0xD80072C0, .qpush true ⟨0, 7, 11, false⟩), (0x99BE2000, .qpop false 47 34), (0xDAF7C100, .give true ⟨61, 60, 4⟩),
     (0x9B2D6040, .bmopAccept false ⟨11, 22, 1⟩), (0xDB6B1001, .bmopBwait true ⟨26, 49⟩),
     (0x9BA0B002, .bmopRelease false ⟨40, 11⟩), (0xDBDE6DC3, .bmopStash true ⟨55, 38, 55⟩),
     (0x9B140D04, .bmopPhase false ⟨5, 0, 52⟩), (0xDB51B005, .bmopQuery true ⟨20, 27⟩),
     (0x9C8B5B40, .syncwInit false ⟨34, 53, 45⟩), (0xDCC0FA81, .syncwWait true ⟨48, 15, 42⟩),
     (0x9CFEA9C2, .syncwArrive false ⟨63, 42, 39⟩), (0xDDD04000, .tld true ⟨13, 4⟩), (0x9EC1F000, .tst false ⟨12, 31⟩),
     (0xDFAB9740, .launch true ⟨42, 57, 29⟩)] = true := by decide +kernel

/-! ## Words that are ready: for each statement about a lane-set word, a state that meets its hypotheses -/

/-- Operands of the tests: F16, no hold, registers at the ends of the role's 128. -/
def lr : LR := ⟨1, 0, 127, 64, false⟩
def lu : LU := ⟨3, 126, 0, false⟩
def lcf : LC := ⟨95, 0, 127, false⟩
def r3 : R3 := ⟨127, 0, 64, true⟩
def r2 : R2 := ⟨127, 0, false⟩
def lg : LG := ⟨127, 0, 63⟩
/-- A prefix whose mask is p95, so that no thread takes part, with Z = 1. -/
def off : Mod := pre 95 true 4 0 0

theorem witness_FloatArithmeticResult : Readies (
    ([.fadd bareMod lr, .fsub bareMod lr, .fmul bareMod lr, .fmin bareMod lr, .fmax bareMod lr] : List Instr).map (fun i =>
      ⟨i, bareMod, [fOp 1 0 0, fOp 1 0 127, fOp 1 0 64], [], false⟩) ++
    [⟨.fma (pre 127 false 4 9 0) lr, pre 127 false 4 9 0, [fOp 1 0 0, fOp 1 0 127, fOp 1 0 64, fOp 1 0 9], [], false⟩,
     ⟨.fnma bareMod lr, bareMod, [fOp 1 0 0, fOp 1 0 127, fOp 1 0 64, fOp 1 0 0], [], false⟩,
     ⟨.faddG bareMod ⟨0, 8, 16, 63⟩, bareMod, [fOp 0 0 8, fOp 0 0 16, fOp 0 0 8], [63], false⟩,
     ⟨.fsubG off ⟨0, 8, 16, 63⟩, off, [fOp 0 0 8, fOp 0 0 16, fOp 0 0 8], [63], false⟩,
     ⟨.fmulG bareMod ⟨3, 8, 16, 0⟩, bareMod, [fOp 3 0 8, fOp 3 0 16, fOp 3 0 8], [0], false⟩,
     ⟨.fmaG (pre 127 false 0 20 0) ⟨3, 8, 16, 0⟩, pre 127 false 0 20 0, [fOp 3 0 8, fOp 3 0 16, fOp 3 0 20], [0], false⟩]) :=
  allReady (by decide +kernel)

theorem witness_FloatUnaryResult : Readies (
    ([.fmov bareMod lu, .fabs bareMod lu, .fneg bareMod lu, .frint bareMod lu, .ffloor bareMod lu, .fceil bareMod lu, .ftrunc bareMod lu,
      .fsat bareMod lu] : List Instr).map (fun i => ⟨i, bareMod, [fOp 3 0 126, fOp 3 0 0], [], false⟩) ++
    [⟨.fclass bareMod lu, bareMod, [one 126, fOp 3 0 0], [], false⟩,
     ⟨.fcvt bareMod ⟨126, 1, 5, false⟩, bareMod, [many 2 126, many 1 1], [], false⟩, ⟨.qnt off ⟨2, 8, 9, 63⟩, off, [one 8, one 9], [63], false⟩] ++
    ([.fcmpeq bareMod lcf, .fcmplt bareMod lcf, .fcmple bareMod lcf, .fcmpun bareMod lcf] : List Instr).map (fun i =>
      ⟨i, bareMod, [fOp 0 0 0, fOp 0 0 127], [], false⟩)) :=
  allReady (by decide +kernel)

theorem witness_IntegerArithmeticResult : Readies (
    ([.iadd bareMod r3, .isub bareMod r3, .imul bareMod r3, .imulhs bareMod r3, .imulhu bareMod r3, .iabsd bareMod r3, .land bareMod r3,
      .lor bareMod r3, .lxor bareMod r3, .landn bareMod r3, .shl bareMod r3, .shr bareMod r3, .sar bareMod r3, .rotl bareMod r3,
      .imins bareMod r3, .imaxs bareMod r3, .iminu bareMod r3, .imaxu bareMod r3] : List Instr).map (fun i =>
        ⟨i, bareMod, [iOp 0 127, iOp 0 0, iOp 0 64], [], false⟩) ++
    ([.iaddG bareMod lg, .isubG bareMod lg, .imulG bareMod lg, .landG bareMod lg, .lorG bareMod lg, .lxorG bareMod lg, .shlG bareMod lg,
      .shrG bareMod lg, .sarG bareMod lg, .iminsG bareMod lg, .imaxsG bareMod lg, .iminuG bareMod lg, .imaxuG bareMod lg] : List Instr).map
      (fun i => ⟨i, bareMod, [iOp 0 127, iOp 0 0], [63], false⟩) ++
    [⟨.imad (pre 127 false 0 126 8) ⟨0, 2, 4, false⟩, pre 127 false 0 126 8, [iOp 2 0, iOp 2 2, iOp 2 4, iOp 2 126], [], false⟩,
     ⟨.imadG bareMod lg, bareMod, [iOp 0 127, iOp 0 0, iOp 0 127], [63], false⟩]) :=
  allReady (by decide +kernel)

theorem witness_IntegerTestResult : Readies (
    ([.imov bareMod r2, .lnot bareMod r2, .ineg bareMod r2, .iabs bareMod r2, .clz bareMod r2, .popc bareMod r2, .brev bareMod r2,
      .sext8 bareMod r2, .sext16 bareMod r2, .zext8 bareMod r2, .zext16 bareMod r2] : List Instr).map (fun i =>
        ⟨i, bareMod, [iOp 0 127, iOp 0 0], [], false⟩) ++
    ([.icmpeq bareMod lcf, .icmpne bareMod lcf, .icmplts bareMod lcf, .icmpltu bareMod lcf, .icmples bareMod lcf, .icmpleu bareMod lcf] :
      List Instr).map (fun i => ⟨i, bareMod, [iOp 0 0, iOp 0 127], [], false⟩) ++
    [⟨.movi bareMod ⟨127, 0x8000⟩, bareMod, [one 127], [], false⟩, ⟨.movhi bareMod ⟨0, 1⟩, bareMod, [one 0], [], false⟩,
     ⟨.sel (pre 127 false 0 127 0) r3, pre 127 false 0 127 0, [jetOp 0 127, jetOp 0 0, jetOp 0 64], [], false⟩,
     ⟨.pmovV bareMod ⟨127, 95, false⟩, bareMod, [one 127], [], false⟩, ⟨.pmovP bareMod ⟨127, 0, false⟩, bareMod, [one 0], [], false⟩] ++
    ([.pand bareMod ⟨127, 95, 0⟩, .por bareMod ⟨0, 95, 127⟩, .pxor bareMod ⟨95, 0, 0⟩, .pandn bareMod ⟨1, 2, 3⟩, .pnot bareMod ⟨95, 127⟩,
      .pcopy bareMod ⟨0, 95⟩, .pset bareMod 127 true, .pset bareMod 0 false] : List Instr).map (fun i => ⟨i, bareMod, [], [], false⟩)) :=
  allReady (by decide +kernel)

theorem witness_JetPartsResult : Readies (
    [⟨.jseed bareMod r3, bareMod, [jetOp 0 127, one 0, one 64], [], false⟩, ⟨.jget bareMod ⟨0, 127, 7, false⟩, bareMod, [one 0, jetOp 0 127], [], false⟩,
     ⟨.jset bareMod ⟨0, 127, 0, true⟩, bareMod, [jetOp 0 0, one 127], [], false⟩, ⟨.jder bareMod ⟨0, 127, 1, false⟩, bareMod, [one 0, jetOp 0 127], [], false⟩,
     ⟨.jtrunc bareMod ⟨0, 127, 0, false⟩, bareMod, [jetOp 0 0, jetOp 0 127], [], false⟩,
     ⟨.jdiff bareMod r2, bareMod, [jetOp 0 127, jetOp 0 0], [], false⟩, ⟨.jint bareMod r2, bareMod, [jetOp 0 127, jetOp 0 0], [], false⟩]) :=
  allReady (by decide +kernel)

theorem witness_BranchResult : Readies (
    ([.br false 127 0x8000, .brn true 95 0x7FFF, .jmp true 1, .yield false, .nop false, .exit true] : List Instr).map fun i =>
      ⟨i, bareMod, [], [], false⟩) :=
  allReady (by decide +kernel)
/-- `exit` with no error entry left undelivered, and the sole group of its team. -/
theorem witness_exit : ∀ q ∈ (runOf (ready (.exit false))).set, ∀ g, (ready (.exit false)).group? q.ctx q.grp = some g → g.errs = [] := by
  decide +kernel

/-! ## Uniform-set words that are ready -/

def gr : GR := ⟨63, 0, 31⟩
theorem witness_UniformArithmeticResult : UniReadies (
    ([.gadd true gr, .gsub false gr, .gmul false gr, .gmulhs false gr, .gmulhu false gr, .gand false gr, .gor false gr, .gxor false gr,
      .gandn false gr, .gshl false gr, .gshr false gr, .gsar false gr, .grotl false gr, .gmins false gr, .gmaxs false gr, .gminu false gr,
      .gmaxu false gr] : List Instr).map (fun i => (i, [63, 0, 31])) ++
    ([.gpopc false ⟨63, 0⟩, .gclz false ⟨63, 0⟩, .gctz false ⟨63, 0⟩, .gbrev false ⟨63, 0⟩, .gnot false ⟨63, 0⟩, .gneg false ⟨63, 0⟩,
      .gmov false ⟨63, 0⟩, .gaddi false ⟨63, 0, 0x800⟩, .gandi false ⟨63, 0, 0x7FF⟩, .gori false ⟨63, 0, 1⟩, .gxori false ⟨63, 0, 0⟩,
      .gshi false ⟨63, 0, 3, 63⟩] : List Instr).map (fun i => (i, [63, 0])) ++ [(.gmovz false ⟨63, 3, 1⟩, [63]), (.gmovk true ⟨63, 0, 1⟩, [63])]) :=
  allUni (by decide +kernel)
theorem witness_UniformCompareResult : UniReadies (
    ([.gcmpeq false gr, .gcmpne false gr, .gcmplts false gr, .gcmpltu false gr, .gcmples false gr, .gcmpleu true gr] : List Instr).map
      fun i => (i, [63, 0, 31])) :=
  allUni (by decide +kernel)
theorem witness_UniformBranchResult : UniReadies (
    ([(.gbrz true ⟨63, 0x20000⟩, [63]), (.gbrnz false ⟨0, 1⟩, [0]), (.gjmp true 0x800000, []), (.gyield false, []), (.gexit true, [])] :
      List (Instr × List Nat))) :=
  allUni (by decide +kernel)

/-! ## One thread alone in its run -/

/-- A word is ready for thread 3, alone in its run. -/
def Alone (s : State) (a : Ask) : Prop :=
  LaneReady s a.i a.m a.vs a.gs 0 (runOf s) a.gm ∧ (runOf s).set = [q3] ∧ s.team? 1 = some (tm s) ∧ s.group? 1 0 = some (grp s) ∧
    s.thread? q3 = some (thr s)
/-- The same, evaluated. -/
def aloneOk (s : State) (a : Ask) : Bool :=
  decide (s.run? = some (0, runOf s)) && laneOk s a && decide ((runOf s).set = [q3]) && (s.team? 1).isSome && (s.group? 1 0).isSome &&
    (s.thread? q3).isSome
theorem alone_of {s : State} {a : Ask} (h : aloneOk s a = true) : Alone s a := by
  simp only [aloneOk, Bool.and_eq_true, decide_eq_true_eq, Option.isSome_iff_exists] at h
  obtain ⟨⟨⟨⟨⟨h1, h2⟩, h3⟩, ⟨t, ht⟩⟩, ⟨g, hg⟩⟩, ⟨x, hx⟩⟩ := h
  exact ⟨laneReady_of h1 h2, h3, by simp [tm, ht], by simp [grp, hg], by simp [thr, hx]⟩
/-- Every word of a list is ready for a thread alone, in the state that `f` gives it. -/
def Alones (f : Instr → State) (l : List Ask) : Prop := ∀ a ∈ l, Alone (f a.i) a
theorem allAlone {f : Instr → State} {l : List Ask} (h : (l.all fun a => aloneOk (f a.i) a) = true) : Alones f l :=
  fun a ha => alone_of (List.all_eq_true.1 h a ha)

theorem witness_TrapResult : ∃ s, Alone s ⟨.trap true 255, bareMod, [], [], false⟩ ∧ CanTrap s q3 (tm s) (grp s) (thr s) :=
  ⟨alone (.trap true 255), alone_of (by decide +kernel), canTrap_of (by decide +kernel)⟩
theorem witness_gtrap : ∃ s u, UniReady s (.gtrap true 15) false [] u ∧ CanTrap s q3 (tm s) (grp s) (thr s) :=
  let ⟨u, h⟩ := uniReady_of (s := alone (.gtrap true 15)) (i := .gtrap true 15) (gs := []) (gm := false) (by decide +kernel)
  ⟨_, u, h, canTrap_of (by decide +kernel)⟩

/-- A stack whose next push takes the last eight bytes of the segment of 65,536. -/
def full (i : Instr) : State := (alone i fun x => { x with top := 65528 }).modCore 0 fun k => { k with lanes := [{ lane0 with line := 1023 }] }
theorem witness_CallReturnResult_call : Alones full
    [⟨.call true 0x7FFFFF, bareMod, [], [], false⟩, ⟨.bri true 126 true, bareMod, [many 2 126], [], false⟩,
     ⟨.bri false 0 false, bareMod, [many 2 0], [], false⟩] := allAlone (by decide +kernel)
theorem witness_CallReturnResult_stack :
    let s := full (.call true 0x7FFFFF)
    (grp s).core = 0 ∧ (thr s).top + 8 = ((tm s).role (grp s)).p64 ∧ (thr s).top % 8 = 0 ∧ (thr s).stores = [] ∧
    (s.core 0).laneHit q3 ((thr s).top / 64) ((thr s).top % 64) 8 = some { lane0 with line := 1023 } ∧ lane0.lane = (grp s).lane q3.idx ∧
    ((s.core 0).lanes.filter fun y => y.lane == (grp s).lane 3 && y.line % 16 == (thr s).top / 64 % 16).length ≤ 4 := by decide +kernel
/-- One return address on the stack; in the handler, entered with an empty stack. -/
def called (i : Instr) : State := alone i fun x => { x with top := 8, handler := true }
theorem witness_CallReturnResult_ret : Alone (called (.ret false)) ⟨.ret false, bareMod, [], [], false⟩ := alone_of (by decide +kernel)
theorem witness_CallReturnResult_line :
    let s := called (.ret false)
    8 ≤ (thr s).top ∧ (thr s).stores = [] ∧ (s.core 0).laneHit q3 (((thr s).top - 8) / 64) (((thr s).top - 8) % 64) 8 = some lane0 ∧
    ((s.core 0).lanes.filter fun z => z.lane == lane0.lane && z.line % 16 == lane0.line % 16).length ≤ 4 := by decide +kernel

/-- Every release and acquire condition holds of thread 3, whose last load carried a tag. -/
def calm (i : Instr) : State := { alone i (fun x => { x with loadTag := 3, hzg := 5 }) with clock := 300 }
theorem witness_FenceWaitResult_fence : Alones calm
    [⟨.fence false 5 3, bareMod, [], [], false⟩, ⟨.fence true 0 1, bareMod, [], [], false⟩, ⟨.sleep true 15, bareMod, [], [], false⟩] :=
  allAlone (by decide +kernel)
theorem witness_FenceWaitResult_conditions : ∀ q ∈ (runOf (calm (.fence false 5 3))).set, ∀ x, (calm (.fence false 5 3)).thread? q = some x →
    releaseOk ((calm (.fence false 5 3)).nowAt 0) x 5 = true ∧ x.loads = [] ∧ x.loadTag + 64 ≤ (calm (.fence false 5 3)).nowAt 0 := by
  decide +kernel
/-- Thread 3 in a state of its own. -/
def resting (st : TState) : State := { alone (.nop false) fun x => { x with st := st } with cur := none, clock := 300 }
theorem witness_FenceWaitResult_ends :
    (thr (resting .sleeping)).st = .sleeping ∧
    releaseOk ((resting (.parked (.release 5) false)).nowAt 0) (thr (resting (.parked (.release 5) false))) 5 = true ∧
    100 ≤ (resting (.parked (.acquire 100) false)).nowAt 0 := by decide +kernel

/-- Seven results in the level in use, all arrived. -/
def seven (i : Instr) : State := alone i fun x => { x with q0 := List.replicate 7 ⟨0x3F800000, 1, true, 0⟩ }
theorem witness_SpecialFunctionResult : Alones seven
    ((([.frcp bareMod 127, .frsqrt bareMod 127, .fsqrt bareMod 127, .fexp2 bareMod 127, .flog2 bareMod 127, .fexp bareMod 127, .fln bareMod 127,
      .fsin bareMod 127, .fcos bareMod 127, .ftanh bareMod 127, .fsigm bareMod 127, .ferf bareMod 127] : List Instr).map fun i =>
        ⟨i, bareMod, [jetOp 0 127], [], false⟩) ++
     [⟨.fdiv bareMod 0 127, bareMod, [jetOp 0 0, jetOp 0 127], [], false⟩, ⟨.fpow bareMod 127 0, bareMod, [jetOp 0 127, jetOp 0 0], [], false⟩,
      ⟨.lpop true 127, bareMod, [jetOp 0 127], [], false⟩]) := allAlone (by decide +kernel)
theorem witness_SpecialFunctionResult_level : (thr (seven (.frcp bareMod 127))).level.length + 1 = 8 ∧
    ∀ k ∈ (thr (seven (.lpop true 127))).level.take 1, k.arrived = true := by decide +kernel

/-- The mask in g5 names thread 3 alone, or with `m` others beside. -/
def masked (m : DWord) (insts : List Inst) (i : Instr) : State := alone i id fun g => { g.setG 5 m with insts := insts }
theorem witness_GroupBarrierResult : Alones (masked 8 []) [⟨.barg true 5, bareMod, [], [5], false⟩] ∧
    Alones (masked 0xFFFF [⟨0x10000, 0xFFFF, 0xFFF7⟩]) [⟨.barg true 5, bareMod, [], [5], false⟩] := ⟨allAlone (by decide +kernel), allAlone (by decide +kernel)⟩
/-- The last of one, the last of sixteen, the first of sixteen, and one of more to come. -/
theorem witness_GroupBarrierResult_masks :
    (masked 8 [] (.barg true 5)).nowAt 0 = 0 ∧ releaseOk 0 (thr (masked 8 [] (.barg true 5))) 0 = true ∧
    (runOf (masked 8 [] (.barg true 5))).pc = 0x10000 ∧ 2 ^ q3.idx = 8 ∧ (0xFFF7#64 ||| 8 = 0xFFFF) ∧ (1#64 ||| 8 ≠ 0xFFFF) := by decide +kernel
theorem witness_TreeResult : Alones (masked 8 [])
    ((([.redaddF32 true ⟨0, 127, 5⟩, .redminF32 true ⟨0, 127, 5⟩, .redmaxF32 true ⟨0, 127, 5⟩, .scanaddF32 true ⟨0, 127, 5⟩] : List Instr).map fun i =>
        ⟨i, bareMod, [jetOp 0 0, jetOp 0 127], [5], false⟩) ++
     (([.redaddI32 true ⟨0, 127, 5⟩, .redminS32 true ⟨0, 127, 5⟩, .redmaxS32 true ⟨0, 127, 5⟩, .redand true ⟨0, 127, 5⟩, .redor true ⟨0, 127, 5⟩,
      .redxor true ⟨0, 127, 5⟩, .scanaddI32 true ⟨0, 127, 5⟩, .xscanaddI32 true ⟨0, 127, 5⟩, .bcast true ⟨0, 127, 5⟩] : List Instr).map fun i =>
        ⟨i, bareMod, [one 0, one 127], [5], false⟩) ++ [⟨.rank true ⟨0, 0, 5⟩, bareMod, [one 0], [5], false⟩]) := allAlone (by decide +kernel)

/-- The masks of `enrol` and `rejoin`: the issue set is threads 0 to 15, all enrolled in g4. -/
def enrolled (i : Instr) : State := (ready i).modGroup 1 0 fun g => g.setG 4 0xFFFF
theorem witness_MaskPairResult : Readies [⟨.enrol true 4, bareMod, [], [4, 5], false⟩] ∧
    LaneReady (enrolled (.rejoin true 4)) (.rejoin true 4) bareMod [] [4, 5] 0 (runOf (enrolled (.rejoin true 4))) :=
  ⟨allReady (by decide +kernel), laneReady_of (a := ⟨.rejoin true 4, bareMod, [], [4, 5], false⟩) (by decide +kernel) (by decide +kernel)⟩
theorem witness_MaskPairResult_mask :
    let s := enrolled (.rejoin true 4)
    (runOf s).set ≠ [] ∧ (∀ z ∈ (runOf s).set, z.ctx = 1 ∧ z.grp = 0) ∧ (∀ i < 64, (0xFFFF#64).getLsbD i = true ↔ (⟨1, 0, i⟩ : ThreadRef) ∈ (runOf s).set) ∧
    ∀ z ∈ (runOf s).set, z.idx < 64 ∧ ((grp s).gr 4).getLsbD z.idx = true := by decide +kernel
/-- A pair whose masks agree with a thread waiting in its `rejoin`, and one whose masks differ. -/
theorem witness_MaskPairResult_release :
    let g : Group := { g := [(4, 8), (5, 8)], threads := [(3, { st := .waiting (.rejoin 4) })] }
    g.gr 4 = g.gr 5 ∧ (∃ p ∈ g.threads, p.2.st = .waiting (.rejoin 4)) ∧ ({ g with g := [(4, 8)] } : Group).gr 4 ≠ ({ g with g := [(4, 8)] } : Group).gr 5 := by
  decide +kernel

/-! ## Memory words -/

/-- An active region 1, whose pages lie on home 0; key 0 of the team grants every right under GKID 7. -/
def World (s : State) : State :=
  { s with dist := s.dist.store 0 1 0x4000000000000000, clock := 300 } |>.modTeam 1 fun t => { t with keys := [0x000F0007] }
/-- A pod pointer into region 1, and one to the last word of thread 3's private segment. -/
def podPtr : Nat := 2 ^ 47 + 64
def ownPtr (s : State) : Nat := (tm s).priv 0 3 + 48
/-- Thread 3 with a pointer in v20:v21. -/
def points (p : State → Nat) (i : Instr) : State :=
  let s := World (alone i)
  s.modThread q3 fun x => x.setRs 20 2 (p s)
theorem witness_LaneMemoryResult_own : Alones (points ownPtr)
    [⟨.ld bareMod ⟨0, 6, 8, 10, 0⟩, bareMod, [many 4 8, addrOp 10], [], true⟩, ⟨.st bareMod ⟨6, 8, 10, 0⟩, bareMod, [many 4 8, addrOp 10], [], true⟩] :=
  allAlone (by decide +kernel)
theorem witness_LaneMemoryResult_line :
    let s := points ownPtr (.ld bareMod ⟨0, 6, 8, 10, 0⟩)
    let p := ptrAdd (dw ((thr s).rs 20 2)) 0
    let ea := relocate (tm s).apx p
    vaOf ea % 16 = 0 ∧ vaOf ea - (tm s).priv 0 3 = 48 ∧ (tm s).priv 0 3 ≤ vaOf ea ∧ 48 < ((tm s).role (grp s)).p64 ∧
    (s.core 0).laneHit q3 0 48 16 = some lane0 ∧ lane0.lane = (grp s).lane 3 ∧ (thr s).stores = [] ∧ takesPart bareMod (thr s) = true ∧
    ((s.core 0).lanes.filter fun z => z.lane == lane0.lane && z.line % 16 == lane0.line % 16).length ≤ 4 ∧ bareMod.order = 0#2 := by decide +kernel
theorem witness_LaneMemoryResult_idle : Alones (points ownPtr)
    [⟨.ld (pre 95 true 0 0 0) ⟨0, 6, 8, 10, 0⟩, pre 95 true 0 0 0, [many 4 8, addrOp 10], [], true⟩,
     ⟨.st (pre 95 false 0 0 0) ⟨6, 8, 10, 0⟩, pre 95 false 0 0 0, [many 4 8, addrOp 10], [], true⟩,
     ⟨.atom (pre 95 true 0 0 0) ⟨12, 8, 10⟩, pre 95 true 0 0 0, [many 4 8, addrOp 10], [], true⟩] := allAlone (by decide +kernel)
theorem witness_LaneMemoryResult_pod : Alones (points fun _ => podPtr)
    [⟨.ld (pre 127 false 0 127 0xB) ⟨15, 6, 8, 10, 15⟩, pre 127 false 0 127 0xB, [many 4 8, addrOp 10], [], true⟩,
     ⟨.st (pre 127 false 0 0 0x13) ⟨5, 8, 10, 255⟩, pre 127 false 0 0 0x13, [many 2 8, addrOp 10], [], true⟩,
     ⟨.atom (pre 127 false 0 0 0x1D) ⟨12, 8, 10⟩, pre 127 false 0 0 0x1D, [many 4 8, addrOp 10], [], true⟩] := allAlone (by decide +kernel)
theorem witness_LaneMemoryResult_goes :
    let s := points (fun _ => podPtr) (.atom (pre 127 false 0 0 0x1D) ⟨12, 8, 10⟩)
    let ea := relocate (tm s).apx (dw ((thr s).rs 20 2))
    vaOf ea % 8 = 0 ∧ (∀ r < 4, locketOk (tm s).keys ea r = true) ∧ s.outstanding 0 < 2048 ∧ (thr s).notBefore ≤ s.nowAt 0 ∧ (thr s).stores = [] ∧
    releaseOk (s.nowAt 0) (thr s) 5 = true ∧ takesPart (pre 127 false 0 0 0x1D) (thr s) = true ∧
    ¬((tm s).priv 0 3 ≤ vaOf ea ∧ vaOf ea < (tm s).priv 0 3 + ((tm s).role (grp s)).p64) := by decide +kernel
/-- An atomic in the thread's own segment, whose line in the lane store is clean. -/
theorem witness_LaneMemoryResult_goesOwn :
    Alones (points ownPtr) [⟨.atom (pre 127 false 0 0 0) ⟨12, 8, 10⟩, pre 127 false 0 0 0, [many 4 8, addrOp 10], [], true⟩] ∧
    (let s := points ownPtr (.atom (pre 127 false 0 0 0) ⟨12, 8, 10⟩)
     let ea := relocate (tm s).apx (dw ((thr s).rs 20 2))
     vaOf ea % 8 = 0 ∧ locketOk (tm s).keys ea 2 = true ∧ s.outstanding 0 < 2048 ∧ (thr s).notBefore ≤ s.nowAt 0 ∧ (thr s).stores = [] ∧
     (tm s).priv 0 3 ≤ vaOf ea ∧ vaOf ea < (tm s).priv 0 3 + ((tm s).role (grp s)).p64 ∧ (s.core 0).laneBusy q3 0 = false ∧
     (s.core 0).laneLine q3 0 = some lane0 ∧ lane0.dirty = 0) := ⟨allAlone (by decide +kernel), by decide +kernel⟩

/-- A request of thread 3 for the line that `podPtr` lies in. -/
def req3 (acc : Acc) : Req :=
  { reqAt (reqOf 0 placedTeam 1 0 (.thread q3) 0x10000 0x10004) { placedTeam with keys := [0x000F0007] } (dw podPtr) false with
    id := 9, acc := acc, size := 4, data := 5 }
/-- The line it names, in a pair cache until 100 ns. -/
def copy3 : CLine := ⟨podPtr / 64, 7, 100, 4, 0, 0⟩
/-- A live lease, one that has just run out, and no copy; a load and an atomic. -/
theorem witness_RequestAndAtomicResult :
    let s := { State.reset with pairs := [(0, [copy3])], clock := 297 }
    ((s.pair 0).find? fun x => decide (x.line = (req3 .load).va.toNat / 64) && (x.gkid == (req3 .load).gkid || (req3 .load).own)) = some copy3 ∧
    (req3 .load).core / 2 = 0 ∧ (req3 .load).dev = s.dev.no ∧ s.nowAt 0 < copy3.lend ∧ copy3.lend ≤ ({ s with clock := 300 } : State).nowAt 0 ∧ (req3 .load).excl = false ∧
    (State.reset.pair 0).find? (fun x => decide (x.line = podPtr / 64)) = none ∧ ¬((req3 (.atomic 0)).acc = .load) := by decide +kernel

/-! ## Banks -/

/-- The place that a bank address leads to. -/
def places (e : Except Nat Place) (p : Place) : Bool := match e with
  | .ok q => decide (q = p)
  | .error _ => false
/-- The cause of the fault it raises. -/
def stops (e : Except Nat Place) (c : Nat) : Bool := match e with
  | .ok _ => false
  | .error d => decide (c = d)
theorem places_ok {e : Except Nat Place} {p : Place} (h : places e p = true) : e = .ok p := by
  unfold places at h
  split at h
  · rw [of_decide_eq_true h]
  · cases h
theorem stops_error {e : Except Nat Place} {c : Nat} (h : stops e c = true) : e = .error c := by
  unfold stops at h
  split at h
  · cases h
  · rw [of_decide_eq_true h]

/-- A window with a private slot in bank 5, a phase pair in banks 6 and 7, a pair slot in bank 8, a detached and an empty slot. -/
def slots : SMap Slot :=
  [(1, { mode := .priv, bank := 5 }), (2, { mode := .front, bank := 6, peer := 3 }), (3, { mode := .shadow, bank := 7, peer := 2 }),
   (4, { mode := .pair, bank := 8 }), (5, { det := true }), (15, { mode := .priv, bank := 9 })]
/-- The bank address of byte `o` of slot `n`. -/
def at_ (n o : Nat) : Nat := n * 2 ^ 17 + o
def windowed : Team := { placedTeam with window := slots }
/-- A range that ends with its bank is served; one byte more, a reserved bit, an offset not aligned, and each mode that does not serve are not. -/
theorem witness_BankAccessResult_place :
    let s := State.reset
    let go := fun (n o k a : Nat) (u : Use) => s.bankPlace 1 windowed (at_ n o) k a u
    places (go 1 131068 4 4 .load) (.bank 0 5 131068) ∧ stops (go 1 131068 8 4 .load) 0x0A ∧ stops (go 1 2 4 4 .load) 0x0A ∧
    stops (s.bankPlace 1 windowed (2 ^ 28) 4 4 .load) 0x0A ∧ stops (s.bankPlace 1 windowed (2 ^ 21) 4 4 .load) 0x0A ∧
    stops (go 5 0 4 4 .load) 0x08 ∧ stops (go 0 0 4 4 .load) 0x07 ∧ stops (go 3 0 4 4 .load) 0x09 ∧
    places (go 3 0 4 4 .store) (.bank 0 7 0) ∧ places (go 3 0 4 4 .dest) (.bank 0 7 0) ∧ places (go 3 0 4 4 .gathered) (.bank 0 7 0) ∧
    places (go 3 0 4 4 .tile) (.bank 0 7 0) := by decide +kernel
/-- Thread 3 with a bank address in v20. -/
def banked (a : Nat) (i : Instr) : State := (alone i (fun x => x.setRs 20 1 a) id fun t => { t with window := slots })
theorem witness_BankAccessResult : Alones (banked (at_ 1 0))
    [⟨.sld bareMod ⟨6, 8, 20, 63⟩, bareMod, [many 4 8, one 20], [], false⟩, ⟨.sst bareMod ⟨6, 8, 20, 63⟩, bareMod, [many 4 8, one 20], [], false⟩,
     ⟨.satom bareMod ⟨12, 8, 20⟩, bareMod, [many 4 8, one 20], [], false⟩,
     ⟨.sld (pre 95 true 0 0 0) ⟨6, 8, 20, 63⟩, pre 95 true 0 0 0, [many 4 8, one 20], [], false⟩,
     ⟨.sst (pre 95 false 0 0 0) ⟨6, 8, 20, 63⟩, pre 95 false 0 0 0, [many 4 8, one 20], [], false⟩,
     ⟨.satom (pre 95 true 0 0 0) ⟨12, 8, 20⟩, pre 95 true 0 0 0, [many 4 8, one 20], [], false⟩] := allAlone (by decide +kernel)
theorem witness_BankAccessResult_address :
    let s := banked (at_ 1 0) (.sld bareMod ⟨6, 8, 20, 63⟩)
    ((thr s).r 20).toNat % 2 ^ 17 + 63 * 16 < 2 ^ 17 ∧ places (s.bankPlace 1 (tm s) (((thr s).r 20).toNat + 63 * 16) 16 16 .load) (.bank 0 5 1008) ∧
    places (s.bankPlace 1 (tm s) ((thr s).r 20).toNat 8 8 .atomic) (.bank 0 5 0) ∧ (s.cluster 0).writes = [] ∧ (thr s).loads = [] ∧
    takesPart bareMod (thr s) = true := by decide +kernel
/-- A remote store into the shadow slot of another team of the cluster set. -/
theorem witness_BankAccessResult_remote :
    let s := { (banked (2 ^ 27 + 2 ^ 24 + at_ 3 0) (.sst bareMod ⟨4, 8, 20, 0⟩)) with
      teams := [(1, { windowed with cset := true, leader := 1, grid := 1 }), (2, { windowed with cset := true, leader := 1, grid := 1, core := 1, teamid := 1 })] }
    places (s.bankPlace 1 (tm s) (2 ^ 27 + 2 ^ 24 + at_ 3 0) 4 4 .store) (.remote 2 3 0 7 0) := by decide +kernel

/-- The group has uniform registers `gs`, its team the window above and every right. -/
def uni (gs : SMap DWord) (i : Instr) : State :=
  let s := World (ready i)
  (s.modTeam 1 fun t => { t with window := slots }).modGroup 1 0 fun g => { g with g := gs }
/-- Words of a list are ready in the state that `f` gives each. -/
def UnisIn (f : Instr → State) (l : List (Instr × List Nat × Bool)) : Prop := ∀ a ∈ l, ∃ u, UniReady (f a.1) a.1 a.2.2 a.2.1 u
theorem allUniIn {f : Instr → State} {l : List (Instr × List Nat × Bool)} (h : (l.all fun a => uniOk (f a.1) a.1 a.2.1 a.2.2) = true) : UnisIn f l :=
  fun a ha => uniReady_of (List.all_eq_true.1 h a ha)

theorem witness_UniformMemoryResult : UnisIn (uni [(10, dw podPtr), (12, BitVec.ofNat 64 (at_ 1 0))])
    [(.gsld false ⟨3, 8, 12, 63⟩, [8, 12], false), (.gsst false ⟨3, 8, 12, 63⟩, [8, 12], false), (.gld true ⟨15, 3, 8, 10, 63⟩, [8, 10], true),
     (.gst true ⟨3, 8, 10, 63⟩, [8, 10], true), (.gatom true ⟨8, 10, 9, 12, 3⟩, [8, 10, 9], true)] := allUniIn (by decide +kernel)
theorem witness_UniformMemoryResult_goes :
    let s := uni [(10, dw podPtr), (12, BitVec.ofNat 64 (at_ 1 0))] (.gatom true ⟨8, 10, 9, 12, 3⟩)
    places (s.bankPlace 1 (tm s) (at_ 1 (63 * 8)) 8 8 .load) (.bank 0 5 504) ∧ places (s.bankPlace 1 (tm s) (at_ 1 (63 * 8)) 8 8 .store) (.bank 0 5 504) ∧
    vaOf (relocate (tm s).apx (dw podPtr)) % 8 = 0 ∧ (∀ r < 4, locketOk (tm s).keys (dw podPtr) r = true) ∧ s.outstanding 0 < 2048 ∧
    ∀ q ∈ (runOf s).set, ∀ x, s.thread? q = some x → x.notBefore ≤ s.nowAt 0 ∧ x.stores = [] ∧ x.loads = [] ∧ x.bankW = [] ∧
      x.fenceTag < 2 ^ 64 ∧ releaseOk (s.nowAt 0) x 3 = true := by decide +kernel

theorem witness_SpecialRegisterResult : UnisIn (uni [(10, 3)])
    ((((List.range 19).map (BitVec.ofNat 6)) ++ ((List.range 16).map fun k => BitVec.ofNat 6 (32 + k))).map fun r => (.rdsr false 10 r, [10], false)) ∧
    UnisIn (uni [(10, 3)]) ((([9, 10, 11, 14, 15, 16, 17] : List (BitVec 6)).map fun r => (.wrsr false 10 r, [10], false)) ++
      [(.setjo true 7, [], false), (.jxfclr false 10, [10], false)]) := ⟨allUniIn (by decide +kernel), allUniIn (by decide +kernel)⟩
theorem witness_SpecialRegisterResult_state :
    let s := uni [(10, 3)] (.rdsr false 10 9)
    (s.thread? ⟨1, 0, 0⟩).isSome = true ∧ s.grids.find? (tm s).grid = some placedGrid ∧
    ∀ p ∈ (grp s).threads, p.2.flying = [] ∧ ∀ k ∈ p.2.q0 ++ p.2.q1, k.arrived = true := by decide +kernel

/-- A counter at its bound, and one above it. -/
def counted (n : Nat) (i : Instr) : State := (uni [] i).modGroup 1 0 fun g => { g with cnt := [(2, n)] }
theorem witness_CounterWaitResult : UnisIn (counted 3) [(.waitn false 2 3, [], false)] ∧ UnisIn (counted 4) [(.waitn false 2 3, [], false)] ∧
    ∀ n ∈ [3, 4], (grp (counted n (.waitn false 2 3))).cnt.getD 2 0 = n ∧ (grp (counted n (.waitn false 2 3))).errs = [] :=
  ⟨allUniIn (by decide +kernel), allUniIn (by decide +kernel), by decide +kernel⟩

/-! ## Sync words, barriers, gives -/

/-- A sync word at byte 16 of slot 1 with TARGET `t`, COUNT `c` and GEN `g`; its address is in g10 and `v` in g11. -/
def synced (t c g : Nat) (v : DWord) (i : Instr) : State :=
  (((uni [(10, BitVec.ofNat 64 (at_ 1 16)), (11, v)] i).bankPut 0 5 16 4 t).bankPut 0 5 20 4 c).bankPut 0 5 24 4 g
theorem witness_SyncBarrierResult_sync : UnisIn (synced 8 7 2 1)
    [(.syncwInit false ⟨8, 10, 11⟩, [8, 10, 11], false), (.syncwArrive false ⟨8, 10, 11⟩, [8, 10, 11], false),
     (.syncwWait false ⟨8, 10, 11⟩, [8, 10, 11], false)] := allUniIn (by decide +kernel)
/-- `init` with TARGET at both sides of 2^32; `arrive` that completes a generation; `wait` for the present generation and for an older one. -/
theorem witness_SyncBarrierResult_word :
    let s := synced 8 7 2 1 (.syncwArrive false ⟨8, 10, 11⟩)
    places (s.bankPlace 1 (tm s) (at_ 1 16) 16 16 .word) (.bank 0 5 16) ∧ s.bankGet 0 5 24 4 = 2 ∧ (1#64).toNat % 2 ^ 32 ≠ 2 ∧ (2#64).toNat % 2 ^ 32 = 2 ∧
    (0xFFFFFFFF#64).toNat < 2 ^ 32 ∧ 2 ^ 32 ≤ (0x100000000#64).toNat ∧ (s.syncWaiters 0 5 16).contains (1, 0) = false ∧
    (∀ p ∈ (grp s).threads, releaseOk (s.nowAt 0) p.2 1 = true) ∧ ∀ q ∈ (runOf s).set, ∀ x, s.thread? q = some x → x.arr = none := by decide +kernel
/-- Sixteen threads at a barrier of 16 and of 17 (32,768 and 131,072 are the largest counts). -/
def barred (b : DWord) (i : Instr) : State := uni [(10, BitVec.ofNat 64 (at_ 1 16)), (11, b), (12, 3)] i
theorem witness_SyncBarrierResult_barrier : UnisIn (barred 16)
    [(.bart false ⟨8, 10, 11, true⟩, [8, 10, 11], false), (.bars true ⟨8, 12, 11, false⟩, [8, 12, 11], false)] := allUniIn (by decide +kernel)
theorem witness_SyncBarrierResult_bart :
    let s := barred 16 (.bart false ⟨8, 10, 11, true⟩)
    places (s.bankPlace 1 (tm s) (at_ 1 16) 8 8 .word) (.bank 0 5 16) ∧ s.bankGet 0 5 16 4 + (runOf s).set.length = 16 ∧ (12#64).toNat ≥ 4 ∧
    ∀ q ∈ (runOf s).set, ∀ x, s.thread? q = some x → x.arr = none ∧ releaseOk (s.nowAt 0) x 1 = true ∧ releaseOk (s.nowAt 0) x 2 = true := by
  decide +kernel

/-- A give of slot 1, a bad slot number, a slot that is not private; an accept into empty slot 0, into one in use, and with a bad tag; phase of 1
and 15; `bwait`, `query` and `release` of slots in every mode. -/
def giving (a b : DWord) (i : Instr) : State := uni [(10, a), (11, b)] i
theorem witness_BankTransferResult : UnisIn (giving 1 15)
    [(.give false ⟨8, 10, 11⟩, [8, 10, 11], false), (.bmopAccept false ⟨8, 10, 11⟩, [8, 10, 11], false),
     (.bmopPhase false ⟨8, 10, 11⟩, [8, 10, 11], false), (.bmopBwait false ⟨8, 10⟩, [8, 10], false), (.bmopQuery false ⟨8, 10⟩, [8, 10], false),
     (.bmopRelease false ⟨8, 10⟩, [8, 10], false)] := allUniIn (by decide +kernel)
theorem witness_BankTransferResult_slots :
    let s := giving 1 15 (.give false ⟨8, 10, 11⟩)
    ((tm s).slot 1).mode = .priv ∧ ((tm s).slot 15).mode = .priv ∧ s.giveHolds 1 1 = false ∧ s.giveHolds 1 15 = false ∧ ((tm s).slot 0).mode = .empty ∧
    ((tm s).slot 0).acc = false ∧ ((tm s).slot 0).mat = false ∧ ((tm s).slot 0).arr = false ∧ ((tm s).slot 2).mode = .front ∧
    ((tm s).slot 3).mode = .shadow ∧ ((tm s).slot 4).mode = .pair ∧ s.drained 1 1 5 = true := by decide +kernel
/-- A `bmop stash` of slot 1 over 64 bytes, readable and writable; and one whose base is not aligned. -/
theorem witness_BankTransferResult_stash : UnisIn (uni [(10, 1), (12, dw podPtr), (13, 0x100000040)])
    [(.bmopStash true ⟨8, 10, 12⟩, [8, 10, 12, 13], true)] ∧ UnisIn (uni [(10, 1), (12, dw (podPtr + 1)), (13, 64)])
    [(.bmopStash true ⟨8, 10, 12⟩, [8, 10, 12, 13], true)] := ⟨allUniIn (by decide +kernel), allUniIn (by decide +kernel)⟩
theorem witness_BankTransferResult_range :
    let s := uni [(10, 1), (12, dw podPtr), (13, 0x100000040)] (.bmopStash true ⟨8, 10, 12⟩)
    podPtr % 64 = 0 ∧ (0x100000040#64).toNat % 2 ^ 18 = 64 ∧ (0x100000040#64).toNat < 2 ^ 33 ∧ s.stashOverlaps 0 podPtr 64 = false ∧
    locketOk (tm s).keys (dw podPtr) 0 = true ∧ locketOk (tm s).keys (dw podPtr) 1 = true := by decide +kernel
/-- A `bmop bwait` that began to wait while its slot was to accept a bank, and goes on when it no longer is. -/
theorem witness_BankTransferResult_waits :
    let s := giving 1 15 (.bmopBwait false ⟨8, 10⟩)
    let s := s.eachThread (runOf s).set fun x => { x with arr := some (.bwait 1) }
    (∃ u, UniReady s (.bmopBwait false ⟨8, 10⟩) false [8, 10] u) ∧ ((tm s).slot 1).arr = false ∧ ((tm s).slot 1).acc = false ∧
    ((tm s).slot 1).mat = false ∧ ((s.thread? q3).map fun x => x.arr) = some (some (.bwait 1)) :=
  ⟨uniReady_of (by decide +kernel), by decide +kernel⟩
/-- A give that is complete, seen by the set that made it. -/
theorem witness_BankTransferResult_give :
    let s := giving 1 15 (.give false ⟨8, 10, 11⟩)
    let s := (s.eachThread (runOf s).set fun x => { x with arr := some (.give 6) }).modCluster 0 fun k =>
      { k with gives := [⟨6, 1, 0, 1, 5, 0, 0, some (2, 0), true, false⟩] }
    (∃ u, UniReady s (.give false ⟨8, 10, 11⟩) false [8, 10, 11] u) ∧ ((s.thread? q3).map fun x => x.arr) = some (some (.give 6)) ∧
    ((s.cluster 0).gives.find? fun h => h.id == 6).map (fun h => h.complete) = some true :=
  ⟨uniReady_of (by decide +kernel), by decide +kernel⟩

/-! ## Queues, matrix words, launch -/

/-- A plain copy of 64 bytes from the pod into slot 1 with its first pair pushed; a report-flags command. -/
def pushing (q : Nat) (ws : List DWord) (a b : DWord) (i : Instr) : State :=
  (uni [(10, a), (11, b)] i).modGroup 1 0 fun g => { g with chain := if ws = [] then none else some (q, ws) }
theorem witness_QueueResult : UnisIn (pushing 2 [dw podPtr, BitVec.ofNat 64 (at_ 1 0)] 0x20000000000000 0x40)
    [(.qpush false ⟨2, 10, 11, false⟩, [10, 11], false), (.qpush false ⟨2, 10, 11, true⟩, [10, 11], false), (.qpop true 8 4, [8], false)] :=
  allUniIn (by decide +kernel)
/-- A last push of a copy, a gather, a collective whose device list stands in the bank, and a report-flags command: every check passes, with
room. -/
theorem witness_QueueResult_checks :
    (∀ c ∈ ([(2, [dw podPtr, BitVec.ofNat 64 (at_ 1 0)], 0x0020000200000000, 0x40),
        (3, [dw podPtr, BitVec.ofNat 64 (at_ 1 4096 + at_ 1 0 * 2 ^ 32)], 0, 0x0000004000000040),
        (4, [dw podPtr, dw podPtr, 4 * 2 ^ 55, 4], BitVec.ofNat 64 (2 + at_ 1 64 * 2 ^ 32), 0), (1, [], 0x0200000000000000, 0)] :
          List (Nat × List DWord × DWord × DWord)),
      let i : Instr := .qpush false ⟨BitVec.ofNat 4 c.1, 10, 11, false⟩
      let s := (pushing c.1 c.2.1 c.2.2.1 c.2.2.2 i).bankPut 0 5 64 4 0x10000
      uniOk s i [10, 11] = true ∧ (s.uniCtx.map fun u => u.group.chain.map fun c => c.1) = some (if c.1 = 1 then none else some c.1) ∧
      (s.uniCtx.map fun u => (s.cmdFault u c.1 (c.2.1 ++ [c.2.2.1, c.2.2.2]), s.pushWait u c.1)) = some (none, none)) ∧
    (grp (pushing 2 [] 0 0 (.qpop true 8 4))).overflow = [] := by decide +kernel

/-- A matrix word on tiles 0 and 1, for one octet. -/
theorem witness_MatrixIssueResult : Alone (alone (.mma false ⟨0, 0, 1, 0⟩)) ⟨.mma false ⟨0, 0, 1, 0⟩, bareMod, [], [], false⟩ :=
  alone_of (by decide +kernel)
theorem witness_MatrixIssueResult_free :
    let s := alone (.mma false ⟨0, 0, 1, 0⟩)
    mmaIllegal (tm s) (grp s) 0 ⟨0, 0, 1, 0⟩ = false ∧ s.descrFault 1 (tm s) (grp s) 0 ⟨0, 0, 1, 0⟩ [0] = none ∧ (thr s).bankW = [] ∧
    (grp s).ops < 64 ∧ (s.core 0).mq.length < 64 ∧ (grp s).arms = [] := by decide +kernel

theorem witness_StripAndTileResult : Alones alone [⟨.accrd bareMod ⟨510, 127, 127⟩, bareMod, [one 127], [], false⟩,
    ⟨.accwr bareMod ⟨0, 127, 0⟩, bareMod, [one 127], [], false⟩] := allAlone (by decide +kernel)
theorem witness_StripAndTileResult_strips : 510 + ((tm (alone (.accrd bareMod ⟨510, 127, 127⟩))).width / 8 - 1) * jetG 0 + 1 ≤
    ((tm (alone (.accrd bareMod ⟨510, 127, 127⟩))).role (grp (alone (.accrd bareMod ⟨510, 127, 127⟩)))).strips := by decide +kernel
/-- A tile in slot 1 with a pitch of 128, of a form tagged; the last tile of the role. -/
theorem witness_StripAndTileResult_tile : UnisIn (uni [(10, BitVec.ofNat 64 (at_ 1 64 + 128 * 2 ^ 32))])
    [(.tld true ⟨15, 10⟩, [10, 11], false), (.tst false ⟨15, 10⟩, [10, 11], false)] ∧
    (let s := uni [(10, BitVec.ofNat 64 (at_ 1 64 + 128 * 2 ^ 32))] (.tld true ⟨15, 10⟩)
     15 < ((tm s).role (grp s)).tiles ∧ places (s.bankPlace 1 (tm s) (at_ 1 64) 1 1 .engine) (.bank 0 5 64) ∧ 64 + 127 * 128 + 128 ≤ 131072 ∧
     places (s.bankPlace 1 (tm s) (at_ 1 64) 1 1 .store) (.bank 0 5 64)) := ⟨allUniIn (by decide +kernel), by decide +kernel⟩

/-- A launch of the record at byte 0 of slot 1 into queue 15, enabled for the device. -/
def launching (i : Instr) : State :=
  (uni [(10, BitVec.ofNat 64 (at_ 1 0)), (11, 15)] i).modPart 0 fun p => { p with queues := [(15, { en := true, dev := true, wp := 14 })] }
theorem witness_LaunchResult : UnisIn launching [(.launch false ⟨8, 10, 11⟩, [8, 10, 11], false)] ∧
    (let s := launching (.launch false ⟨8, 10, 11⟩)
     at_ 1 0 % 64 = 0 ∧ at_ 1 0 / 2 ^ 27 % 2 = 0 ∧ at_ 1 0 % 2 ^ 17 + 192 < 2 ^ 17 ∧ places (s.bankPlace 1 (tm s) (at_ 1 0) 256 64 .load) (.bank 0 5 0) ∧
     ((s.part 0).queue 15).en = true ∧ ((s.part 0).queue 15).dev = true ∧ ((s.part 0).queue 15).err = false ∧ (s.part 0).dom 15 = (tm s).dom ∧
     (((s.part 0).queue 15).wp + 1) % 2 ^ (min 11 ((s.part 0).queue 15).logn + 4) ≠ ((s.part 0).queue 15).rp ∧
     ∀ x ∈ (grp s).threads, releaseOk (s.nowAt 0) x.2 3 = true) := ⟨allUniIn (by decide +kernel), by decide +kernel⟩

/-! ## Events: runs, fills and replies -/

/-- The page that `podPtr` lies in, and its entry: tier 0, frame 32, GKEY 7, domain 0, lease class 1. -/
def vpn : Nat := 2 ^ 31
def word0 : DWord := 0x8800000000000000 + dw vpn
def word1 : DWord := 0x0007000000000020
/-- Home 0 with a table of 1,024 buckets in frame 16 that maps the page; slice 0 of each die serves partition 0; no word issues. -/
def Mapped (s : State) : State :=
  let h : Home := { hptb := 16, hptc := 0x10A, hdsb := 8, hcpl := 0x1000000040, tcache := [(vpn, (word0, word1))], rev := [(32, vpn)] }
  ({ s with homes := [(0, h)], slicesets := [(0, 1), (1, 1), (2, 1), (3, 1)], cur := none }).setPte 0 ((h.probes vpn).headD 0) word0 word1
/-- Thread 3 suspended at the load it made as request 9. -/
def waiting3 : State := Mapped (World (alone (.nop false) fun x =>
  { x with st := .suspended, pc := 0x10000, arr := some (.checked 9), loads := [⟨9, 4, 1, 3, false, false⟩], stores := [(9, podPtr / 64)] }))

/-- Thread 3 ready at `podPtr`, whose line the instruction cache holds; no run under way. -/
def starting : State :=
  (Mapped (World (alone (.nop false) fun x => { x with st := .ready, pc := dw podPtr }))).modCore 0 fun k =>
    { k with runs := [], icache := [⟨podPtr / 64, 7, 2 ^ 62, 0, lineOf (toBytes 64 0x0800000008000000), 0⟩] }
theorem witness_RunEventResult_start :
    let s := starting.wakeParked 0
    (match firstCand s.cycle (s.cands 0) with
     | some t0 => decide (s.picks 0 (s.cands 0) = some t0) && match s.team? t0.ref.ctx with
       | some t => decide (t0.pc.toNat % 4 = 0) && (match s.fetchRun ⟨0, t0.ref.ctx, t, t0.pc⟩ 24 t0.pc [] with
         | .words ws => decide (ws ≠ [])
         | _ => false)
       | none => false
     | none => false) = true ∧ (s.core 0).runs.length < 8 ∧ (s.core 0).fetching = [] ∧ s.outstanding 0 < 2048 ∧ (s.core 0).once = [] ∧
    (State.reset.wakeParked 383).picks 383 ((State.reset.wakeParked 383).cands 383) = none := by decide +kernel
/-- A fetch; a set stalled for 64 cycles; a register-cache line asked for; a lane-store set with room for a fourth line, and a line that
was pushed to before its fill. -/
theorem witness_RunEventResult :
    let r := { req3 .fetch with client := .fetch 0 q3 }
    let s := (alone (.nop false)).modCore 0 fun k => { k with
      fetching := [r], rcAsked := [⟨.vector, 1, 0, 4, 0⟩], runs := k.runs.map fun r => { r with stall := some (.writes 0, 0) }
      lanes := [{ lane0 with dirty := 0xFF, valid := 0xFF }, { lane0 with line := 16 }, { lane0 with line := 32 }]
      laneAsked := [(q3, 48, 9), (q3, 0, 10)] }
    let s := { s.modThread q3 fun x => { x with bankW := [5] } with clock := 128 }
    let l : Req := { req3 .load with client := .lane q3 }
    ((s.core 0).fetching.any fun f => f.id == r.id) = true ∧ (s.thread? q3).isSome = true ∧
    (match (s.core 0).runs.find? fun r => r.rid == 1 with
     | some r => decide (r.stall = some (.writes 0, 0)) && !s.stallOk 0 r.set (.writes 0) && decide (0 + 64 ≤ s.cycle)
     | none => false) = true ∧
    (s.core 0).rcAsked.contains ⟨.vector, 1, 0, 4, 0⟩ = true ∧ (s.core 0).rc.length < 16384 ∧ (s.team? 1).isSome = true ∧ (s.group? 1 0).isSome = true ∧
    l.id = 9 ∧ l.core = 0 ∧ List.find? (fun (a : ThreadRef × Nat × Nat) => a.1 == q3 && a.2.2 == 9) (s.core 0).laneAsked = some (q3, 48, 9) ∧
    (s.core 0).laneLine q3 48 = none ∧ ((s.core 0).lanes.filter fun y => y.lane == (grp s).lane 3 && y.line % 16 == 48 % 16).length = 3 ∧
    List.find? (fun (a : ThreadRef × Nat × Nat) => a.1 == q3 && a.2.2 == 10) (s.core 0).laneAsked = some (q3, 0, 10) ∧
    (s.core 0).laneLine q3 0 = some { lane0 with dirty := 0xFF, valid := 0xFF } ∧
    (((s.core 0).lanes.filter fun y => !(y.owner == q3 && y.line == 0)).filter fun y => y.lane == 3 && y.line % 16 == 0).length < 4 := by
  decide +kernel
theorem witness_RunEventResult_retry : (req3 .load).client = .thread q3 ∧ State.reset.awaited (req3 .load) = false ∧
    waiting3.awaited (req3 .load) = true ∧ (req3 .load).direct = false := by decide +kernel

/-- Thread 3 waits for request 9, can enter its handler, and has the load and the store of it in its lists. -/
theorem witness_ReplyResult : trapOk waiting3 = true ∧ (req3 .load).client = .thread q3 ∧
    (thr waiting3).st = .suspended ∧ (thr waiting3).pc = (req3 .load).pc ∧ (thr waiting3).arr = some (.checked (req3 .load).id) ∧
    (thr waiting3).loads.find? (fun l => l.id == (req3 .load).id) = some ⟨9, 4, 1, 3, false, false⟩ ∧
    ((thr waiting3).stores.any fun p => p.1 == (req3 .store).id) = true ∧ (req3 .store).acc = .store := by decide +kernel

/-! ## Slices -/

/-- A line of slice 0 in a state, and the pair cache's copy of it. -/
def held (st : SliceSt) : SliceLine := ⟨st, 7, 1, 5, 0, 0, 0, 0, 0, 4⟩
def sliced (st : SliceSt) : State := { waiting3 with slices := [(0, { lines := [(podPtr / 64, held st)] })], pairs := [(0, [copy3])] }
def hits (st : SliceSt) : Bool :=
  decide (((sliced st).slice ((sliced st).sliceFor 0 0 podPtr)).lines.find? (podPtr / 64) = some (held st)) && decide ((held st).gkid = (req3 .load).gkid)
theorem witness_SliceResult :
    let r := req3 .load
    r.client = .thread q3 ∧ r.dev = waiting3.dev.no ∧ r.own = false ∧ r.va.toNat = podPtr ∧
    (waiting3.slice (waiting3.sliceFor r.part r.die r.va.toNat)).lines.find? (podPtr / 64) = none ∧
    waiting3.regionSt r.die r.va.toNat = 1 ∧ (waiting3.homeOf r.die r.va.toNat).1 = waiting3.dev.no ∧ State.reset.regionSt 0 r.va.toNat ≠ 1 ∧
    (∀ st ∈ [SliceSt.S, .E, .M, .O], hits st = true) ∧ r.acc = .load ∧ r.excl = false ∧ (req3 .store).acc = .store ∧
    (req3 (.atomic 0)).acc = .atomic 0 ∧
    ((sliced .S).pair (r.core / 2)).find? (fun y => decide (y.line = podPtr / 64) && y.gkid == r.gkid) = some copy3 ∧
    copy3.ver = (held .S).ver ∧ (held .S).lc ≠ 0 := by decide +kernel
/-- Snoops: a line in flight, and one in each state of an owner; a full write-back buffer's line; a grant to a slice that has given the line up. -/
theorem witness_SliceResult_homes :
    waiting3.ownerSlice 0 (podPtr / 64) = none ∧ (∀ st ∈ [SliceSt.E, .M, .O], (sliced st).ownerSlice 0 (podPtr / 64) = some (0, held st)) ∧
    (({ wb := [(podPtr / 64, ⟨5, 0, 0, 0, true⟩)] } : Slice).wb.find? fun w => w.1 == podPtr / 64) = some (podPtr / 64, ⟨5, 0, 0, 0, true⟩) ∧
    waiting3.holders 0 (podPtr / 64) = [] ∧
    ((waiting3.slice (waiting3.sliceFor 0 0 podPtr)).lines.filter fun p => p.1 % 2048 == podPtr / 64 % 2048).length < 16 := by decide +kernel

/-! ## Homes -/

/-- The home with a directory entry for the line, and with a command or a token. -/
def homed (e : DirEntry) (f : Home → Home := id) : State := waiting3.modHome 0 fun h => f { h with dir := [(podPtr / 64, e)] }
theorem witness_HomeDirectoryResult_checks :
    let r := req3 .load
    let s := waiting3
    r.client = .thread q3 ∧ r.dev = s.dev.no ∧ r.own = false ∧ r.direct = false ∧ s.holdsPage 0 (r.va.toNat / 65536) r = false ∧
    (homed {} fun h => { h with cmd := some ⟨3, vpn, false, 0, 0⟩ }).holdsPage 0 (r.va.toNat / 65536) r = true ∧
    s.check 0 (r.va.toNat / 65536) r.dom.toNat r.gkid true = none ∧ s.check 0 (r.va.toNat / 65536) 1 r.gkid false = some (2, word0) ∧
    s.check 0 (vpn + 1) 0 r.gkid false = some (1, 0) ∧ (((s.home 0).tokens.map fun t => t.2.held.length).sum < 4096) ∧
    (([(5, (⟨0, vpn, 0, 0, 0, List.replicate 4096 (r, 1)⟩ : Token))] : List (Nat × Token)).map fun t => t.2.held.length).sum = 4096 ∧
    List.find? (fun (t : Nat × Token) => t.2.vpn == vpn && t.2.dom == r.dom) [(5, ⟨0, vpn, 0, 0, 0, []⟩)] = some (5, ⟨0, vpn, 0, 0, 0, []⟩) ∧
    List.find? (fun (t : Nat × Token) => t.2.vpn == vpn && t.2.dom == r.dom) (s.home 0).tokens = none ∧
    (List.range 1024).find? (fun k => ((s.home 0).tokens.find? k).isNone) = some 0 := by decide +kernel
/-- A line nobody holds; one shared by dies 0 and 2; one owned by die 1 alone, and by the die that asks; a direct store; a device's read. -/
theorem witness_HomeDirectoryResult_lines :
    let e := fun s => (s : State).home 0 |>.entry (podPtr / 64)
    let own := fun d => homed { st := .X, owner := some (.die d) }
    (e waiting3).st = .I ∧ (e waiting3).owner = none ∧ (e waiting3).held = [] ∧ (e waiting3).sharers = 0 ∧
    (waiting3.home 0).poison.contains (podPtr / 64) = false ∧
    (waiting3.home 0).mapped = true ∧ (waiting3.home 0).tcache.find? (podPtr / 64 / 1024) = some (word0, word1) ∧ pTier word0 = 0 ∧
    (waiting3.home 0).wbbuf = [] ∧ (waiting3.slice (waiting3.sliceFor 0 0 podPtr)).lines = [] ∧
    (let s := homed { st := .S, sharers := 5 }
     (e s).sharers &&& ~~~1#5 &&& 15#5 = 4 ∧ (e s).sharers.getLsbD 4 = false) ∧
    (let s := homed { st := .S, sharers := 1 }
     (e s).sharers &&& ~~~1#5 &&& 15#5 = 0) ∧
    (e (own 1)).owner = some (.die 1) ∧ ((e (own 1)).sharers &&& ~~~1#5 &&& ~~~2#5 &&& 15#5 = 0#5) ∧
    (let s := { sliced .O with homes := (own 0).homes }
     (e s).owner = some (.die 0) ∧ s.sliceFor 0 0 podPtr = 0 ∧ (s.slice 0).lines.find? (podPtr / 64) = some (held .O) ∧ (held .O).owns = true) ∧
    ({ req3 .store with client := .agent 4, direct := true } : Req).client = .agent 4 ∧ 1 ≠ waiting3.dev.no := by decide +kernel
/-- Two acknowledgements to come, one to come, a snoop of die 1 for a read of die 0, a write-back of the one owner, a shared line. -/
theorem witness_HomeAnswerResult :
    let e := fun s => (s : State).home 0 |>.entry (podPtr / 64)
    let asks := fun n => homed { st := .IXA, sharers := n, acks := n, pend := some (req3 .store) }
    let snooped := homed { st := .XF, owner := some (.die 1), pend := some (req3 .load) }
    let owned := homed { st := .X, owner := some (.die 1) }
    (e (asks 6)).st = .IXA ∧ (e (asks 6)).acks &&& ~~~2#5 ≠ 0 ∧ (e (asks 2)).acks &&& ~~~2#5 = 0 ∧ (e (asks 2)).pend = some (req3 .store) ∧
    (e (asks 2)).owner = none ∧ (e (asks 2)).held = [] ∧ ((asks 2).home 0).poison.contains (podPtr / 64) = false ∧
    (e (asks 2)).sharers &&& ~~~2#5 &&& ~~~1#5 = 0 ∧ (req3 .store).dev = (asks 2).dev.no ∧ (req3 .store).die = 0 ∧
    (req3 .store).direct = false ∧ (req3 .store).client = .thread q3 ∧ (req3 .store).acc = .store ∧
    (req3 .store).va.toNat / 64 = podPtr / 64 ∧ (e snooped).st = .XF ∧ (e snooped).wbSeen = false ∧ (e snooped).pend = some (req3 .load) ∧
    (e snooped).held = [] ∧ (req3 .load).excl = false ∧
    (snooped.slice (snooped.sliceFor 0 0 podPtr)).lines = [] ∧ (e owned).st = .X ∧ (e owned).owner = some (.die 1) ∧
    (e owned).sharers = 0 ∧ (owned.home 0).mapped = true ∧ (owned.home 0).tcache.find? (podPtr / 64 / 1024) = some (word0, word1) ∧
    pTier word0 = 0 ∧ pBsy word0 = false ∧ (owned.home 0).wbbuf = [] ∧ (e (homed { st := .S, sharers := 3 })).st = .S ∧
    waiting3.holders 1 (podPtr / 64) = [] ∧ (sliced .S).holders 0 (podPtr / 64) = [0] := by decide +kernel
/-- The device address of the line is byte 64 of frame 32 of home 0. -/
theorem witness_HostAccessResult :
    let e := fun s => (s : State).home 0 |>.entry (podPtr / 64)
    let s := waiting3
    let back := homed { st := .BI, owner := some .host, sharers := 16 }
    s.ideOk true = true ∧ s.hostMay (32 * 65536 + 64) = true ∧ s.hpaLine 0 = none ∧ s.nowHome 0 = 100 ∧
    (e (homed { st := .RC, hostWant := true })).st = .RC ∧ (e (homed { st := .RC, hostWant := true })).hostWant = true ∧
    (e (homed { st := .RC, hostWant := true })).held = [] ∧
    max (e (homed { st := .RC, hostWant := true })).fd (max (e (homed { st := .RC })).fr (e (homed { st := .RC })).rl) + 64 ≤ s.nowHome 0 ∧
    s.nowHome 0 < max 90 (max 0 0) + 64 ∧ (e back).st = .BI ∧ (e back).pend = none ∧ (e back).held = [] ∧ (back.home 0).wbbuf = [] ∧
    (back.home 0).mapped = true ∧ (back.home 0).tcache.find? (podPtr / 64 / 1024) = some (word0, word1) ∧ pTier word0 = 0 ∧
    s.dpaLine (32 * 65536 + 64) = some (0, podPtr / 64, 0) ∧ s.lineFree 0 (podPtr / 64) false = true ∧
    (s.home 0).busyPage (podPtr / 64 / 1024) = false ∧ (e s).st = .I ∧ (e s).owner = none ∧ s.inFlight (podPtr / 64) = false := by decide +kernel

/-! ## Events: banks, matrix engine, engines -/

/-- Thread 3's team with the window above and a second team beside it, whose slot 0 takes the bank of slot 1. -/
def clasped (f : Cluster → Cluster) (fs : Slot → Slot := id) : State :=
  let s := waiting3.modTeam 1 fun t => { t with window := slots.put 1 (fs { mode := .priv, bank := 5 }) }
  { s with teams := s.teams.put 2 { windowed with core := 1 } }.modCluster 0 f
def put5 : BankWrite := ⟨5, some q3, none, 0, 5, 131068, 4, 0xFFFFFFFF, none⟩
def gift : Give := ⟨6, 1, 0, 1, 5, 0, 0, some (2, 0), false, false⟩
/-- A stash of one line over `podPtr`, whose fill has been asked for. -/
def stashed : StashRec := ⟨dw podPtr, 64, true, 7, [], [0], [], []⟩
theorem witness_BankEventResult :
    (let s := clasped (fun k => { k with writes := [put5] })
     let s := s.modThread q3 fun x => { x with bankW := [5] }
     ((s.cluster put5.cluster).writes.find? fun v => v.id == put5.id) = some put5 ∧ put5.shadow = none ∧ (s.group? 1 0).isSome = true ∧
     (thr s).bankW.contains put5.id = true ∧ put5.size ≤ 64) ∧
    (let s := clasped fun k => { k with gives := [gift] }
     ((s.cluster 0).gives.find? fun h => h.id == gift.id) = some gift ∧ gift.dst = some (2, 0) ∧ gift.complete = false ∧ gift.lost = false ∧
     s.drained gift.ctx gift.slot gift.bank = true ∧ (s.team? gift.ctx).isSome = true ∧ (s.team? 2).isSome = true) ∧
    (let g := { gift with lost := true }
     let s := clasped fun k => { k with gives := [g] }
     ((s.cluster 0).gives.find? fun h => h.id == g.id) = some g ∧ s.drained g.ctx g.slot g.bank = true) ∧
    (let s := clasped id fun q => { q with mode := .stash, stash := some stashed }
     let r := { req3 .load with client := .stash 0 5 q3 }
     s.stashOf 0 r.va.toNat = some (1, 1, stashed, 0) ∧ (s.team? 1).isSome = true ∧ ((tm s).slot 1).bank = 5 ∧ r.excl = false ∧
     ((tm s).slot 1).stash = some stashed ∧ (s.slice (s.sliceFor r.part r.die r.va.toNat)).wait = [] ∧
     ({ s with slices := (sliced (.K 0)).slices } : State).stashBacked 0 (r.va.toNat / 64) = true) ∧
    (sliced .E).ownerSlice (0 / 24) (podPtr / 64) = some (0, held .E) ∧
    (sliced (.K 0)).ownerSlice (0 / 24) (podPtr / 64) = some (0, held (.K 0)) ∧ waiting3.ownerSlice (95 / 24) (podPtr / 64) = none := by decide +kernel

/-- Operation 8 of group 0: octet 0 of strips 0 on, A in tile 0, ones for B. -/
def mma8 : MmaOp := ⟨8, 1, 0, [0], 0, 0, 0, 1, 2, 0, (0, 0), (0, 0), 3, 1, [], [], false, []⟩
/-- It is in the core's queue, tile 0 has the form of I8 bytes. -/
def matrixed (o : MmaOp) (f : Group → Group := id) (form : BitVec 8 := 0x12) : State :=
  (waiting3.modGroup 1 0 fun g => f { g with forms := [(0, form)], cnt := [(1, 1)] }).modCore 0 fun k => { k with mq := [o] }
def zeroRow : Lined := ⟨List.replicate 124 0, 0, false, false⟩
/-- A product whose sums pass their checks is taken. -/
theorem octetStep_ok {s : State} {o : MmaOp} {q : Nat} {p : Nat × Nat × Nat} {w : Bool} {rows cols : List Lined} (a : OctetAcc)
    (ho : s.operands o q p.1 p.2.1 = some (w, rows, cols)) (h : ∀ r ∈ rows, ∀ c ∈ cols, checkedSum w none (dot r.xs c.xs) ≠ none) :
    ∃ b, s.octetStep o q none a p = .ok b := by
  simp only [State.octetStep, ho]
  rw [if_neg]
  · exact ⟨_, rfl⟩
  · simp only [Bool.not_eq_true, List.any_eq_false, List.mem_map]
    rintro v ⟨x, hx, rfl⟩
    obtain ⟨r, hr, hc⟩ := List.mem_flatMap.1 (List.of_mem_zip hx).1
    obtain ⟨c, hc, hx⟩ := List.mem_map.1 hc
    rw [← hx]
    have := h r hr c hc
    split <;> simp_all
/-- Operands of which B is all ones. -/
theorem operands_ones {s : State} {o : MmaOp} {rows : List Lined} (h1 : o.ones = true) (hf : s.opForms o 0 0 0 = some (0x12, 1))
    (hr : s.opRows o false 0 0 0x12 false = some rows) : s.operands o 0 0 0 = some (false, rows, List.replicate 128 (onesCol false)) := by
  have h4 : o.bothS4 (0x12, 1) = false := by simp [MmaOp.bothS4]
  simp only [State.operands, hf, h4, hr, h1, if_true]
  rfl
/-- Its octet takes its products, all 0; with a form that is no format it fails. -/
theorem witness_MatrixEventResult_octet : (∃ a, (matrixed mma8).octet mma8 0 none mma8.products ([], 0#5) = .ok a) ∧
    ∃ n, (matrixed mma8 id 0).octet mma8 0 none mma8.products ([], 0#5) = .error n := by
  have hp : mma8.products = [(0, 0, 0)] := by decide +kernel
  rw [hp]
  constructor
  · have hz : checkedSum false none (dot zeroRow.xs (onesCol false).xs) = some 0 := by decide +kernel
    obtain ⟨b, hb⟩ := octetStep_ok ([], 0#5) (operands_ones (s := matrixed mma8) (o := mma8) (rows := List.replicate 8 zeroRow) (by decide +kernel)
      (by decide +kernel) (by decide +kernel)) (q := 0) (p := (0, 0, 0)) fun r hr c hc => by
        rw [List.eq_of_mem_replicate hr, List.eq_of_mem_replicate hc, hz]
        exact Option.some_ne_none 0
    exact ⟨b, by simp only [State.octet, hb]⟩
  · have ho : (matrixed mma8 id 0).operands mma8 0 0 0 = none := by decide +kernel
    exact ⟨1, by simp only [State.octet, State.octetStep, ho]⟩
theorem witness_MatrixEventResult :
    let s := matrixed mma8
    s.mmaOp? 0 8 = some mma8 ∧ (s.group? mma8.ctx mma8.grp).isSome = true ∧ mma8.octets.contains 0 = true ∧ mma8.doneOct.contains 0 = false ∧
    mma8.failed = [] ∧ (s.residues.find? fun f => f.op == mma8.id && f.oct == 0) = none ∧ (grp s).core = 0 ∧
    (∀ o ∈ [{ mma8 with doneOct := [0] }, { mma8 with failed := [(0, 2)] }],
      let s := matrixed o
      s.mmaOp? 0 8 = some o ∧ o.octets.length ≤ o.doneOct.length + o.failed.length ∧ (s.core 0).firstOp 1 0 = some o ∧ o.told = false ∧
      (∀ p ∈ o.failed, p.2 = 2) ∧ ((grp s).queues.getD 1 []).length + 1 ≤ 16 ∧ (grp s).overflow = []) ∧
    (let a : Arm := ⟨4, 1, 1, 2⟩
     (grp (matrixed mma8 fun g => { g with arms := [a] })).arms.find? (fun b => b.w0 == a.w0 && b.w1 == a.w1) = some a) ∧
    (let j : Mark := ⟨65535, 2, [7], false⟩
     let s := matrixed mma8 fun g => { g with marks := [j], queues := [(1, List.replicate 15 0)] }
     (grp s).marks.find? (fun k => k.m == j.m && s.markReady 0 k) = some j ∧ ((grp s).queues.getD 1 []).length + 1 = 16) ∧
    (let s := matrixed { mma8 with n := 3 } fun g => { g with reports := [(2, 5)] }
     (grp s).reports = [(2, 5)] ∧ ∀ p ∈ (s.core 0).mq, 2 < p.n) := by decide +kernel

/-- Command 9 of class `cls`. -/
def cmdOf (cls : Nat) (ws : List DWord) : Cmd :=
  { id := 9, cls := cls, ctx := 1, grp := 0, core := 0, part := 0, dom := 0, words := ws, relocs := (false, false), seq := 2, n := 1, sg := 7, dg := 7
    after := none, mma := 0, started := false, pos := 0, delivered := 0, skip := 0, buf := [], asked := none, wmax := 0, flags := 0, err := 0
    finished := false, told := false, list := [], matched := none, blk := 0, blkPos := 0, lastN := 62, pins := [] }
/-- A plain copy of 64 bytes from the pod into slot 1, with NOTIFY. -/
def plainCopy : Cmd := cmdOf 0 [dw podPtr, BitVec.ofNat 64 (at_ 1 131008), 0x0020000200000000, 64]
def busy (c : Cmd) (w : List BankWrite := []) : State := clasped fun k => { k with cmds := [c], writes := w }
/-- One command of each kind, ready; those of the pod have a piece to read or to deliver, one that has delivered all has none. -/
theorem witness_EngineEventResult :
    (∀ c ∈ [plainCopy, cmdOf 0 [dw podPtr, 0, 0x2000000000000000, 0x0001000000100040], cmdOf 0 [dw podPtr, dw podPtr, 0x4400000000000000, 248],
        cmdOf 0 [dw podPtr, dw podPtr, 0x6000000000000000, 64], cmdOf 0 [0, dw podPtr, 0x8000000000000000, 0x0004000000000000],
        cmdOf 2 [dw podPtr, BitVec.ofNat 64 (at_ 1 0), 0, 0x0000004000010040], { cmdOf 3 [dw podPtr, dw podPtr, 0, 4, 1] with matched := some [] },
        { cmdOf 3 [dw podPtr, dw podPtr, 0x4000000000000000, 4, 1] with matched := some [] },
        { cmdOf 3 [dw podPtr, dw podPtr, 0x8000000000000000, 4, 1] with matched := some [] }],
      (busy c).cmd? c.id = some (0, c) ∧ (busy c).cmdReady 0 c = true ∧ ((busy c).piece c).isSome = true ∧ c.fromBank = false ∧ c.buf = []) ∧
    ((cmdOf 0 [0, 0, 0x2000000000000000, 0]).event = .copyStrided 9 ∧ (cmdOf 0 [0, 0, 0x4400000000000000, 0]).event = .copyTaggedPack 9 ∧
      (cmdOf 0 [0, 0, 0x6000000000000000, 0]).event = .copyTaggedUnpack 9 ∧ (cmdOf 0 [0, 0, 0x8000000000000000, 0]).event = .copyStripDrain 9 ∧
      plainCopy.event = .copyPlain 9 ∧ (cmdOf 2 []).event = .gather 9 ∧ (cmdOf 3 []).event = .reduceScatter 9 ∧
      (cmdOf 3 [0, 0, 0x4000000000000000]).event = .allGather 9 ∧ (cmdOf 3 [0, 0, 0x8000000000000000]).event = .allReduce 9) ∧
    ((busy { plainCopy with pos := 64 }).piece { plainCopy with pos := 64 }).isNone = true := by decide +kernel
/-- The copy with its 64 source bytes read, whose write ends with the bank. -/
theorem witness_EngineEventResult_delivers :
    let c := { plainCopy with buf := List.replicate 64 3 }
    let s := busy c
    (match s.piece c with
     | some p => decide (p.len ≤ c.buf.length) && (match p.make c.buf with
       | .ok r => decide (c.skip < c.pos + r.1.length ∧ (c.words.getD 1 0).toNat % 2 ^ 17 + p.off + r.1.length = 131072)
       | .error _ => false)
     | none => false) = true ∧ c.toBank = true ∧ (c.words.getD 1 0).toNat / 2 ^ 27 % 2 = 0 ∧
    s.slotBank c.ctx c.pins ((c.words.getD 1 0).toNat / 2 ^ 17 % 16) = some 5 ∧ s.cmdReady 0 c = true := by decide +kernel
/-- What a command's next piece makes of the bytes it has. -/
def made (c : Cmd) : Option (Except Nat (List Byte × Flags)) := ((busy c).piece c).map fun p => p.make c.buf
/-- A block packed for the pod; a block of a code that is none; bytes delivered before a move. -/
theorem witness_EngineEventResult_pieces :
    (let c := { cmdOf 0 [dw podPtr, dw podPtr, 0x4400000000000000, 248] with buf := List.replicate 248 0 }
     (busy c).cmdReady 0 c = true ∧ c.toBank = false ∧ (match made c with
      | some (.ok r) => decide (r.1.length = 64 ∧ c.skip < c.pos + r.1.length)
      | _ => false) = true) ∧
    (let c := { cmdOf 0 [dw podPtr, dw podPtr, 0x6000000000000000, 64] with buf := List.replicate 64 5 }
     (busy c).cmdReady 0 c = true ∧ (match made c with
      | some (.error n) => decide (n = 1)
      | _ => false) = true) ∧
    (let c := { plainCopy with buf := List.replicate 64 3, skip := 64 }
     (busy c).cmdReady 0 c = true ∧ (match made c with
      | some (.ok r) => decide (c.pos + r.1.length ≤ c.skip)
      | _ => false) = true) := by decide +kernel
/-- A collective of devices 0 and 1, TAG 9: device 1 has posted one like it, one of another count, or none; or another command matches. -/
theorem witness_EngineEventResult_match :
    let c := { cmdOf 3 [dw podPtr, dw podPtr, 0x0200000000000000, 0x0000000900000004, 2, 0] with list := [0, 1] }
    let s := busy c
    let tag : CollTag := ⟨0, 9, [0, 1]⟩
    s.cmd? 9 = some (0, c) ∧ c.cls = 3 ∧ c.matched = none ∧ c.finished = false ∧ (tm s).leaving = .no ∧ tag.dom = c.dom ∧ tag.tag = lTag c.words ∧
    tag.list = c.list ∧ (∀ d ∈ c.list, d = s.dev.no ∨ d = 1) ∧ lOp c.words = 0 ∧ (c.words.getD 2 0).getLsbD 61 = false ∧ lCount c.words = 4 ∧
    lNdev c.words = 2 := by decide +kernel
theorem witness_EngineEventResult_ends :
    (let w : BankWrite := ⟨4, none, some 9, 0, 5, 131008, 64, 1, none⟩
     (busy plainCopy [w]).clusters.findSome? (fun k => (k.2.writes.find? fun w => w.engine == some 9).map fun w => (k.1, w)) = some (0, w) ∧
     (plainCopy.words.getD 2 0).getLsbD 54 = false) ∧
    (let c := { plainCopy with finished := true }
     ((busy c).cluster 0).firstCmd c = true ∧ (plainCopy.words.getD 2 0).getLsbD 53 = true ∧ ((grp (busy c)).queues.getD 2 []).length < 16 ∧
     (grp (busy c)).overflow = []) := by decide +kernel

/-- A first push, a last push of a copy between pod ranges, and a pop of an empty queue and of one with two entries. -/
theorem witness_QueueEngineCompletion :
    (let i : Instr := .qpush false ⟨2, 10, 11, true⟩
     let s := pushing 2 [] 5 6 i
     uniOk s i [10, 11] = true ∧ (s.uniCtx.map fun u => u.group.chain) = some none) ∧
    (let i : Instr := .qpush false ⟨2, 10, 11, false⟩
     let s := World (pushing 2 [dw podPtr, dw (podPtr + 4096)] 0 0xFFFFF i)
     uniOk s i [10, 11] = true ∧ (s.uniCtx.map fun u => (u.group.chain, u.group.gr 10, (u.group.gr 11).toNat)) =
       some (some (2, [dw podPtr, dw (podPtr + 4096)]), 0, 0xFFFFF) ∧
     (s.uniCtx.map fun u => [(podPtr, 0), (podPtr + 4096, 1)].all fun p => locketOk u.team.keys (relocate u.team.apx (dw p.1)) p.2) = some true ∧
     (∀ x ∈ (grp s).threads, x.2.stores = [] ∧ x.2.bankW = []) ∧ ((grp s).cnt.map fun c => c.2).sum < 64 ∧
     ((s.cluster 0).cmds.filter fun c => c.cls == 0).length < 64) ∧
    ∀ q ∈ [[], [(4, [7, 8])]], let i : Instr := .qpop true 8 4
      let s := (uni [] i).modGroup 1 0 fun g => { g with queues := q, overflow := [(5, 9)] }
      uniOk s i [8] = true ∧ (∀ w ∈ (grp s).overflow, w.1 ≠ 4) := by decide +kernel
/-- A command that may read next: of each kind in the middle of its data, at a row's last byte, at its second block, at its own operand of a
collective of two devices, and one that has delivered all. -/
theorem witness_QueueEngineCompletion_reads :
    ∀ c ∈ [{ plainCopy with pos := 63 }, { plainCopy with pos := 64 },
        { cmdOf 0 [dw podPtr, dw podPtr, 0x2000000000000000, 0x0001000300300040] with pos := 255 },
        { cmdOf 0 [dw podPtr, dw podPtr, 0x2000000000000000, 0x0001000300300040] with pos := 256 },
        { cmdOf 0 [dw podPtr, dw podPtr, 0x4400000000000000, 496] with pos := 64 }, { cmdOf 0 [dw podPtr, dw podPtr, 0x4400000000000000, 496] with pos := 128 },
        { cmdOf 0 [dw podPtr, dw podPtr, 0x6000000000000000, 128] with blk := 1 }, { cmdOf 0 [dw podPtr, dw podPtr, 0x6000000000000000, 128] with blk := 2 },
        { cmdOf 0 [0, dw podPtr, 0x8000000000000000, 0x0021000000000000] with pos := 4095 },
        { cmdOf 0 [0, dw podPtr, 0x8000000000000000, 0x0021000000000000] with pos := 4096 },
        { cmdOf 2 [dw podPtr, BitVec.ofNat 64 (at_ 1 0 + at_ 1 131060 * 2 ^ 32), 0, 0x0000004000020010] with pos := 47 },
        { cmdOf 2 [dw podPtr, BitVec.ofNat 64 (at_ 1 0 + at_ 1 131060 * 2 ^ 32), 0, 0x0000004000020010] with pos := 48 },
        { cmdOf 3 [dw podPtr, dw podPtr, 0, 4, 2] with list := [1, 0], pos := 12, matched := some [] },
        { cmdOf 3 [dw podPtr, dw podPtr, 0x4000000000000000, 4, 2] with list := [1, 0], pos := 16, matched := some [] },
        { cmdOf 3 [dw podPtr, dw podPtr, 0x8000000000000000, 4, 2] with list := [1, 0], pos := 32, matched := some [] }],
      let d := { c with started := true }
      let s := busy d
      s.cmd? d.id = some (0, d) ∧ (∀ x ∈ (s.cluster 0).cmds, x.id = d.id → x = d) ∧ (tm s).leaving = .no ∧ d.finished = false ∧ d.asked = none ∧
      (∀ x ∈ (s.cluster 0).writes, x.engine ≠ some d.id) ∧ d.buf = [] ∧ (d.words.getD 2 0).getLsbD 34 = false ∧ d.skip ≤ d.pos ∧
      (d.cls = 2 → (131060 + 4 * (47 / 16) + 4 ≤ 131072) ∧ s.slotBank d.ctx d.pins ((d.words.getD 1 0).toNat / 2 ^ 32 / 2 ^ 17 % 16) = some 5) := by
  decide +kernel
/-- A matched collective; a bank write of a plain copy without a sync word; a finished command without NOTIFY. -/
theorem witness_QueueEngineCompletion_ends :
    (let c := { cmdOf 3 [dw podPtr, dw podPtr, 0x0200000000000000, 0x0000000900000004, 2, 0] with list := [0, 1] }
     let peers : List Peer := [⟨0, 0, false, 4, 2, []⟩, ⟨1, 0, false, 4, 2, [1, 2, 3, 4]⟩]
     c.cls = 3 ∧ (c.words.getD 3 0).toNat / 2 ^ 32 = 9 ∧ (∀ d ∈ c.list, ∃ p ∈ peers, p.dev = d) ∧ (∀ p ∈ peers, p.dev ∈ c.list) ∧
     ∀ p ∈ peers, p.dev ≠ (busy c).dev.no → p.op.toNat = 0 ∧ p.bf16 = (c.words.getD 2 0).getLsbD 61 ∧ p.count = 4 ∧ p.ndev = 2) ∧
    (let c := { plainCopy with words := [dw podPtr, BitVec.ofNat 64 (at_ 1 131008), 0x0000000200000000, 64] }
     let w : BankWrite := ⟨4, none, some 9, 0, 5, 131008, 64, 1, none⟩
     (busy c [w]).clusters.findSome? (fun k => (k.2.writes.find? fun w => w.engine == some 9).map fun w => (k.1, w)) = some (0, w) ∧
     (c.words.getD 2 0).getLsbD 54 = false ∧ (c.words.getD 2 0).getLsbD 53 = false ∧
     ∀ d ∈ ((busy { c with finished := true }).cluster 0).cmds, d.ctx = c.ctx → d.grp = c.grp → d.cls = c.cls → c.n ≤ d.n) := by decide +kernel

/-! ## Events: tables, homes, fault queues, launch -/

/-- The device with DTDATA `x`, the table entries given, and its other fields by `f`. -/
def tabled (x : DWord) (dist : SMap DWord) (f : Device → Device := id) : State :=
  { waiting3 with dist := dist, dev := f { waiting3.dev with dtdata := x } }
/-- Table updates: busy; a value at each end of its rule; each change of state; a list word in use and one out of use; an aperture index;
a copy that a die still has to take, of each table, with and without the last; and none left. -/
theorem witness_TranslationCommandResult_tables :
    (tabled 0 [] fun d => { d with dtBusy := true }).dev.dtBusy = true ∧ (tabled 0 []).dev.dtBusy = false ∧ (tabled 0 []).dev.dtClosing = none ∧
    (tabled 0 []).dev.dtLeft = [] ∧ (tabled 0 []).dev.dtClosing ≠ some 1 ∧
    ((0x4000000000000000#64).toNat / 2 ^ 62 = 1 ∧ (0x8000000000000000#64).toNat / 2 ^ 62 = 2 ∧ (0#64).toNat / 2 ^ 62 = 0) ∧
    (tabled 0 [(1, 0x4000000500000003), (2, 0x8000000000000000)]).distAt 0 1 = 0x4000000500000003 ∧
    (tabled 0 [(1, 0x4000000500000003), (2, 0x8000000000000000)]).distAt 0 2 = 0x8000000000000000 ∧ (tabled 0 []).distAt 0 8191 = 0 ∧
    ((0x40003F40000000BF#64).toNat / 2 ^ 32 % 2 ^ 14 + (0x40003F40000000BF#64).toNat % 2 ^ 8 = 16383) ∧
    (0xC000000000000000#64).toNat / 2 ^ 62 = 3 ∧ (0x4000400000000000#64).toNat / 2 ^ 46 % 2 ^ 16 ≠ 0 ∧
    (0x4000000000000100#64).toNat / 2 ^ 8 % 2 ^ 24 ≠ 0 ∧ 16383 < 16192 + 192 ∧
    (0xBF#64).toNat % 256 < 192 ∧ 192 ≤ (0xC0#64).toNat % 256 ∧ (0x1FFF#64).toNat / 2 ^ 13 = 0 ∧ (0x2000#64).toNat / 2 ^ 13 ≠ 0 ∧
    (∀ k ∈ [0, 1, 2], ∀ left ∈ [[3], [0, 3]], ∀ c ∈ [none, some 1], let d := (tabled 0 [] fun d => { d with
        dtBusy := true, dtTable := k, dtIndex := 5, dtLeft := left, dtClosing := c }).dev
      d.dtLeft.contains 3 = true ∧ d.dtTable = k ∧ (d.dtLeft.erase 3 = [] ↔ left = [3])) := by decide +kernel
theorem witness_TranslationCommandResult_used :
    let s := tabled 0 [(1, 0x4000000500000003)]
    ∀ i < 16384, (∃ e ∈ s.dist, e.1 < 8192 ∧ (e.2.toNat / 2 ^ 62 = 1 ∨ e.2.toNat / 2 ^ 62 = 2) ∧ e.2.toNat / 2 ^ 32 % 2 ^ 14 ≤ i ∧
      i ≤ e.2.toNat / 2 ^ 32 % 2 ^ 14 + e.2.toNat % 2 ^ 8) ↔ 5 ≤ i ∧ i ≤ 8 := by
  intro s i _
  simp [s, tabled]
/-- A closing region: its entries taken, one still open, and a request still on its way. -/
theorem witness_TranslationCommandResult_close :
    let closing := fun (e : DirEntry) => { homed e with dev := { waiting3.dev with dtBusy := true, dtClosing := some 1 } }
    let s := closing { st := .RC, sharers := 1 }
    s.dev.dtClosing = some 1 ∧ s.dev.dtLeft = [] ∧ s.regionBusy 1 = false ∧ s.regionOpen 1 = [] ∧ s.regionReady 1 = true ∧
    (∀ h ∈ s.homes, h.2.heldReqs = []) ∧ s.regionHomes 1 = [0] ∧ (s.home 0).linesOf (inRegion 1) = [podPtr / 64] ∧ s.dev.dtClosing ≠ some 2 ∧
    (closing { st := .S, sharers := 1 }).regionOpen 1 = [0] ∧
    (let t := { s with agenda := [.homeRequest 0 { req3 .load with va := BitVec.ofNat 60 podPtr }] }
     t.regionBusy 1 = true) ∧ ({ s with dev := { s.dev with dtLeft := [2] } } : State).dev.dtLeft ≠ [] := by decide +kernel
/-- Home commands: busy; INSTALL of a bad value, of the page that is there and of one that is not; REMOVE of a page that is not there; MOVE. -/
theorem witness_TranslationCommandResult_homes :
    let s := waiting3
    let with_ := fun (w0 w1 : DWord) => s.modHome 0 fun h => { h with harg0 := w0, harg1 := w1 }
    let value := fun (w0 : DWord) (v : Nat) => (BitVec.ofNat 64 (w0.toNat / 2 ^ 57 * 2 ^ 57 + v) : DWord)
    ((homed {} fun h => { h with cmd := some ⟨4, 0, false, 0, 0⟩ }).home 0).cmd ≠ none ∧ (s.home 0).cmd = none ∧
    s.installBad 0 (vpn + 5) (value word0 (vpn + 5)) 0x0007000000000028 = false ∧
    s.installBad 0 (vpn + 5) (value 0xE000000000000000 (vpn + 5)) 0x0007000000000028 = true ∧
    s.installBad 0 (vpn + 5) (value word0 (vpn + 5)) 0x0007000000000020 = true ∧
    s.installBad 0 vpn (value word0 vpn) 0x0007000000000028 = false ∧ (s.pteFind 0 vpn).isSome = true ∧ s.pteFind 0 (vpn + 5) = none ∧
    (((s.home 0).probes (vpn + 5)).find? fun a => (s.pteAt 0 a).1.toNat / 2 ^ 63 == 0).isSome = true ∧
    s.moveBad 0 vpn 1 0 = none ∧ s.moveBad 0 vpn 2 0x28 = none ∧ s.moveBad 0 vpn 0 0x28 = some 6 ∧ s.moveBad 0 (vpn + 5) 1 0 = some 2 ∧
    ((with_ 1 0).home 0).harg0.toNat % 4 = 1 := by decide +kernel
/-- No free entry in the bucket of a page: its eight entries are other pages'. -/
theorem witness_TranslationCommandResult_full :
    let s := ((waiting3.home 0).probes vpn).foldl (fun s a => s.setPte 0 a 0x8000000000000007 0) waiting3
    s.pteFind 0 vpn = none ∧ (((s.home 0).probes vpn).find? fun a => (s.pteAt 0 a).1.toNat / 2 ^ 63 == 0) = none ∧
    s.installBad 0 vpn word0 0x0007000000000028 = false := by decide +kernel
/-- Home 0 with a command under way for the page, and a line of the page in its directory where `e` gives one. -/
def commanded (c : HomeCmd) (e : Option DirEntry := none) : State :=
  waiting3.modHome 0 fun h => { h with cmd := some c, dir := e.toList.map fun e => (podPtr / 64, e) }
/-- A recall with an entry to take, one with all taken, one with none; moves to each tier, with an owned line and without; copies. -/
theorem witness_TranslationCommandResult_done :
    (∀ op ∈ [1, 2, 4], let c : HomeCmd := ⟨op, vpn, false, word0, word1⟩
      (let s := commanded c (some { st := .S, sharers := 1 })
       (s.home 0).cmd = some c ∧ s.recallReady 0 c.names = true ∧ s.recallOpen 0 c.names ≠ [] ∧ s.awayLines 0 c.names true = []) ∧
      (let s := commanded c (some { st := .RC, sharers := 1 })
       s.recallReady 0 c.names = true ∧ s.recallOpen 0 c.names = [] ∧ (s.home 0).linesOf c.names = [podPtr / 64]) ∧
      (let s := commanded c
       s.recallReady 0 c.names = true ∧ s.recallOpen 0 c.names = [] ∧ (s.home 0).linesOf c.names = [] ∧ (s.pteFind 0 c.vpn).isSome = true)) ∧
    (∀ tier ∈ [0, 1, 2], let c : HomeCmd := ⟨3, vpn, false, dw tier, 0x28⟩
      let s := commanded c (some { st := .X, owner := some (.die 0) })
      (s.home 0).cmd = some c ∧ c.w0.toNat % 4 = tier ∧ s.moveDrained 0 c = true ∧ s.awayLines 0 c.names false = [] ∧
        s.ownedLines 0 c.names = [podPtr / 64]) ∧
    (∀ tier ∈ [0, 1, 2], let c : HomeCmd := ⟨3, vpn, true, dw tier, 0x28⟩
      let s := commanded c
      (s.home 0).cmd = some c ∧ (∀ w ∈ (s.home 0).wbbuf, w.1 / 1024 ≠ c.vpn) ∧ (s.pteFind 0 c.vpn).isSome = true) ∧
    (waiting3.home 0).poolFit 15 = some 64 ∧ (waiting3.home 0).poolFit 17 = none := by decide +kernel
/-- Bytes that are all zero take one unit. -/
theorem witness_TranslationCommandResult_units (n : Nat) : imageUnits (List.replicate n 0) = 1 := by
  simp only [imageUnits]
  split
  · rfl
  · rename_i h
    refine absurd (List.filter_eq_nil_iff.2 fun c hc => ?_) h
    simp [List.eq_of_mem_replicate (List.of_mem_zip hc).2]

/-- The fault queue of partition 63 with its ring at the page, and a token at home 0. -/
def queued (f : FaultQ) : State := waiting3.modPart 63 fun p => { p with fq := f }
/-- A page that a move at its home has made busy. -/
def moving (s : State) : State := s.modHome 0 fun h => { h with cmd := some ⟨3, vpn, false, 0, 0⟩ }
/-- A record with one free place for it: a ring that can be written now, one that cannot yet, and one in no region; a full ring. -/
theorem witness_FaultQueueResult :
    let ring : FaultQ := { base := dw (2 ^ 47), waiting := [5], tail := 62, armed := true, times := [0], cfg := 0 }
    let n := 2 ^ (min 10 (ring.cfg.toNat % 16) + 6)
    let va := vaOf ring.base + 64 * ring.tail
    let bs := toBytes 64 (BitVec.ofNat 512 ((5#512).toNat + (if ring.pass then 2 ^ 504 else 0) + ring.seq % 2 ^ 32 * 2 ^ 352)).toNat
    (ring.tail + 1) % n ≠ ring.head ∧ (ring.tail + 2) % n = ring.head ∧ (queued ring).ringBad 63 va bs = false ∧
    ((queued ring).podWrite (64 + 63) 2 va bs).isSome = true ∧
    (moving (queued ring)).ringBad 63 va bs = false ∧ (moving (queued ring)).podWrite (64 + 63) 2 va bs = none ∧
    (queued { ring with base := 0 }).ringBad 63 (64 * ring.tail) bs = true ∧
    0 < (ring.tail + n - ring.head) % n ∧ max 1 (ring.cfg.toNat / 2 ^ 32 % 2 ^ 8) ≤ 62 := by decide +kernel
/-- A live token of a replay and of a cancel, and one that is not live. -/
theorem witness_FaultQueueResult_tokens :
    let t : Token := ⟨2, vpn, 0, 63, 0, [(req3 .load, 1)]⟩
    let s := waiting3.modHome 0 fun h => { h with tokens := [(1023, t)] }
    let v : DWord := 0x4000000000000BFF
    v.toNat / 2 ^ 40 % 2 ^ 8 = s.dev.no ∧ v.toNat / 2 ^ 32 % 2 ^ 8 = 0 ∧ v.toNat % 1024 = 1023 ∧ v.toNat / 2 ^ 62 = 1 ∧
    (s.home 0).tokens.find? 1023 = some t ∧ v.toNat / 2 ^ 10 % 2 ^ 22 = 2 ∧ t.gen = 2 ∧ t.part = 63 ∧ t.dev = s.dev.no ∧
    (∀ x ∈ t.held, x.1.dev = s.dev.no ∧ x.1.client = .thread q3) ∧
    (0x8000000000000BFF#64).toNat / 2 ^ 62 = 2 ∧ (s.home 0).tokens.find? 1022 = none := by decide +kernel

theorem witness_KillResult : (waiting3.team? q3.ctx).isSome = true ∧ (waiting3.group? q3.ctx q3.grp).isSome = true ∧
    waiting3.grids.find? (tm waiting3).grid = some placedGrid ∧ placedGrid.killed = false := by decide +kernel

/-- A record of one team of one group of 16 threads with 8 registers and a bank, whose pool is the mapped page and the 65 after it: two images. -/
def rec1 : LRec :=
  { placedRec with roles := [⟨1, 8, 0, 0, 0⟩], banks := 1, ipool := dw (2 ^ 47), ipsize := 66 * 65536, handler := 0x20000, nteam := 2 }
def grid7 (f : Grid → Grid := id) : Grid := f { placedGrid with lrec := rec1, next := 0, slots := [], queue := 15 }
/-- Queue 15 of partition 0, on at a ring in the page, with grid 7 its head; the pages after it are mapped too. -/
def Pooled (s : State) : State :=
  s.modHome 0 fun h => { h with tcache := (List.range 66).map fun k => (vpn + k, (word0 + dw k, word1 + dw (2 * k))) }
def launched (f : Grid → Grid := id) (q : LQueue → LQueue := id) : State :=
  let s := Pooled waiting3
  { s with grids := s.grids.put 7 (grid7 f) }.modPart 0 fun p => { p with queues := [(15, q { en := true, wp := 1, base := dw (2 ^ 47), head := some 7 })] }
/-- The ring's entry holds this record's words, and the key set of queue 15 the keys at byte 4,096 of the page. -/
def ringed (bs : List Byte) (s : State) : State :=
  { s with hbm := (s.hbm.write (chan 0 (32 * 65536)) bs).write (chan 0 (32 * 65536 + 4096)) (toBytes 4 0x000F0007) }.modPart 0 fun p =>
    { p with prot := [(15, (dw (2 ^ 47 + 4096), 0))] }
/-- A record of one team of one group of 16 threads, with its pool in the page, no bank and no condition. -/
def recordBytes (nteam : Nat) : List Byte :=
  toBytes 8 0x10000 ++ toBytes 8 0 ++ toBytes 8 5 ++ toBytes 8 nteam ++ toBytes 8 0 ++ toBytes 8 0 ++ toBytes 8 (2 ^ 47) ++ toBytes 8 (66 * 65536) ++
    toBytes 8 (1 + 8 * 2 ^ 16) ++ toBytes 8 0
/-- What a take finds at LQRP: its record, what the check of CSIG came to, and the status. -/
def looks (s : State) : Option (Option (Option Bool × Option (Option Nat))) := (s.ringEntry 0 15).map fun e => e.map fun bs =>
  let ks := ((s.dispRead (s.keyMail 0 15) 64).getD none).map keysOf
  let r := parseRecord (bs.take 256)
  (s.csigMay 0 ((s.part 0).dom 15) r ks, s.refusal 0 ((s.part 0).dom 15) r ks false)
theorem witness_LaunchQueueResult :
    let s := ringed (recordBytes 1) (launched fun g => { g with next := 2 })
    let bad := ringed (recordBytes 0) (launched fun g => { g with next := 2 })
    s.takeOpen 0 15 = true ∧ looks s = some (some (some false, some none)) ∧ looks bad = some (some (some false, some (some 1))) ∧
    (s.dispRead (s.keyMail 0 15) 64).isSome = true ∧
    ((s.part 0).queue 15).en = true ∧ ((s.part 0).queue 14).en = false ∧ ((s.part 0).queue 15).dev = false := by decide +kernel
/-- A ring in no region, one whose home is busy, a head that is not dispatched yet, and a device-fed entry. -/
theorem witness_LaunchQueueResult_rings :
    (let s := launched (fun g => { g with next := 2 }) fun q => { q with base := 0 }
     s.takeOpen 0 15 = true ∧ looks s = some none) ∧
    (let s := moving (launched fun g => { g with next := 2 })
     s.takeOpen 0 15 = true ∧ (s.takeLook 0 15).isNone = true) ∧
    launched.takeOpen 0 15 = false ∧
    (let s := launched (fun g => { g with next := 2 }) fun q => { q with dev := true, base := dw (2 ^ 47) }
     s.takeOpen 0 15 = true ∧ (s.ringEntry 0 15).map (fun e => e.map List.length) = some (some 512)) := by decide +kernel
/-- A condition that holds, one that does not, both read at the page, and one that is not to be had yet. -/
theorem witness_LaunchQueueResult_polls :
    (∀ v ∈ [0, 1], let s := launched fun g => { g with ready := none, lrec := { rec1 with waits := [(1, dw podPtr, dw v)] } }
      15 ∈ s.waitingQueues 0 ∧ ((s.part 0).queue 15).head = some 7 ∧ (∀ d ∈ s.due, d.2 ≠ .waitConditionPoll 0 15) ∧
      ((s.grids.find? 7).map fun g => g.lrec.waits.map (s.condRead g)) = some [some (v == 0, 0)]) ∧
    (let s := moving (launched fun g => { g with ready := none, lrec := { rec1 with waits := [(1, dw podPtr, 0)] } })
     15 ∈ s.waitingQueues 0 ∧ ((s.grids.find? 7).map fun g => g.lrec.waits.map (s.condRead g)) = some [none]) := by decide +kernel
/-- A write of a completion word that its home performs at once. -/
def written (s : State) (at_ : Nat) (acc : Acc) (v : Nat) (f : Nat → Nat) : Option State := (s.podRmw 0 at_ 36 acc (toBytes 8 v) f).map fun r => r.2
/-- A grid that goes on, one that has ended before and at the time at which it may complete; its two writes made at once, the second
alone, and one that waits for its home. -/
theorem witness_LaunchQueueResult_grids :
    let ended2 := fun told => launched fun g => { g with ended := 2, hmax := 36, csigOk := true, told := told, lrec := { rec1 with csig := dw podPtr } }
    let g := fun told => grid7 fun g => { g with ended := 2, hmax := 36, csigOk := true, told := told, lrec := { rec1 with csig := dw podPtr } }
    let s := ended2 false
    (s.grids.find? 7 = some (g false) ∧ (g false).part = 0 ∧ (g false).queue = 15 ∧ rec1.nteam ≤ (g false).ended ∧ grid7.status = none ∧
      grid7.ended < rec1.nteam) ∧ 36 + 64 ≤ s.nowOn (s.seat 0) ∧ s.nowOn (s.seat 0) < 37 + 64 ∧
    vaOf (relocate (BitVec.ofNat 13 (s.aptAt (s.seat 0) 0).toNat) (dw podPtr)) = podPtr ∧
    ((written s (podPtr + 8) .store 0 fun _ => 0).bind fun s1 => written (s1.modGrid 7 fun g => { g with told := true }) podPtr (.atomic 11)
      rec1.cval.toNat fun old => (old + rec1.cval.toNat) % 2 ^ 64).isSome = true ∧
    (ended2 true).grids.find? 7 = some (g true) ∧
    (written (ended2 true) podPtr (.atomic 11) rec1.cval.toNat fun old => (old + rec1.cval.toNat) % 2 ^ 64).isSome = true ∧
    (match (moving s).signal 7 (g false) with
     | .error _ => true
     | .ok _ => false) = true := by decide +kernel

/-- The turn of grid 7: who goes, and whether the images are at hand and their layouts known. -/
def turnOf (s : State) : Option (Nat × List Bool × Bool × Bool) := (s.turn 0).bind fun t => (s.grids.find? 7).map fun g =>
  (t.1, t.2.map fun p => p.who.away.isSome, s.spotsHeld g t.2, s.spotsUnknown t.2)
/-- A saved team of grid 7, its image in the page. -/
def away7 (arr : Nat) : Away :=
  ⟨0, 40, 0, { placedTeam with grid := 7, part := 0, leaving := .halted, roles := [⟨1, 8, 0, arr, 0⟩], width := 16, image := 2 ^ 47, window := [] }, [], []⟩
/-- A new team whose image can be zeroed, one whose image cannot yet; a new set of two; a saved team; one whose array image names no layout. -/
theorem witness_TeamDispatchEndResult_dispatch :
    turnOf launched = some (7, [false], true, false) ∧ rec1.cset = false ∧ turnOf (moving launched) = some (7, [false], false, false) := by
  decide +kernel
theorem witness_TeamDispatchEndResult_sets :
    turnOf (launched fun g => { g with lrec := { rec1 with cset := true, csize := 2 } }) = some (7, [false, false], true, false) := by decide +kernel
theorem witness_TeamDispatchEndResult_resumes :
    turnOf (launched fun g => { g with next := 2, away := [away7 0] }) = some (7, [true], true, false) ∧
    turnOf (launched fun g => { g with next := 2, away := [away7 1] }) = some (7, [true], true, true) := by decide +kernel
/-- A team of grid 1 all of whose threads have exited; grids stalled for as long as it takes; a team at rest that leaves. -/
def ended (f : Team → Team := id) (g : Grid → Grid := id) (x : Thread → Thread := id) : State :=
  let s := (alone (.nop false) x).modCore 0 fun k => { k with runs := [] }
  let s := s.modTeam 1 f
  { Pooled (Mapped (World s)) with grids := [(1, g placedGrid)] }
theorem witness_TeamDispatchEndResult_ends :
    (let s := ended fun t => { t with groups := t.groups.mapVals fun _ g => { g with threads := g.threads.mapVals fun _ x => { x with st := .exited } } }
     s.teamOver 1 = true ∧ (s.team? 1).isSome = true ∧ (tm s).grid = 1 ∧ (tm s).window = []) ∧
    (ended id fun g => { g with blocked := some 0 }).grids.find? 1 = some { placedGrid with blocked := some 0 } ∧ 0 + 1000000 ≤ 1000000 ∧
    (let s := { ended id (fun g => { g with stalled := some 0, lrec := { g.lrec with prog := true } }) with clock := 2 ^ 17 }
     (s.grids.find? 1).map s.stallDue = some true) ∧
    (let s := { ended id (fun g => { g with stalled := some 0 }) (fun x => { x with st := .waiting .barg }) with clock := 2 ^ 25 }
     (s.grids.find? 1).map s.stallDue = some true ∧ trapOk s = true ∧ (thr s).arr = none ∧
     (s.teams.flatMap fun t => if t.2.grid = 1 then
        t.2.groups.flatMap fun k => k.2.threads.filterMap fun y =>
          if s.waitsLong k.2.core ⟨t.1, k.1, y.1⟩ y.2 then some ((⟨t.1, k.1, y.1⟩ : ThreadRef), k.2.core, y.2.pc) else none
      else []) = [(q3, 0, (thr s).pc)]) := by decide +kernel
/-- A halted team at rest; one with a lane-store line of its image on its way; the same in the two later stages of its departure. -/
theorem witness_TeamDispatchEndResult_departs :
    let leaves := fun (f : Team → Team) => ended fun t => f { t with
      leaving := .halted, roles := rec1.roles, image := 2 ^ 47, window := []
      groups := t.groups.mapVals fun _ g => { g with threads := g.threads.mapVals fun _ x => { x with st := .ready } } }
    let sent := fun (s : State) => { s with mail := [⟨5, 0, 2 ^ 47, 64, .store, 0, 0, zeroLine, 0, .asked⟩] }
    (leaves id).departReady 1 = true ∧ (tm (leaves id)).saving = 0 ∧ (tm (leaves id)).grid = 1 ∧ (sent (leaves id)).departReady 1 = false ∧
    List.find? (fun (p : Nat × Nat) => p.2 == 1) placedGrid.slots = some (0, 1) ∧
    ∀ k ∈ [1, 2], let s := leaves fun t => { t with saving := k }
      (tm s).saving = k ∧ s.imageQuiet 1 (tm s) = true ∧ (sent s).imageQuiet 1 (tm s) = false := by decide +kernel

/-- Rungs 0 to 3, with GRACE 0 and above; a resident team of the queue and a grid of it that is not over. -/
theorem witness_LadderResult :
    (∀ r ∈ [0, 1, 2, 3], ∀ v ∈ [0, 0xC8], ((waiting3.modPart 0 fun p => { p with rung := r, pcfg := dw v }).part 0).rung = r) ∧
    3000 * ((0xC8#64).toNat % 2 ^ 16) ≠ 0 ∧ (waiting3.team? 1).map (fun t => (t.part, t.queue, t.leaving)) = some (0, 0, .no) ∧
    placedGrid.status = none ∧ placedGrid.ended < placedGrid.lrec.nteam ∧ placedGrid.killed = false := by decide +kernel

/-! ## Events: partitions, links, Bezel -/

/-- A layout set with one cluster, a slice of its die and windows. -/
def lay (c : DWord) (fs : DWord) : Layout := { clm0 := c, sls0 := c, memw := fs }
/-- Partition 63 takes a cluster, with a team on it and without; two partitions ask for one cluster. -/
def laid (p : Nat) (f : Device → Device := id) : State :=
  { State.reset with parts := [(p, { shadow := lay 2 0x0000000000400000 })], dev := f {} }
/-- Whether the shadow sets are valid depends on them alone. -/
theorem laid_bad (s : State) (h : s.parts = (laid 63).parts) : s.layoutBad = false := by
  have : (laid 63).layoutBad = false := by decide +kernel
  simpa only [State.layoutBad, State.part, h] using this
theorem witness_LayoutResetResult_commit :
    (laid 63 fun d => { d with layBusy := true }).dev.layBusy = true ∧ (laid 63).dev.layBusy = false ∧
    (laid 63).layoutA = [(63, lay 2 0x0000000000400000)] ∧ (laid 63).partBusy 63 = false ∧ (laid 63).movingClusters (laid 63).layoutA = [1] ∧
    (laid 63).movingSlices (laid 63).layoutA = [1] ∧
    ({ laid 63 with parts := [(0, { shadow := lay 2 0 }), (1, { shadow := lay 2 0 })] } : State).layoutBad = true := by decide +kernel
theorem witness_LayoutResetResult_valid : (laid 63).layoutBad = false := laid_bad _ rfl
theorem witness_LayoutResetResult_busy :
    let s := { laid 63 with teams := [(1, { placedTeam with part := 63 })] }
    s.layoutBad = false ∧ s.layoutA.map Prod.fst = [63] ∧ s.partBusy 63 = true :=
  ⟨laid_bad _ rfl, by decide +kernel⟩
/-- Each state of the journal; a flush still under way, one that has ended, and a commit whose dropped copies are still on their way. -/
theorem witness_LayoutResetResult_flip :
    let a := [(63, lay 2 0x0000000000400000)]
    let s := laid 63 fun d => { d with layA := a, layBusy := true }
    let p := laid 63 fun d => { d with journal := .prep a, layA := a, layBusy := true, layHeld := [[5, 63], [6]] }
    (s.dev.journal = .idle ∧ s.flushMore = false ∧ s.flipReady = true) ∧
    ({ s with slices := [(1, { lines := [(5, held .S)] })] } : State).flushMore = true ∧
    (let t := { s with agenda := [.cleanDropNotice 0 0 64 5] }
     t.flushMore = false ∧ t.flipReady = false) ∧
    p.dev.journal = .prep a ∧ (a.map Prod.fst).Nodup ∧ (laid 63 fun d => { d with journal := .flip [5, 63], layHeld := [[5, 63], [6]] }).dev.journal =
      .flip [5, 63] ∧ ([5, 63].all fun k => [5, 63].contains k) = true ∧ ([6].all fun k => [5, 63].contains k) = false := by decide +kernel
/-- A reset of partition 63: asked for; not of it; its lines, its clusters, its requests and its pages in turn. -/
theorem witness_LayoutResetResult_reset :
    let own := fun (s : State) => { s with parts := [(63, { live := lay 2 0x0008000000400000 })] }
    let s := own (laid 63 fun d => { d with resetting := some 63, layBusy := true })
    let c := own (laid 63 fun d => { d with resetting := some 63, layBusy := true, cycled := true })
    let r := own (laid 63 fun d => { d with resetting := some 63, layBusy := true, cycled := true, recalling := some 63 })
    let q : Req := { req3 .load with part := 63 }
    (s.dev.resetting = some 63 ∧ s.dev.resetting ≠ some 62 ∧ s.dev.cycled = false) ∧
    (s.resetDue 63 = true ∧ s.resetFlushes 63 = false ∧ (s.part 63).clusters = [1] ∧ (s.part 63).live.slices = [1]) ∧
    (let t := { s with slices := [(1, { lines := [(5, held .S)] })] }
     t.resetDue 63 = true ∧ t.resetFlushes 63 = true) ∧
    ({ s with grids := [(1, { placedGrid with part := 63 })] } : State).resetDue 63 = false ∧
    (let t := { c with agenda := [.homeRequest 0 q] }
     t.resetDue 63 = true ∧ t.tagged 63 = true) ∧
    (c.resetDue 63 = true ∧ c.tagged 63 = false ∧ c.tenantDue 63 = false) ∧
    (r.resetDue 63 = true ∧ r.tagged 63 = false ∧ r.tenantDue 63 = true ∧ ∀ h ∈ r.homes, h.2.heldReqs = []) := by decide +kernel
/-- A partition that may be reset, with a grid of one of its queues that is not over. -/
theorem witness_LayoutResetResult_kills : waiting3.dev.layBusy = false ∧ waiting3.grids.find? 1 = some placedGrid ∧ placedGrid.part = 0 ∧
    placedGrid.queue < 16 ∧ placedGrid.status = none ∧ placedGrid.ended < placedGrid.lrec.nteam ∧ placedGrid.killed = false := by decide +kernel

/-- A blob of no page at address 0, of windows of 1 frame and 1 domain, sealed under session 5, whose key the device holds. -/
def blob0 : Blob :=
  { addr := 0, session := 5, fbase := 0, fcount := 1, dbase := 0, dcount := 1, frames := [], pages := [], aps := [], prot := [], live := {}
    queues := [(0, {})], grids := [] }
def migrating (f : Part → Part := id) : State :=
  { State.reset with parts := [(63, f { live := lay 2 0x0008000000400000 })], dev := { blobs := [blob0], transport := [5], recalling := some 63 } }
theorem witness_MigrationResult :
    migrating.halted 63 = true ∧ migrating.dev.hasKey 5 = true ∧ migrating.dev.hasKey 6 = false ∧
    (migrating.tenantDue 63 = true ∧ (∀ h ∈ migrating.homes, h.2.heldReqs = []) ∧ migrating.dev.recalling = some 63) ∧
    ({ migrating with dev := { migrating.dev with recalling := none } } : State).tenantDue 63 = false ∧
    (some 62 ≠ some 63) ∧ (migrating fun p => { p with queues := [(0, { en := true })] }).halted 63 = false ∧
    migrating.dev.blobs.find? (fun b => b.addr == migrating.dev.mblob) = some blob0 ∧ migrating.partBusy 63 = false ∧ migrating.grids = [] ∧
    blob0.fcount = (migrating.part 63).frames.2 ∧ blob0.dcount = (migrating.part 63).doms.2 ∧ blob0.session = 5 ∧ blob0.session ≠ 6 ∧
    ((migrating.importFrames blob0 (migrating.part 63)).importPages blob0 (migrating.part 63) []).isSome = true ∧ blob0.pages = [] ∧
    ((migrating fun p => { p with live := {} }).part 63).frames.2 ≠ blob0.fcount ∧
    (migrating.part 63).imported = false ∧ ((migrating fun p => { p with imported := true }).part 63).imported = true := by decide +kernel
/-- A page that finds no table at its home; a partition with a team; no blob at MBLOB; a blob whose key is lost. -/
theorem witness_MigrationResult_fails :
    (migrating.importPage blob0 (migrating.part 63) (0, 0x8000000000000000, 0, [])).isNone = true ∧
    ({ migrating with teams := [(1, { placedTeam with part := 63 })] } : State).partBusy 63 = true ∧
    ({ migrating with dev := { migrating.dev with mblob := 64 } } : State).dev.blobs.find? (fun b => b.addr == 64) = none ∧
    ({ migrating with dev := { migrating.dev with transport := [] } } : State).dev.hasKey 5 = false := by decide +kernel

/-- A port that is up and has acknowledged a flit of the sequence number 0xFFFF. -/
def ported (f : Port → Port) : State := { State.reset with dev := { ports := [(31, f { up := true, ack := 0xFFFF })] } }
/-- A flit of partition 63 from device 0 to device 1, with no message. -/
def flit (seq : BitVec 16) : FabricFlit :=
  { crcOk := true, tagOk := true, seq := seq, ack := 0, ptag := 63, vc := 0, count := 0, src := 0, dest := 1, msgs := [] }
/-- A flit's header fits its messages. -/
def headed (f : FabricFlit) : Bool := decide ((f.msgs.map msgFlits).sum = f.count.toNat ∧
  ∀ m ∈ f.msgs, msgVc m = f.vc ∧ (f.vc = 3 ∨ msgPart m % 64 = f.ptag.toNat))
/-- Flits in order, repeated, ahead and far ahead; bad CRC and tag; one that is for this device, for another, and one whose header does not fit. -/
theorem witness_FabricNetworkResult_flits :
    let s := ported id
    let ahead := fun (k : BitVec 16) => (k - (s.port 31).ack).toNat
    (s.port 31).up = true ∧ ((ported fun p => { p with up := false }).port 31).up = false ∧ ahead 0 = 1 ∧ ahead 0xFFFF = 0 ∧ ahead 0x7FFF = 2 ^ 15 ∧
    ahead 1 = 2 ∧ ahead 0x7FFE = 2 ^ 15 - 1 ∧ (flit 0).crcOk = true ∧ ({ flit 0 with crcOk := false } : FabricFlit).crcOk = false ∧
    ({ flit 0 with tagOk := false } : FabricFlit).tagOk = false ∧ (∀ x ∈ (s.port 31).replay.take (s.port 31).out, x.flit.seq ≠ 0) ∧
    headed { flit 0 with dest := 0 } = true ∧ ({ flit 0 with dest := 0 } : FabricFlit).dest.toNat = s.dev.no ∧ (flit 0).dest.toNat ≠ s.dev.no ∧
    (flit 0).vc ≠ 3 ∧ headed { flit 0 with count := 1 } = false ∧ headed { flit 0 with vc := 3, ptag := 0, msgs := [.keyUpdate 1] } = true ∧
    ((req3 .load).dev, (req3 .load).id) ∉ s.dev.served ∧ (∀ a ∈ s.dev.asked, a.2.2.id ≠ (req3 .load).id) := by decide +kernel
/-- A port with a flit on its way, one of whose replays is its eighth; an acknowledgement of it; one with a message that is no request. -/
def lined (k : Nat) (f : FabricFlit := flit 3) : Port → Port := fun p => { p with replay := [⟨f, 0, 0⟩], out := 1, replays := k }
theorem witness_FabricNetworkResult_ports :
    (∀ k ∈ [7, 8], let q := (ported (lined k)).port 31
      q.up = true ∧ q.retraining = false ∧ q.out ≠ 0 ∧ q.replays = k ∧ q.replay.length ≤ q.out ∧
      (q.replay.take q.out).findIdx? (fun x => x.flit.seq == 3) = some 0) ∧
    (ported id).dev.asked = [] ∧ ((ported id).port 31).replay = [] ∧
    (([(1, 31, req3 .load), (1, 30, req3 .load)] : List (Nat × Nat × Req)).filter fun x => x.2.1 == 31) = [(1, 31, req3 .load)] ∧
    (let m : Remote := .withdrawn (req3 .load)
     let f := { flit 3 with vc := 2, count := 1, msgs := [m] }
     ((ported (lined 0 f)).port 31).replay = [⟨f, 0, 0⟩] ∧ f.msgs = [m] ∧ staysBehind m = false) ∧
    (let q := (ported fun p => { p with sent := 2 ^ 40 - 1 }).port 31
     q.sent < (q.epoch.toNat + 1) * 2 ^ 40) ∧
    (let q := (ported fun p => { p with sent := 2 ^ 40 }).port 31
     (q.epoch.toNat + 1) * 2 ^ 40 ≤ q.sent ∧ q.up = true ∧ q.retraining = false ∧ q.replay = [] ∧ q.out = 0) ∧
    epochOf [⟨{ flit 3 with vc := 3, msgs := [.keyUpdate 1] }, 0, 0⟩] ≠ none := by decide +kernel
theorem witness_FabricNetworkResult_time :
    waiting3.now + 8 < 109 ∧ 108 ≤ waiting3.now + 8 ∧ waiting3.now ≤ 92 + 8 ∧ 91 + 8 < waiting3.now ∧
    waiting3.now < waiting3.dev.podRef + 1000000 ∧ ({ State.reset with clock := 3000000 } : State).dev.podRef + 1000000 ≤ 1000000 := by decide +kernel
/-- A bridge that waits for no flit, for this one, and for another; a flit of seven. -/
theorem witness_FabricNetworkResult_bridges :
    let f : BridgeFlit := ⟨true, 2, 7⟩
    let at_ := fun (k : Option (BitVec 2 × Nat)) => (({ bridges := [(7, { again := k })] } : Device).bridges.getD 7 {}).again
    f.count ≤ 7 ∧ at_ none = none ∧ at_ (some (2, 7)) = some (f.vc, f.count) ∧ at_ (some (1, 3)) ≠ none ∧ at_ (some (1, 3)) ≠ some (f.vc, f.count) ∧
    (⟨false, 2, 7⟩ : BridgeFlit).crcOk = false ∧ 640 ∈ [25, 50, 80, 160, 320, 640] ∧ 16 ∈ [1, 2, 4, 8, 16] ∧ 32 ∉ [1, 2, 4, 8, 16] := by decide +kernel

/-- Queue pair 63 of function 64, whose key set in the mapped page allows the key of `podPtr`; work posted there. -/
def networked (f : QueuePair → QueuePair := id) : State :=
  let s := { Mapped (World (ready (.nop false))) with dev := { qps := [(64 * 64 + 63, f { kset := dw (2 ^ 47), rnr := 1 })] } }
  { s with hbm := s.hbm.write (32 * 65536) (toBytes 4 0x000F0007) }
def work (len : Nat) : NetWork :=
  { ptr := dw podPtr, host := false, len := len, gkid := 7, dom := 0, imm := none, psn := 5, got := [], pos := 0, asked := none, sent := true
    tries := 0 }
/-- A key set that can be read, one at a busy home, and one in no region; a buffer whose key allows it and one whose key does not. -/
theorem witness_FabricNetworkResult_posts :
    let s := networked
    let q := s.qp 64 63
    let apx := BitVec.ofNat 13 (s.aptAt (s.seat (384 + 64)) q.dom.toNat).toNat
    let keys := fun (ks : List Byte) => (List.range 16).map fun k => wd (ofBytes ((ks.drop (4 * k)).take 4))
    q.error = false ∧ q.posts = [] ∧ s.podFails (netAgent 64) 2 (vaOf q.kset) 64 = false ∧ q.sends = [] ∧
    (match s.podRead (netAgent 64) 2 (vaOf q.kset) 64 with
     | some ks => [0, 1].all fun r => locketOk (keys ks) (relocate apx (dw podPtr)) r && !locketOk (keys ks) (relocate apx (dw (podPtr + 2 ^ 60))) r
     | none => false) = true ∧
    (moving s).podFails (netAgent 64) 2 (vaOf q.kset) 64 = false ∧ (moving s).podRead (netAgent 64) 2 (vaOf q.kset) 64 = none := by
  decide +kernel
theorem witness_FabricNetworkResult_pairs :
    (networked.qp 64 63).recvs = [] ∧ ((networked fun q => { q with error := true }).qp 64 63).error = true ∧
    (let q := (networked fun q => { q with recvs := [work 64] }).qp 64 63
     q.recvs = [work 64] ∧ (work 64).len < 65 ∧ 64 ≤ (work 64).len ∧ q.pending = [] ∧ (work 64).asked = none ∧ (work 64).pos = 0) ∧
    (let q := (networked fun q => { q with sends := [{ work 64 with sent := false, asked := some 4 }] }).qp 64 63
     q.sends.find? (fun x => !x.sent) = some { work 64 with sent := false, asked := some 4 }) ∧
    (∀ n ∈ [0, 1], let w := { work 64 with tries := n }
      let q := (networked fun q => { q with sends := [w] }).qp 64 63
      q.sends.find? (fun w => w.sent && w.psn == 5) = some w ∧ (w.tries < q.rnr ↔ n = 0) ∧ q.sends.find? (fun w => w.sent && w.psn == 6) = none) := by
  decide +kernel

/-- Each state of the life cycle; firmware of the fused version and of one below it; a session of the function of partition 63; a line that a
scrub can reach. -/
def trusted (d : Device) : State := { State.reset with dev := d }
theorem witness_TrustResult :
    (∀ l ∈ [LifeCycle.blank, .provisioned, .deployed, .service], (trusted { life := l }).dev.life = l) ∧
    (let d := (trusted { fused := [(2, 5)] }).dev
     d.fused.getD (⟨2, 1, true, 5⟩ : FwImage).reg 0 ≤ (⟨2, 1, true, 5⟩ : FwImage).version ∧ (⟨2, 1, true, 4⟩ : FwImage).version < d.fused.getD 2 0 ∧
     (⟨2, 1, false, 5⟩ : FwImage).sigOk = false) ∧
    ((trusted { dumpbase := 1 }).dev.dumpbase ≠ 0 ∧ (trusted {}).dev.dumpbase = 0) ∧
    (let s := { trusted { spdm := [(64, { version := true, caps := true, algs := true, sessions := [(5, true, 0)] })] } with
       parts := [(63, { live := lay 2 0x0000000002400007 })] }
     (∃ x ∈ (s.dev.spdm.getD (63 + 1) {}).sessions, x.2.1 = true) ∧ (s.part 63).frames = (7, 9) ∧ 7 ≤ 8 ∧ 8 + 8 ≤ 7 + 9 ∧ ¬(8 + 9 ≤ 7 + 9)) ∧
    State.reset.dpaLine 0 = none ∧ waiting3.dpaLine (32 * 65536 + 64) = some (0, podPtr / 64, 0) := by decide +kernel
/-- The SPDM states: nothing asked yet, version, capabilities, algorithms; a session begun and one finished. -/
theorem witness_TrustResult_spdm :
    let at_ := fun (q : Spdm) => (trusted { spdm := [(0, q)] }).dev.spdm.getD 0 {}
    (at_ {}).version = false ∧ (at_ { version := true }).version = true ∧ (at_ { version := true }).caps = false ∧ (at_ { caps := true }).caps = true ∧
    (at_ { caps := true }).algs = false ∧ (at_ { algs := true }).algs = true ∧ (trusted {}).dev.identity = true ∧ (trusted { identity := false }).dev.identity = false ∧
    (∃ x ∈ (at_ { sessions := [(5, false, 0)] }).sessions, x.1 = (5 : DWord) ∧ x.2.1 = false) ∧
    (∃ x ∈ (at_ { sessions := [(5, true, 0)] }).sessions, x.1 = (5 : DWord) ∧ x.2.1 = true) ∧ (at_ {}).sessions = [] ∧ (1#768 ≠ 0#768) ∧
    (trusted {}).dev.ide = none ∧ (trusted { ide := some 5 }).dev.ide = some 5 := by decide +kernel

/-- A core, a cluster and a slice in use, out of use, and gated. -/
theorem witness_PowerResult :
    (∃ t ∈ waiting3.teams, ∃ g ∈ t.2.groups, g.2.core = 0) ∧ (∀ t ∈ waiting3.teams, ∀ g ∈ t.2.groups, g.2.core ≠ 383 ∧ g.2.core / 4 ≠ 95) ∧
    (waiting3.core 383).gated = false ∧ ((waiting3.modCore 383 fun k => { k with gated := true }).core 383).gated = true ∧
    ((waiting3.modCluster 95 fun k => { k with gated := true }).cluster 95).gated = true ∧
    (∃ p ∈ waiting3.parts, (p.2.live.sls 0).getLsbD 0 = true) ∧ (∀ p ∈ waiting3.parts, (p.2.live.sls 3).getLsbD 31 = false) ∧
    (({ waiting3 with slices := [(127, { gated := true })] } : State).slice 127).gated = true := by decide +kernel

/-- Recovery, service, and confidential mode with and without IDE keys; each value of a register's command field. -/
theorem witness_RegisterWriteResult :
    (trusted { recovery := true }).dev.recovery = true ∧ (trusted {}).dev.recovery = false ∧ (trusted {}).dev.conf = false ∧
    ((trusted { conf := true }).dev.conf = true ∧ (trusted { conf := true }).dev.ide = none ∧ (trusted { conf := true, ide := some 5 }).dev.ide ≠ none) ∧
    (∀ k < 3, (dw (k * 2 ^ 62)).toNat / 2 ^ 62 = k) ∧ (∀ k < 5, (dw (k * 2 ^ 61)).toNat / 2 ^ 61 = k) ∧
    ∀ k < 5, (dw (k * 2 ^ 60)).toNat / 2 ^ 60 = k := by decide +kernel

/-! ## Addresses, encodings, the whole machine -/

/-- The largest host-form pointer and the offset that leaves host form; a pointer of a key. -/
theorem witness_HostFormPointer : (2 ^ 47 - 1 : DWord).toNat < 2 ^ 47 ∧ 2 ^ 47 ≤ (2 ^ 47 - 1 : DWord).toNat + 1 ∧
    (2 ^ 47 - 1 : DWord).toNat + (2 ^ 47) < 2 ^ 48 ∧ 2 ^ 47 ≤ (2 ^ 47 : DWord).toNat ∧ 2 ^ 47 ≤ (2 ^ 60 : DWord).toNat := by decide +kernel
/-- A set of four homes, and the last aligned run of four pages. -/
theorem witness_HomeOfPage : ((3#64).toNat % 2 ^ 8 + 1 = 2 ^ 2) ∧ (2 ^ 42 - 1 + 1) * 4 ≤ 2 ^ 44 := by decide +kernel
/-- Words of uniform major 0x09 with fn 5 and with fn 6. -/
theorem witness_UniformCompareResult_words : ∀ n ∈ [5, 6], let w : Word := BitVec.ofNat 32 (0x89000000 + n)
    w.extractLsb' 31 1 = 1 ∧ w.extractLsb' 24 6 = 0x09 ∧ (w.extractLsb' 0 6).toNat = n := by decide +kernel

theorem witness_EncodingRoundTrip : ∃ i : Instr, i.wf = true ∧ encode i ≠ [] := ⟨.fadd (pre 95 true 5 0 0) ⟨0, 120, 11, 12, true⟩, by decide, by decide⟩
theorem witness_DecodingExact : ∃ ws i, decodeWords (ws ++ [7]) = .ok (i, [7]) :=
  ⟨[0x3F0A9160, 0x04040914], .fma ⟨false, some ⟨5, false, true, 1, 11, 0⟩⟩ ⟨0, 8, 9, 10, false⟩, rfl⟩
theorem witness_FatalErrorHolds : (trusted { fatal := true }).dev.fatal = true ∧ .fullReset ∉ (trusted { fatal := true }).inputs ∧
    .fullReset ∈ ({ trusted { fatal := true } with inputs := [.fullReset] } : State).inputs := by decide +kernel
theorem witness_StepKeepsMemory : State.reset.memOk ∧ isNext (step State.reset) = true :=
  ⟨by unfold State.memOk; decide, by decide +kernel⟩

/-- The issue of a word right after reset; a fetch that finds its line; runs that go on and that end. -/
theorem witness_StepRunsDecoded :
    (let s := State.reset.withFetchWord 32 0x01450B18
     let c := s.tick.observe.choose
     c.1 = .issue 0 1 ∧ (match (c.2.core 0).runs.find? fun r => r.rid == 1 with
       | some r => match decodeWords r.code with
         | .ok (i, _) => decide (i = Instr.fadd ⟨false, none⟩ ⟨1, 10, 11, 12, false⟩)
         | .error _ => false
       | none => false) = true) ∧
    (let s := starting
     let a : RunAt := ⟨0, 1, tm s, dw podPtr⟩
     let ea := relocate (tm s).apx (dw podPtr)
     locketOk (tm s).keys ea 3 = true ∧ (s.core 0).refused = [] ∧ podPtr % 4 = 0 ∧
     ((s.core 0).icache.find? fun x => x.line == vaOf ea / 64 && x.gkid == locketGkid (tm s).keys ea && decide (s.nowAt 0 < x.lend)).isSome = true ∧
     (match s.fetchWord a (dw podPtr) (dw podPtr) with
      | .word w => decide (w = 0x08000000)
      | _ => false) = true) ∧
    (let s := starting.modCore 0 fun k => { k with icache := [], once := [(1, dw podPtr, ⟨podPtr / 64, 7, 0, 0, 5, 0⟩)] }
     let ea := relocate (tm s).apx (dw podPtr)
     ((s.core 0).once.find? fun o => o.1 == 1 && o.2.1 == dw podPtr && o.2.2.line == vaOf ea / 64 && o.2.2.gkid == locketGkid (tm s).keys ea).isSome =
       true) ∧
    endsRun (.fadd bareMod ⟨0, 1, 2, 3, false⟩) = false ∧ endsRun (.ret true) = true ∧ isPrefix 0x3F0A9160 = true := by decide +kernel
/-- A budget refill on the agenda, due, and a message from the host; nothing at all. -/
theorem witness_StepRunsEvents :
    ({ State.reset with agenda := [.budgetRefill] } : State).tick.observe.choose.1 = .agenda .budgetRefill ∧
    ({ State.reset with due := [(2, .budgetRefill)] } : State).tick.observe.choose.1 = .due 2 .budgetRefill ∧
    ({ State.reset with inputs := [.provision] } : State).tick.observe.choose.1 = .input .provision ∧
    State.reset.tick.observe.choose.1 = .idle := by decide +kernel

/-! ## Single steps, by the spec's worked examples -/

/-- One step on the words `ws`, next to issue for sixteen threads on core 0; thread 3 has the vector registers `vs`, the group the uniform
registers `gs` and jet order `jo`. -/
def stepOf (ws : List Word) (vs : SMap Word) (gs : SMap DWord := []) (jo : Nat := 0) : State :=
  let s := ((State.reset.placed ws).modThread q3 fun x => { x with v := vs }).modGroup 1 0 fun g => { g with g := gs, jo := jo }
  let s := s.modCore 0 fun k => { k with runs := k.runs.map fun r => { r with jo := jo } }
  after (step { s with oracle := s.aim })
/-- Register `n` of thread 3. -/
def reg (s : State) (n : Nat) : Word := (thr s).r n
/-- Flags in plane 0 of the group's `jxf` by name: NV, DZ, OF, UF, NX. -/
def flags (s : State) : List Bool := (List.range 5).map (grp s).jxf.getLsbD

/-- R267's example: 65,504 + 32 overflows, 1 + 1 is exact. -/
theorem test_fadd_f16x2 : let s := stepOf [0x01450B18] [(11, 0x3C007BFF), (12, 0x3C005000)]
    reg s 10 = 0x40007C00 ∧ flags s = [false, false, true, false, true] := by decide +kernel
/-- R272's example: 300.75 to S8, with `.rtz.sat` and without. -/
theorem test_fcvt_sat : let s := stepOf [0x3FFE1010, 0x0B010330] [(3, 0x43966000)]
    reg s 2 = 0x7F ∧ (flags s).head? = some true := by decide +kernel
theorem test_fcvt_wrap : let s := stepOf [0x3FFE1000, 0x0B010330] [(3, 0x43966000)]
    reg s 2 = 0x2C ∧ (flags s).head? = some true := by decide +kernel
/-- R273's example: an element and an outlier. -/
theorem test_qnt_element : let s := stepOf [0x0C048230] [(2, 0x40533333)] [(12, 0x40E00000000000FC)]
    reg s 9 = 0x35 ∧ flags s = [false, false, false, false, true] := by decide +kernel
theorem test_qnt_outlier : let s := stepOf [0x0C048230] [(2, 0x41100000)] [(12, 0x40E00000000000FC)]
    reg s 9 = 0x8000007F ∧ flags s = [true, false, false, false, true] := by decide +kernel
/-- R275's examples. -/
theorem test_iadd_sat : reg (stepOf [0x3FFE0014, 0x1002050C] [(5, 0x7F800110), (6, 0x0181FF05)]) 4 = 0x7F800015 := by decide +kernel
theorem test_iadd_wrap : reg (stepOf [0x3FFE0004, 0x1002050C] [(5, 0x7F800110), (6, 0x0181FF05)]) 4 = 0x80010015 := by decide +kernel
theorem test_imulh : let vs : SMap Word := [(5, 0xFFFFFFFF), (6, 2)]
    reg (stepOf (encode (.imulhs bareMod ⟨4, 5, 6, false⟩)) vs) 4 = 0xFFFFFFFF ∧
    reg (stepOf (encode (.imulhu bareMod ⟨4, 5, 6, false⟩)) vs) 4 = 1 := by decide +kernel
/-- R216's example: an amount of 32, and of 1 with a bit above [7:0]. -/
theorem test_shl_amount : reg (stepOf [0x13008206] [(2, 1), (3, 0x120)]) 1 = 0 ∧ reg (stepOf [0x13008206] [(2, 1), (3, 0x101)]) 1 = 2 := by
  decide +kernel
/-- R278's example: unsigned and signed. -/
theorem test_icmplt : let vs : SMap Word := [(8, 0xFFFFFFFF), (9, 1)]
    (thr (stepOf [0x16C18812] vs)).p.getLsbD 3 = false ∧ (thr (stepOf (encode (.icmplts bareMod ⟨3, 8, 9, false⟩)) vs)).p.getLsbD 3 = true := by
  decide +kernel
/-- R279's examples. -/
theorem test_movi_sign : reg (stepOf [0x190EFFFE] []) 7 = 0xFFFFFFFE := by decide +kernel
theorem test_movhi_keeps : reg (stepOf [0x1A0E1234] [(7, 0x5678)]) 7 = 0x12345678 := by decide +kernel
/-- R274: `sel v3, v4, v5, p2` takes the second where p2 is clear. -/
theorem test_sel_clear : reg (stepOf [0x3FFE0040, 0x0D01840A] [(4, 7), (5, 9)]) 3 = 9 := by decide +kernel
/-- R261's example: the jet of x, of x·x, of x³ + x at 3, its second derivative and the jet of f'. -/
theorem test_jseed : let s := stepOf [0x1D040206] [(2, 0x40400000), (3, 0x3F800000)] [] 2
    [reg s 8, reg s 9, reg s 10] = [0x40400000, 0x3F800000, 0] := by decide +kernel
theorem test_fmul_jet : let s := stepOf [0x03060810] [(8, 0x40400000), (9, 0x3F800000)] [] 2
    [reg s 12, reg s 13, reg s 14] = [0x41100000, 0x40C00000, 0x3F800000] := by decide +kernel
theorem test_fma_jet : let s := stepOf [0x3FFE0100, 0x04080C10] [(8, 0x40400000), (9, 0x3F800000), (12, 0x41100000), (13, 0x40C00000), (14, 0x3F800000)] [] 2
    [reg s 16, reg s 17, reg s 18] = [0x41F00000, 0x41E00000, 0x41100000] := by decide +kernel
theorem test_jder : reg (stepOf [0x1E021044] [(16, 0x41F00000), (17, 0x41E00000), (18, 0x41100000)] [] 2) 4 = 0x41900000 := by decide +kernel
theorem test_jdiff : let s := stepOf [0x1E0A1006] [(16, 0x41F00000), (17, 0x41E00000), (18, 0x41100000)] [] 2
    [reg s 20, reg s 21, reg s 22] = [0x41E00000, 0x41900000, 0] := by decide +kernel
/-- R309's example: the results enter the level with no flag. -/
theorem test_sfx_level : (thr (stepOf [0x2D102800] [(5, 0x40400000)])).level.map (fun e => e.v) = [0x41000000] ∧
    (thr (stepOf [0x2D0C2860] [(5, 0x40400000), (6, 0x3F000000)])).level.map (fun e => e.v) = [0x40C00000] := by decide +kernel

/-- R334's example, and `gaddi g3, g3, -1` of the encoding examples with g3 = 0. -/
theorem test_gmovz : (grp (stepOf [0x88061234] [] [(1, 7)])).gr 1 = 0x0000123400000000 := by decide +kernel
theorem test_gaddi : (grp (stepOf [0x820C3FFF] [])).gr 3 = 0xFFFFFFFFFFFFFFFF := by decide +kernel

/-- The tree examples: threads 4 to 7 with the values given in v5, `gm` naming them. -/
def tree (i : Instr) (vs : List Word) : List Word :=
  let s := (ready i).modCore 0 fun k => { k with runs := k.runs.map fun r => { r with set := [⟨1, 0, 4⟩, ⟨1, 0, 5⟩, ⟨1, 0, 6⟩, ⟨1, 0, 7⟩] } }
  let s := (List.range 4).foldl (fun s k => s.modThread ⟨1, 0, 4 + k⟩ fun x => { x with v := [(5, vs.getD k 0)] }) (s.modGroup 1 0 fun g => g.setG 6 0xF0)
  let t := after (exec i s)
  (List.range 4).map fun k => ((t.thread? ⟨1, 0, 4 + k⟩).map fun x => x.r 4).getD 99
/-- R303's table. -/
theorem test_scanadd : tree (.redaddI32 true ⟨4, 5, 6⟩) [5, 6, 7, 8] = [26, 26, 26, 26] ∧ tree (.scanaddI32 true ⟨4, 5, 6⟩) [5, 6, 7, 8] = [5, 11, 18, 26] := by
  decide +kernel
theorem test_xscanadd : tree (.xscanaddI32 true ⟨4, 5, 6⟩) [5, 6, 7, 8] = [0, 5, 11, 18] ∧ tree (.bcast true ⟨4, 5, 6⟩) [5, 6, 7, 8] = [5, 5, 5, 5] ∧
    tree (.rank true ⟨4, 0, 6⟩) [] = [0, 1, 2, 3] := by decide +kernel
/-- R228's example: 2^24, 1, 1 and −2^24 give 1. -/
theorem test_redadd_order : tree (.redaddF32 true ⟨4, 5, 6⟩) [0x4B800000, 0x3F800000, 0x3F800000, 0xCB800000] =
    [0x3F800000, 0x3F800000, 0x3F800000, 0x3F800000] := by decide +kernel

/-- The first example of the addresses: aperture 0x042, a set of 48 homes. -/
theorem test_relocate : relocate 0x042 0x00007F3A12345678 = 0x00217F3A12345678 ∧
    (let s := { State.reset with dist := [(3 * 8192 + 0x42, dw (2 ^ 62 + 0x100 * 2 ^ 32 + 47))], setlist := [(3 * 16384 + 0x10F, 0x0311)] }
     s.homeOf 3 0x00217F3A12345678 = (3, 0x11)) := by decide +kernel
/-- R73's example: word 3 of row 5 under code 3. -/
theorem test_rotated : rotated 3 (512 * 5 + 12) = 512 * 5 + 4 * ((3 + 5) % 32) ∧ rotated 3 (512 * 31 + 4) = 512 * 31 := by decide +kernel
/-- The example of R179: C, then B before A; with C ready at 8,000, B first. -/
theorem test_arbitration :
    let c := fun (n prio since : Nat) => (⟨⟨1, 0, n⟩, n, n, prio, since, 0, 0, 0, 0⟩ : Cand)
    (firstCand 10000 [c 0 1 9700, c 1 3 9960, c 2 1 7900]).map (fun x => x.lane) = some 2 ∧
    (firstCand 10000 [c 0 1 9700, c 1 3 9960]).map (fun x => x.lane) = some 1 ∧
    (firstCand 10000 [c 0 1 9700, c 1 3 9960, c 2 1 8000]).map (fun x => x.lane) = some 1 := by decide +kernel
/-- R166's example: four teams of a launch of width 32 fit on a core, a fifth does not. -/
theorem test_room :
    let r := { placedRec with width := 32, roles := [⟨8, 64, 2, 4, 1024⟩, ⟨4, 32, 0, 0, 256⟩], banks := 2 }
    let t : Team := { width := 32, roles := r.roles }
    let here := fun (n : Nat) => (List.range n).flatMap fun _ => (List.range 12).map fun i => (t, ({ role := roleOf r.roles i } : Group))
    (r.room 0 (List.range 12) (here 3)).isSome = true ∧ (r.room 0 (List.range 12) (here 4)).isSome = false := by decide +kernel
end Sys2Proof.Tests
end

/-! PROOFS. Fences, sleep and a thread's own waits. -/
section

namespace Sys2Proof.Machine

/-! ## One thread changed -/

theorem State.modThread_teamsOnly (s : State) (q : ThreadRef) (f : Thread → Thread) :
    s.modThread q f = { s with teams := (s.modThread q f).teams } := by
  unfold State.modThread State.modGroup State.modTeam
  split <;> rfl

theorem State.threadsOnly_modThread (s : State) (q : ThreadRef) (f : Thread → Thread) : ThreadsOnly s (s.modThread q f) [q] where
  team c x hx := by
    rw [State.modThread, State.modGroup, State.team?_modTeam, hx]
    split
    · exact ⟨_, rfl, Team.modGroup_rest x _ _⟩
    · exact ⟨_, rfl, rfl⟩
  group c g x hx := by
    refine ⟨_, by rw [State.group?_modThread, hx]; rfl, ?_⟩
    split
    · exact Group.modThread_rest x _ _
    · rfl
  others k hk := by rw [State.thread?_modThread, if_neg (by simpa using hk)]

/-- An event that changes one thread by a function turns it to what the function makes of it. -/
theorem turnsThread_of_modThread {e : Instr} {s : State} {q : ThreadRef} {x y : Thread} {f : Thread → Thread}
    (he : exec e s = .next (s.modThread q f)) (hx : s.thread? q = some x) (hf : f x = y) : TurnsThread e s q y :=
  ⟨_, he, s.modThread_teamsOnly q f, s.threadsOnly_modThread q f, by rw [State.thread?_modThread, if_pos rfl, hx, ← hf]; rfl⟩

/-! ## Fences (R103, R105, R106, R301) -/

theorem exec_fence (e : Bool) (sc : BitVec 3) (o : BitVec 2) (s : State) :
    exec (.fence e sc o) s = .next (s.issueLane (.fence e sc o) bareMod (fun _ => []) [] fun c x =>
      match fenceWait (s.nowAt c.core) x sc.toNat o.toNat with
      | some t => .wait t
      | none => .go (x.fenced sc.toNat o.toNat) 0#40) := rfl

/-- The instruction count of the lookahead windows is no condition of a release. -/
theorem releaseOk_tick (now : Nat) (x : Thread) (sc : Nat) : releaseOk now x.tick sc = releaseOk now x sc := by
  unfold releaseOk Thread.tick
  cases x.loads <;> rfl

/-- A fence whose conditions hold does not wait. -/
theorem fenceWait_tick_eq_none {now sc o : Nat} {x : Thread} (hr : 2 ≤ o → releaseOk now x sc = true)
    (ha : o % 2 = 1 → x.loads = [] ∧ (sc ≤ 1 ∨ x.loadTag = 0 ∨ x.loadTag + delta sc ≤ now)) : fenceWait now x.tick sc o = none := by
  unfold fenceWait
  have hrel : ¬(2 ≤ o ∧ releaseOk now x.tick sc = false) := by
    rintro ⟨h2, hf⟩
    rw [releaseOk_tick, hr h2] at hf
    cases hf
  rw [if_neg hrel]
  split
  next hacq =>
    obtain ⟨hl, ht⟩ := ha hacq
    have hl : x.tick.loads = [] := by simp [Thread.tick, hl]
    have ht : ¬(2 ≤ sc ∧ now < x.tick.loadTag + delta sc ∧ x.tick.loadTag ≠ 0) := by
      change ¬(2 ≤ sc ∧ now < x.loadTag + delta sc ∧ x.loadTag ≠ 0)
      omega
    simp only [hl, if_neg ht]
  next => rfl

/-- What a performed fence of scope `sc` and order `o` leaves of a thread. -/
def fenceEff (sc o : Nat) (x : Thread) : Thread := { x with
  fenceTag := if decide (2 ≤ o) then max x.fenceTag x.hzg else x.fenceTag
  hzg := if decide (o % 2 = 1) then max x.hzg x.loadTag else x.hzg
  notBefore := if decide (o % 2 = 1) && decide (2 ≤ sc) then max x.notBefore (x.loadTag + delta sc) else x.notBefore
  loadTag := if decide (o % 2 = 1) then 0 else x.loadTag }

/-- An acquire adopts the tag, and from scope `clu` on holds later global loads back (R105). -/
theorem acquire_eq (x : Thread) (tag sc : Nat) : x.acquire tag sc = { x with
    hzg := max x.hzg tag, notBefore := if 2 ≤ sc then max x.notBefore (tag + delta sc) else x.notBefore } := by
  unfold Thread.acquire
  by_cases h : sc ≤ 1
  · rw [if_pos h, if_neg (by omega)]; rfl
  · rw [if_neg h, if_pos (by omega)]; rfl

theorem fenced_tick (x : Thread) (sc o : Nat) : x.tick.fenced sc o = { fenceEff sc o x with loads := x.tick.loads } := by
  unfold Thread.fenced fenceEff
  by_cases ha : o % 2 = 1
  · by_cases hr : 2 ≤ o <;> simp [ha, hr, acquire_eq, Thread.tick]
  · by_cases hr : 2 ≤ o <;> simp [ha, hr, Thread.tick]

/-! ## Sleep (R300) -/

/-- What `sleep` does for a thread: it leaves the run, sleeping, at the next word. -/
def sleepFate (c : LaneCtx) (x : Thread) : Fate := .leave { x with st := .sleeping, pc := c.link } 0#40
/-- What `sleep` then does for it: its wake-up is set. -/
def sleepAfter (n : Nat) (s : State) (c : LaneCtx) (_ : Thread) (f : Fate) : State :=
  match f with
  | .leave _ _ => s.postAt (s.clock + 2 * (64 * 2 ^ n)) (.sleepExpiry c.ref)
  | _ => s

theorem exec_sleep (e : Bool) (n : BitVec 4) (s : State) :
    exec (.sleep e n) s = .next (s.issueMem (.sleep e n) bareMod false [] sleepFate (sleepAfter n.toNat)) := rfl

/-- A memory word by which the one thread of its issue set leaves, unsuspended: the thread leaves the run, then the word acts for it. -/
theorem issueMem_leave {s : State} {i : Instr} {m : Mod} {gm : Bool} {vs : List VOp} {c : Nat} {r : Run} {q : ThreadRef} {x y : Thread}
    (h : LaneReady s i m vs [] c r gm) (hr : r.set = [q]) (hx : s.thread? q = some x)
    (fate : LaneCtx → Thread → Fate) (after : State → LaneCtx → Thread → Fate → State)
    (hf : ∀ k : LaneCtx, k.pc = r.pc → fate k x.tick = .leave y 0#40) (hy : y.st ≠ .suspended) :
    ∃ u k, s.issueMem i m gm vs fate after = after u k x.tick (.leave y 0#40) ∧ k.ref = q ∧ s.coresOnly u ∧ ThreadsOnly s u [q] ∧
      u.thread? q = some y := by
  obtain ⟨t, g, _, ht, hg, _⟩ := h.each q (by simp [hr])
  have hF : s.laneFates c r i m gm vs [] fate = r.set.map fun p => (p, partFate (fun _ => false) (fun _ => y) (fun _ => 0#40) p) := by
    apply laneFates_ready h
    intro p hp t g z _ _ hz
    obtain rfl : p = q := by simpa [hr] using hp
    rw [hx] at hz; cases hz
    exact (hf _ rfl).symm
  have hrun : (s.useLines c (runTags r vs [])).run? = some (c, r) := by rw [State.run?_useLines]; exact h.run
  obtain ⟨_, u, hu, hO, hteam, hgroup, hthread, hoth⟩ := parts_lookups hrun i (fun _ => false) (fun _ => y) fun _ => 0#40
  refine ⟨u, ⟨q, c, t, g, r.jo, r.pc⟩, ?_, rfl, (State.coresOnly_useLines s c _).trans hO, ⟨hteam, ?_, ?_⟩, ?_⟩
  · unfold State.issueMem
    rw [h.run]
    simp only [hF]
    rw [nameLines_ready _ _ _ _ _ _ (by simp [partFate]), hu]
    simp [hr, partFate, leavers, hy, State.laneWaits, firstWait, State.laneCtx?, ht, hg, hx]
  · intro k n z hz
    obtain ⟨w, hw, e⟩ := hgroup k n z hz
    refine ⟨w, hw, ?_⟩
    rw [e, foldl_or_zero]
    simp
  · intro p hp
    exact hoth p (by simpa [hr] using hp)
  · exact hthread q (by simp [hr]) x hx

/-- Settles O12: a fence whose conditions hold does not wait (`fenceWait_tick_eq_none`), `sleep` takes its thread out of the run
(`issueMem_leave`), and each end of a wait changes that thread alone. -/
theorem fenceWaitResult : Obligations.FenceWaitResult := by
  unfold Obligations.FenceWaitResult
  refine ⟨?fence, ?sleep, ?expiry, ?release, ?acquire⟩
  case fence =>
    intro e sc o s c r rel acq δ h hc
    refine ⟨_, exec_fence e sc o s, ?_⟩
    refine issueLane_goes (vs := fun _ => []) h _ (fun _ x => (fenceEff sc.toNat o.toNat x, 0#40)) ?_ fun _ _ => rfl
    intro q hq t g x _ _ hx
    obtain ⟨hr, ha⟩ := hc q hq x hx
    have hw : fenceWait (s.nowAt c) x.tick sc.toNat o.toNat = none :=
      fenceWait_tick_eq_none (fun h2 => hr (decide_eq_true h2)) fun h1 => ha (decide_eq_true h1)
    simp only [hw, fenced_tick]
  case sleep =>
    intro e n s c r q x h hr hx
    obtain ⟨u, k, hu, hk, hO, hT, hq⟩ := issueMem_leave h hr hx sleepFate (sleepAfter n.toNat)
      (y := { x.tick with st := .sleeping, pc := ptrAdd r.pc 4 }) (fun k hk => by rw [sleepFate, LaneCtx.link, hk]) (by simp)
    have hexec : exec (.sleep e n) s = .next (u.postAt (s.clock + 128 * 2 ^ n.toNat) (.sleepExpiry q)) := by
      have hclock : u.clock = s.clock := by rw [hO]
      rw [exec_sleep, hu, sleepAfter, hk, hclock, show 2 * (64 * 2 ^ n.toNat) = 128 * 2 ^ n.toNat by omega]
    exact ⟨_, hexec, ⟨hT.team, hT.group, hT.others⟩, by rw [hO]; rfl, hq⟩
  case expiry =>
    intro q s x hx hst
    exact turnsThread_of_modThread rfl hx (if_pos hst)
  case release =>
    intro q s g x sc hg hx hst hok
    refine turnsThread_of_modThread (by simp only [exec, execReleaseConditionsMet, hg]; rfl) hx ?_
    simp only [hst, hok, if_true]
  case acquire =>
    intro q s g x n hg hx hst hle
    refine turnsThread_of_modThread (by simp only [exec, execAcquireWaitEnd, hg]; rfl) hx ?_
    simp only [hst, if_pos hle]

end Sys2Proof.Machine
end

/-! PROOFS. A lane store that holds a line of a thread twice, for two lanes: a state that the faults' hypothesis `CanTrap` admits. -/
section

namespace Sys2Proof.Machine

/-! ## The push of a fault finds the line of another lane (R53, R55, R364) -/

/-- The thread of `twoLanes`: suspended, with the store of request 0 not accepted. -/
def storing : Thread := { st := .suspended, stores := [(0, 0)] }
/-- Its group, from lane 0 on. -/
def storingGroup : Group := { threads := [(0, storing)] }
/-- Its team, with a handler at 8 and a segment of 512 bytes for a thread. -/
def storingTeam : Team := { roles := [⟨1, 0, 0, 0, 512⟩], tvec := 8, groups := [(0, storingGroup)] }
/-- A clean line of the thread, in a lane's store. -/
def cleanLine (lane line : Nat) : LaneLine := ⟨lane, ⟨0, 0, 0⟩, line, 0, 0, BitVec.allOnes 64⟩
/-- The line that the top of the call stack lies in is held for lane 1 and, behind it, for lane 0, which is the thread's; four more lines
fill that set of lane 1, the least recently used one dirty. -/
def twoLanes : State := { State.reset with
  teams := [(0, storingTeam)]
  cores := [(0, { lanes := [cleanLine 1 0, cleanLine 0 0, cleanLine 1 16, cleanLine 1 32, cleanLine 1 48,
    { cleanLine 1 64 with dirty := 1 }] })] }
/-- The store that the thread waits for. -/
def storingReq : Req := { reqOf 0 storingTeam 0 0 (.thread ⟨0, 0, 0⟩) 0 4 with acc := .store, size := 4 }

/-- The hypothesis of the faults holds: a line of the thread's own lane is there, and its set has room. -/
theorem canTrap_twoLanes : CanTrap twoLanes ⟨0, 0, 0⟩ storingTeam storingGroup storing where
  team := rfl
  group := rfl
  thread := rfl
  handler := by decide
  outside := rfl
  room := by decide
  align := rfl
  held := ⟨cleanLine 0 0, by simp [twoLanes, storingGroup, State.core, SMap.getD, SMap.find?], rfl, rfl, rfl⟩
  ways := by decide

/-- The push goes to the first line found, of lane 1, and puts the dirty line out of its full set: the write-back takes a request
number. -/
theorem exec_verdictArrival_twoLanes :
    ∃ t, exec (.verdictArrival storingReq .region) twoLanes = .next t ∧ t.nextId = twoLanes.nextId + 1 :=
  ⟨_, rfl, rfl⟩

/-- Refutes O29, by its clause on the region verdict. `CanTrap` asks for some lane-store line of the thread's own lane at the top of its call
stack, but the push takes the first line there of whatever lane. In `twoLanes` that line is another lane's, whose set is full: the fault
writes a dirty line back, which `Trapped` excludes. -/
theorem not_replyResult : ¬ Obligations.ReplyResult := by
  unfold Obligations.ReplyResult
  intro h
  obtain ⟨_, hregion, _⟩ := h twoLanes storingReq ⟨0, 0, 0⟩ storingTeam storingGroup storing rfl rfl
  have hwaits : storing.st = .suspended ∧ storing.pc = storingReq.pc ∧ (storing.arr = some (.checked storingReq.id) ∨
      (∃ l ∈ storing.loads, l.id = storingReq.id) ∨ ∃ p ∈ storing.stores, p.1 = storingReq.id) :=
    ⟨rfl, rfl, .inr (.inr ⟨(0, 0), by simp [storing], rfl⟩)⟩
  obtain ⟨t, hdoes, htrapped⟩ := hregion hwaits canTrap_twoLanes
  obtain ⟨u, hu, hid⟩ := exec_verdictArrival_twoLanes
  obtain rfl : t = u := by
    rw [Does, hu] at hdoes
    injection hdoes with h
    exact h.symm
  have hkept : t.nextId = twoLanes.nextId := by rw [htrapped.rest]
  omega

end Sys2Proof.Machine
end
